-- ==== Sys2Proof/Word.lean ====
section
/-! DEFINITION. The word types and the sparse map type of the model (R4, R8: registers are 64 bits, memory is
addressed by byte). -/
namespace Sys2Proof

/-- A register of R8, a general register of R124, a word of a descriptor. -/
abbrev Word := BitVec 64

/-- The smallest addressable unit (R157). -/
abbrev Byte := BitVec 8

/-- A sparse map keyed by number: keys strictly rising, and no entry equal to what an unlisted key reads as
(`Store.lean` holds the operations, `Laws/Store.lean` the proof that they keep that form). -/
abbrev SMap (α : Type) := List (Nat × α)

/-- One of the 640 tiles of R12. -/
abbrev TileId := Fin 640

/-- One of the four contexts of R20. -/
abbrev CtxId := Fin 4

/-- A logical port number of R290. -/
abbrev LinkId := Fin 24

/-- A context of a tile. -/
structure Loc where
  tile : TileId
  ctx : CtxId
  deriving DecidableEq, Repr

end Sys2Proof
end

