-- ==== Sys2Proof/Syntax.lean ====
section
/-! DEFINITION. The commands of the block: one constructor of `Instr` for each of the 201 rows of
spec/opcode_table.json, with the operands that the row's event carries (the table gives none), and the data they
carry: messages, job images, firmware components. -/
namespace Sys2Proof

/-- Who makes a register access (R438, R439): a host BAR access or the management bus. -/
inductive Iface where
  | host
  | mgt
  deriving DecidableEq, Repr

/-- Where an access names a register: an offset in BAR0 or BAR2 (R319), or a device address in an MCTP register
access message (R442). -/
inductive RegAt where
  | bar0 (off : Nat)
  | bar2 (off : Nat)
  | mgt (addr : Nat)
  deriving DecidableEq, Repr

/-- The step decisions of R268. -/
inductive Decision where
  | commit
  | skip
  | discard
  | halt
  deriving DecidableEq, Repr

/-- The guard of R127: predicate number GP and the inverting bit GN. -/
structure Guard where
  gp : BitVec 3
  gn : Bool
  deriving DecidableEq, Repr

/-- A route-book record of R415. -/
structure RtbRec where
  type : Nat
  tile : Nat
  ctx : Nat
  step : Nat
  att : Nat
  body : List Nat
  deriving DecidableEq, Repr

/-- The sub-operations of a BELAY message (R400). A SHADOW or RTBREC with a number in COUNT is part of a fill, which R400 gives rows alone; a FILL
without a body says that its row is not held, or ends a stream (log 29). -/
inductive BelayBody where
  | rowcopy (table slot index : Nat) (row : List Byte)
  | shadow (tile off : Nat) (bytes : List Byte) (seq : Nat)
  | rtbrec (r : RtbRec) (seq : Nat)
  | sealOf (count : Nat)
  | sealedOf (count : Nat)
  | call
  | callack
  | done
  | complete
  | ask
  | gather (table slot index : Nat) (row : List Byte)
  | feed (code : Nat)
  | fill (seq table slot index : Nat) (row : List Byte)
  | fillreq (table slot index : Nat)
  | reserved (sub : Nat)
  deriving DecidableEq, Repr

/-- The message types of R300 with their type fields and bodies. -/
inductive MsgBody where
  | stepReport (digest : Word)
  | stepDecision (d : Decision)
  | tally (table count : Nat)
  | normPartial (squares : Int) (nonfin clamps : Nat)
  | rejoin
  | decisionQuery
  | redShard (buf first : Nat) (sums : List Int)
  | redResult (buf first : Nat) (vals : List Nat)
  | treeValue (buf first dist : Nat) (vals : List Nat)
  | qmsg (queue index : Nat) (entry : List Byte)
  | rowUpdate (table index contribs : Nat) (nonfin : Bool) (sums : List Int)
  | pinReq (table slot index : Nat)
  | belay (b : BelayBody)
  | rowImage (table slot index : Nat) (row : List Byte)
  | qack (queue seq status : Nat)
  | reserved (mtype : Nat)
  deriving DecidableEq, Repr

/-- A message of R299 with the fields of R293 that route it. `lenOk` says that BLEN agrees with the flits. -/
structure Msg where
  src : Nat
  dst : Nat
  mc : Bool
  dst2 : Nat
  vc : Nat
  hops : Nat
  step : Nat
  att : Nat
  lenOk : Bool
  body : MsgBody
  deriving DecidableEq, Repr

/-- A tile's program section of a job image (R21). Ranges are (start, length) of window offsets. -/
structure TileSection where
  tile : Nat
  entries : List (Nat × Nat)
  stepSet : List Nat
  chunks : List (Nat × List Byte)
  committed : List (Nat × Nat)
  commitInputs : List (Nat × Nat)
  genCtxs : List Nat
  learnCtxs : List Nat
  deriving DecidableEq, Repr

/-- What a job image holds (R21), decoded. Descriptors are lists of eight 64-bit words as numbers. `digestAt` is where the 32 bytes of the digest
that it carries lie in it. `outputs` are the declared step outputs,
`mcUpdates` whether the job multicasts row updates to the owner and its belay partner (R200, R305). -/
structure JobImage where
  digestAt : Nat
  headerLen : Nat
  sectionsInside : Bool
  baseCamp : Bool
  sections : List TileSection
  queues : List (Nat × List Nat)
  tables : List (List Nat)
  tiers : List (List Nat)
  buffers : List (List Nat)
  redHeader : List Nat
  committedMem : List (Nat × Nat)
  outputs : List (Nat × Nat)
  inputRanges : List (Nat × Nat)
  phase : Option (Nat × Nat)
  mcUpdates : Bool
  regWrites : List (Nat × Word)
  marks : List Nat
  deriving DecidableEq, Repr

/-- What the bytes that LOAD names spell under the toolchain's layout, which the manual does not give (log 12). -/
inductive ImageRead where
  | unreadable
  | malformed
  | image (i : JobImage)
  deriving DecidableEq, Repr

/-- A configuration record's body (R427), decoded: sequence number, SKU data, the repair map of R15 (for each die the physical tile on each
logical position, in order), whether that arrangement joins logical neighbours by direct mesh links (the manual does not say where the
physical tiles lie), the array row map of R94 as (4 × tile + array, row), the voltage, clock and PHY trims, and the flash offset of the PUF
helper data. -/
structure ConfigBody where
  seqNo : Nat
  sku : List Byte
  repair : List (List Nat)
  linked : Bool
  rowMap : List (Nat × Nat)
  trims : List Byte
  helperAt : Nat
  deriving DecidableEq, Repr

/-- A signed component of R426: the fields of its header, its body's bytes, and what they spell in a configuration record. DIGEST is a number
whose first byte is most significant, SIGNER a point (x, y), SIG the pair (r, s). -/
structure Component where
  magic : Nat
  comp : Nat
  version : Nat
  svn : Nat
  floor : Nat
  len : Nat
  digest : Nat
  signer : Nat × Nat
  sig : Nat × Nat
  bytes : List Byte
  body : ConfigBody
  deriving DecidableEq, Repr

/-- How a host firmware package load ends (R436). -/
inductive FwOutcome where
  | readFailed
  | components (cs : List Component)
  deriving DecidableEq, Repr

/-- One arriving flit: its bytes after the FEC, whether a codeword under it could not be corrected, and the codewords that ended with it,
corrected and uncorrectable (R291, R293, R294, R316). -/
structure Flit where
  bytes : List Byte
  fecBad : Bool
  corrected : Nat
  uncorrected : Nat
  deriving DecidableEq, Repr

/-- Why a link retrains (R295). -/
inductive RetrainCause where
  | resends
  | lossOfSignal
  | codewords
  deriving DecidableEq, Repr

/-- A semaphore signal under way on the mesh, with the tile that sent it (R13, R144). -/
structure Signal where
  src : TileId
  tile : TileId
  ctx : CtxId
  sem : Fin 8
  amount : Nat
  deriving DecidableEq, Repr

/-- What the straps and the silicon show at power-good (R428, R432, R433, R452). `seed` is the corrected PUF
reading, absent when the helper data cannot correct it. -/
structure Straps where
  feed : Fin 16
  smbus : Bool
  seed : Option (BitVec 256)
  deriving DecidableEq, Repr

/-- An SPDM request, as far as its answer depends on it (R434). -/
inductive SpdmReq where
  | certificate (slot : Nat)
  | challenge (slot : Nat)
  | measurement (index : Nat)
  | keyExchange (slot : Nat)
  | endSession
  | pskExchange
  | setCertificate
  | other
  deriving DecidableEq, Repr

/-- Accepted samples of the sensors of R369: VIN in mV, IIN in 10 mA units, temperatures in 1/16 °C. -/
structure Sensors where
  vin : BitVec 16
  iin : BitVec 16
  die0 : BitVec 16
  die1 : BitVec 16
  hub : BitVec 16
  inlet : BitVec 16
  deriving DecidableEq, Repr

/-- The width and rate that the host link trained at (R317). -/
structure PortShape where
  width : Nat
  rate : Nat
  deriving DecidableEq, Repr
/-- The PBR ID that the fabric manager assigns, and whether IDE keys are established (R341). -/
structure PortPeer where
  pbrid : Nat
  secure : Bool
  deriving DecidableEq, Repr

/-- The end of an accepted command: which of its engine's it is, and the bank-conflict waits that SRAM accesses of any kind have met since
the last such end, by tile (R163). `moved` is the fast cycles in which it moved data (R379). -/
structure Ending where
  place : Nat
  moved : Nat
  waits : List (TileId × Nat)
  deriving DecidableEq, Repr

/-- An expiry of a context's window on a unit (0 the control core, 1 + e engine e), and the contexts of its tile that had a command on it, or ran,
at some time in the window but need not do so now: windows are timing (R380, R382). -/
structure Expiry where
  unit : Fin 7
  had : List CtxId
  deriving DecidableEq, Repr

/-- The commands: one constructor for each row of spec/opcode_table.json, in the table's order. -/
inductive Instr where
  | registerWrite (src : RegAt) (size : Nat) (value : Word)
  | rcRegisterRead (src : RegAt) (size : Nat) (incs : Nat)
  | powerGood (x : Straps)
  | rollbackFloorRaise
  | hostLinkTrained (shape : PortShape) (peer : PortPeer)
  | hostLinkTrainTimeout
  | controllerTrained (c : Fin 24) (ok : Bool)
  | channelInitialised (c : Fin 96)
  | baseCampEnd
  | load (img : ImageRead)
  | start
  | stop
  | stopImmediate
  | unload
  | vbuild
  | vready
  | vswitch
  | doorbell (q : Nat) (size : Nat) (value : Word)
  | queueDescriptorWrite (iface : Iface) (value : Word)
  | queueDescriptorRead (iface : Iface) (value : Word)
  | hostWindowWrite (off : Nat) (data : List Byte)
  | hostTileMemoryWrite (off : Nat) (data : List Byte)
  | hostTileMemoryRead (off : Nat) (len : Nat)
  | cxlRateDegraded (width : Nat)
  | ideIntegrityFailure
  | t2CompletionTimeout (tag : Nat)
  | t2Completion (tag : Nat) (status : Nat)
  | perstAssert (long : Bool)
  | perstRelease
  | modEnRise
  | modEnFall
  | overvoltageClamp (mv : Nat)
  | overvoltageOpen
  | feedFailure (mv1 mv2 : Nat)
  | inputRestored
  | powerLost
  | thermalTrip (die : Fin 3)
  | thermalWindow
  | capWindow
  | levelRequestJoin (c : Fin 676)
  | sluicePayout
  | sensorUpdate (x : Sensors)
  | setEndpointId (eid : BitVec 8)
  | mctpRegisterRead (addr size incs : Nat)
  | mctpRegisterWrite (addr size : Nat) (value : Word)
  | spdmRequest (needsSignature : Bool) (req : SpdmReq)
  | requestUpdate
  | componentTransferEnd (c : Component)
  | activateFirmware (selfContained : Bool)
  | fwLoadGo (iface : Iface) (value : Word)
  | fwLoadDone (o : FwOutcome)
  | fwAct (iface : Iface) (value : Word)
  | selftestGo (iface : Iface)
  | selftestDone (fail0 fail1 : Nat)
  | instructionIssue (t : TileId)
  | aluGroup (l : Loc) (g : Guard) (rd ra rb : BitVec 5) (fn : BitVec 7)
  | addi (l : Loc) (g : Guard) (rd ra : BitVec 5) (imm : BitVec 12)
  | andi (l : Loc) (g : Guard) (rd ra : BitVec 5) (imm : BitVec 12)
  | ori (l : Loc) (g : Guard) (rd ra : BitVec 5) (imm : BitVec 12)
  | xori (l : Loc) (g : Guard) (rd ra : BitVec 5) (imm : BitVec 12)
  | shi (l : Loc) (g : Guard) (rd ra : BitVec 5) (imm : BitVec 12)
  | movw (l : Loc) (g : Guard) (q : BitVec 2) (rd : BitVec 5) (z : Bool) (imm : BitVec 16)
  | ld (l : Loc) (g : Guard) (sz : BitVec 2) (rd ra : BitVec 5) (imm : BitVec 12)
  | st (l : Loc) (g : Guard) (sz : BitVec 2) (rd ra : BitVec 5) (imm : BitVec 12)
  | cmp (l : Loc) (g : Guard) (pd : BitVec 3) (a rb : BitVec 5) (cond : BitVec 3) (kind : BitVec 2) (low : BitVec 4)
  | stest (l : Loc) (g : Guard) (pd : BitVec 3) (a rb : BitVec 5) (cond : BitVec 3) (kind : BitVec 2) (low : BitVec 4)
  | plog (l : Loc) (g : Guard) (pd : BitVec 3) (a rb : BitVec 5) (cond : BitVec 3) (kind : BitVec 2) (low : BitVec 4)
  | br (l : Loc) (g : Guard) (off : BitVec 22)
  | call (l : Loc) (g : Guard) (off : BitVec 22)
  | jr (l : Loc) (g : Guard) (rd ra : BitVec 5) (imm : BitVec 12)
  | movs (l : Loc) (g : Guard) (rd ra rb : BitVec 5) (fn : BitVec 7)
  | swr (l : Loc) (g : Guard) (rd ra rb : BitVec 5) (fn : BitVec 7)
  | trd (l : Loc) (g : Guard) (rd ra rb : BitVec 5) (fn : BitVec 7)
  | tset (l : Loc) (g : Guard) (rd ra rb : BitVec 5) (fn : BitVec 7) (inc : Bool)
  | rdr (l : Loc) (g : Guard) (rd ra : BitVec 5) (imm : BitVec 12) (incs : Nat)
  | wrr (l : Loc) (g : Guard) (rd ra : BitVec 5) (imm : BitVec 12)
  | issue (l : Loc) (g : Guard) (rd ra rb : BitVec 5) (fn : BitVec 7)
  | issuem (l : Loc) (g : Guard) (rd ra : BitVec 5) (imm : BitVec 12)
  | clist (l : Loc) (g : Guard) (rd ra rb : BitVec 5) (fn : BitVec 7)
  | clistEntryIssue (l : Loc)
  | twait (l : Loc) (g : Guard) (ra n : BitVec 5) (imm : BitVec 12)
  | twaitSatisfied (l : Loc)
  | ttest (l : Loc) (g : Guard) (pd : BitVec 3) (a rb : BitVec 5) (cond : BitVec 3) (kind : BitVec 2) (low : BitVec 4)
  | semsig (l : Loc) (g : Guard) (ra n : BitVec 5) (imm : BitVec 12)
  | semaphoreSignalArrival (sig : Signal)
  | semwait (l : Loc) (g : Guard) (ra n : BitVec 5) (imm : BitVec 12)
  | semwaitSatisfied (l : Loc)
  | semtest (l : Loc) (g : Guard) (pd : BitVec 3) (a rb : BitVec 5) (cond : BitVec 3) (kind : BitVec 2) (low : BitVec 4)
  | wakeAhead (l : Loc) (g : Guard) (ra n : BitVec 5) (imm : BitVec 12)
  | progMark (l : Loc) (g : Guard) (ra n : BitVec 5) (imm : BitVec 12)
  | stepCommitArrive (l : Loc) (g : Guard)
  | tileArrival (t : TileId)
  | stepCommitWait (l : Loc) (g : Guard) (pd : BitVec 3)
  | stepDecisionDelivery (t : TileId)
  | stepCommitDone (l : Loc) (g : Guard)
  | stepCommitRewind (l : Loc) (g : Guard)
  | halt (l : Loc) (g : Guard) (ra n : BitVec 5) (imm : BitVec 12)
  | engineQueueFullWait (l : Loc)
  | commandCompletion (t : TileId) (eng : Fin 6) (k : Ending)
  | product (t : TileId) (feed bp thr : Nat)
  | add (t : TileId)
  | sub (t : TileId)
  | mul (t : TileId)
  | fma (t : TileId)
  | div (t : TileId)
  | sqrt (t : TileId)
  | min (t : TileId)
  | max (t : TileId)
  | abs (t : TileId)
  | neg (t : TileId)
  | vectorCmp (t : TileId)
  | sel (t : TileId)
  | cvt (t : TileId)
  | exp (t : TileId)
  | log (t : TileId)
  | tanh (t : TileId)
  | rsqrt (t : TileId)
  | normFwd (t : TileId)
  | normBwd (t : TileId)
  | smaxFwd (t : TileId)
  | smaxBwd (t : TileId)
  | slotClr (t : TileId)
  | copy (t : TileId)
  | transpose (t : TileId)
  | fill (t : TileId)
  | pool (t : TileId)
  | scatter (t : TileId)
  | update (t : TileId)
  | vpin (t : TileId)
  | vunpin (t : TileId)
  | send (t : TileId)
  | recv (t : TileId)
  | peek (t : TileId)
  | tileoutForward (q : Nat)
  | qmsgResendTimeout (q : Nat)
  | rowUpdate (m : Msg)
  | coalescerReductionComplete (table : Fin 64)
  | pinReq (m : Msg)
  | embPlan (t : TileId) (value : Word)
  | rowImage (m : Msg)
  | redShard (m : Msg)
  | redResult (m : Msg)
  | treeValue (m : Msg)
  | normPartial (m : Msg)
  | tally (m : Msg)
  | deviceReady
  | stepReport (m : Msg)
  | stepDecision (m : Msg)
  | tileStepBoundary (t : TileId)
  | deviceStepBoundary
  | rejoin (m : Msg)
  | decisionQuery (m : Msg)
  | qmsg (m : Msg)
  | qack (m : Msg)
  | nvmeCompletionEntry (cid : Nat) (ok : Bool)
  | nvmeTimeout (cid : Nat)
  | linkCfgWrite (iface : Iface) (p : Fin 12) (size : Nat) (value : Word)
  | linkTrained (l : LinkId) (peer peerPort : Nat)
  | linkTrainingTimeout (l : LinkId)
  | messageDelivery (l : LinkId) (m : Msg)
  | nak (l : LinkId) (seq : Nat)
  | ackTimeout (l : LinkId)
  | linkRetrain (l : LinkId) (cause : RetrainCause)
  | resetNotice (l : LinkId)
  | peerLost (l : LinkId)
  | errPeerdownWrite (iface : Iface) (w : Fin 64) (size half : Nat) (value : Word)
  | patrolScrub (t : TileId) (upset : Option (Fin 8 × Bool))
  | channelRetrain (c : Fin 96)
  | errorHandlingStart
  | hangDetected (l : Loc) (x : Expiry)
  | replayPositionReached
  | replayHangAgain
  | resetreqGo (iface : Iface) (value : Word)
  | deviceResetBegin
  | dumpUnitTimeout
  | dumpSealed
  | t1Verified (found : List Nat)
  | jobImageReload (img : ImageRead)
  | deviceResetFail
  | dumpcpyGo (iface : Iface) (value : Word)
  | dumpCopyDone (ok : Bool)
  | cairnCallIssue
  | callack (m : Msg)
  | cairnRowCopy (t : TileId)
  | rowcopy (m : Msg)
  | shadow (m : Msg)
  | rtbrec (m : Msg)
  | belaySeal (m : Msg)
  | belaySealed (m : Msg)
  | belayDone (m : Msg)
  | belayComplete (m : Msg)
  | ask (m : Msg)
  | gather (m : Msg)
  | feed (m : Msg)
  | fillreq (m : Msg)
  | belayFill (m : Msg)
  | flitReceived (l : LinkId) (f : Flit)
  | peerReturn (l : LinkId)
  | dieTemperatureLimit (die : Fin 3) (temp : BitVec 16)
  | hostLinkDown
  | channelRetrainComplete (c : Fin 96) (ok : Bool)
  deriving DecidableEq, Repr

end Sys2Proof
end

