-- ==== Sys2Proof/Decode.lean ====
section
/-! DEFINITION. The opcode table gives its rows no bits: the block has no encoding for its commands, so a word spells
none. The 32-bit words of the scalar instructions are operands of INSTRUCTION_ISSUE's fetch and are decoded in
Machine/Issue.lean. -/
namespace Sys2Proof

/-- The command that a word spells by the table's bits: none, since no row has bits (log 1). -/
def decodeTableWord (_nbits _w : Nat) : Option Instr := none

end Sys2Proof
end

