-- ==== Sys2Proof/Machine/Bits.lean ====
section
/-! DEFINITION. Bit fields, byte order and signed values (R4: little-endian, bit 0 least significant, x[m:l]). -/
namespace Sys2Proof

/-- Bits hi down to lo of a number. -/
def fld (w hi lo : Nat) : Nat := (w >>> lo) % 2 ^ (hi + 1 - lo)

/-- One bit of a number. -/
def bitOf (w i : Nat) : Bool := (w >>> i) % 2 = 1

/-- The number with bits hi down to lo replaced by `v` (cut to the field). -/
def setFld (w hi lo v : Nat) : Nat :=
  w - (fld w hi lo) * 2 ^ lo + (v % 2 ^ (hi + 1 - lo)) * 2 ^ lo

/-- Bits hi down to lo of a 64-bit word. -/
def wfld (w : Word) (hi lo : Nat) : Nat := fld w.toNat hi lo

/-- A 64-bit word with bits hi down to lo replaced. -/
def wset (w : Word) (hi lo v : Nat) : Word := BitVec.ofNat 64 (setFld w.toNat hi lo v)

/-- Two's-complement reading of the low n bits. -/
def toSigned (n v : Nat) : Int :=
  let u := v % 2 ^ n
  if 2 * u < 2 ^ n then (u : Int) else (u : Int) - (2 ^ n : Nat)

/-- Two's-complement encoding in n bits. -/
def ofSigned (n : Nat) (v : Int) : Nat := (v % ((2 ^ n : Nat) : Int)).toNat

/-- The value of bytes in little-endian order (R4). -/
def leVal : List Byte → Nat
  | [] => 0
  | b :: r => b.toNat + 256 * leVal r

/-- n bytes of a number in little-endian order (R4). -/
def leBytes : Nat → Nat → List Byte
  | 0, _ => []
  | n + 1, v => BitVec.ofNat 8 v :: leBytes n (v / 256)

/-- The value of bytes with the most significant first (as SM3 and SM2 write numbers). -/
def beVal (bs : List Byte) : Nat := leVal bs.reverse

/-- n bytes, most significant first. -/
def beBytes (n v : Nat) : List Byte := (leBytes n v).reverse

/-- ⌈a / b⌉. -/
def ceilDiv (a b : Nat) : Nat := (a + b - 1) / b

/-- Integer square root, by `k` halvings of the interval. -/
def isqrtGo (n : Nat) : Nat → Nat → Nat
  | 0, r => r
  | k + 1, r => let c := r + 2 ^ k; isqrtGo n k (if c * c ≤ n then c else r)

/-- ⌊√n⌋. -/
def isqrt (n : Nat) : Nat := isqrtGo n (n.log2 / 2 + 1) 0

/-- Population count of the low k bits. -/
def popGo (v : Nat) : Nat → Nat
  | 0 => 0
  | k + 1 => (if bitOf v k then 1 else 0) + popGo v k

/-- Whether two half-open byte ranges share a byte. -/
def overlaps (a la b lb : Nat) : Bool := decide (0 < la ∧ 0 < lb ∧ a < b + lb ∧ b < a + la)

/-- Whether the range [a, a+la) lies inside [b, b+lb). -/
def inside (a la b lb : Nat) : Bool := decide (b ≤ a ∧ a + la ≤ b + lb)

/-- The list without its elements equal to x. -/
def without {α : Type} [DecidableEq α] (l : List α) (x : α) : List α := l.filter (fun y => decide (y ≠ x))

/-- x added at the end unless it is there. -/
def withOne {α : Type} [DecidableEq α] (l : List α) (x : α) : List α := if x ∈ l then l else l ++ [x]

/-- Chunks of k elements (the last may be shorter); `fuel` bounds their number. -/
def chunks {α : Type} (k : Nat) : Nat → List α → List (List α)
  | 0, _ => []
  | _, [] => []
  | f + 1, l => l.take k :: chunks k f (l.drop k)

end Sys2Proof
end

