-- ==== Sys2Proof/Machine/Hash.lean ====
section
/-! DEFINITION. SM3 (GB/T 32905), the SM3-based key derivation of GB/T 32918, and CRC-32C with the polynomial of
R293: the standards that R21, R293, R394, R416, R430 and R432 name (log 14). -/
namespace Sys2Proof

/-- A 32-bit word of SM3. -/
abbrev W32 := BitVec 32

/-- Permutation P0 of SM3. -/
def sm3P0 (x : W32) : W32 := x ^^^ x.rotateLeft 9 ^^^ x.rotateLeft 17

/-- Permutation P1 of SM3. -/
def sm3P1 (x : W32) : W32 := x ^^^ x.rotateLeft 15 ^^^ x.rotateLeft 23

/-- Element i of a list of words. -/
def w32At (l : List W32) (i : Nat) : W32 := l.getD i 0

/-- Message expansion, newest word first: adds n words. -/
def sm3Expand : Nat → List W32 → List W32
  | 0, l => l
  | n + 1, l =>
    sm3Expand n ((sm3P1 (w32At l 15 ^^^ w32At l 8 ^^^ (w32At l 2).rotateLeft 15) ^^^ (w32At l 12).rotateLeft 7
      ^^^ w32At l 5) :: l)

/-- The eight working registers A to H. -/
structure Sm3Regs where
  a : W32
  b : W32
  c : W32
  d : W32
  e : W32
  f : W32
  g : W32
  h : W32
  deriving DecidableEq, Repr

/-- Round j of the compression function. -/
def sm3Round (w : List W32) (j : Nat) (r : Sm3Regs) : Sm3Regs :=
  let t : W32 := if j < 16 then 0x79cc4519 else 0x7a879d8a
  let ss1 := (r.a.rotateLeft 12 + r.e + t.rotateLeft (j % 32)).rotateLeft 7
  let ss2 := ss1 ^^^ r.a.rotateLeft 12
  let ff := if j < 16 then r.a ^^^ r.b ^^^ r.c else (r.a &&& r.b) ||| (r.a &&& r.c) ||| (r.b &&& r.c)
  let gg := if j < 16 then r.e ^^^ r.f ^^^ r.g else (r.e &&& r.f) ||| (~~~r.e &&& r.g)
  let wj := w32At w j
  let tt1 := ff + r.d + ss2 + (wj ^^^ w32At w (j + 4))
  let tt2 := gg + r.h + ss1 + wj
  ⟨tt1, r.a, r.b.rotateLeft 9, r.c, sm3P0 tt2, r.e, r.f.rotateLeft 19, r.g⟩

/-- The remaining n rounds. -/
def sm3Rounds (w : List W32) : Nat → Sm3Regs → Sm3Regs
  | 0, r => r
  | n + 1, r => sm3Rounds w n (sm3Round w (63 - n) r)

/-- Compression of one 64-byte block. -/
def sm3Block (v : Sm3Regs) (blk : List Byte) : Sm3Regs :=
  let m := (chunks 4 16 blk).map (fun c => BitVec.ofNat 32 (beVal c))
  let w := (sm3Expand 52 m.reverse).reverse
  let r := sm3Rounds w 64 v
  ⟨r.a ^^^ v.a, r.b ^^^ v.b, r.c ^^^ v.c, r.d ^^^ v.d, r.e ^^^ v.e, r.f ^^^ v.f, r.g ^^^ v.g, r.h ^^^ v.h⟩

/-- SM3 of a byte string, as a 256-bit number whose first byte is most significant. -/
def sm3 (bs : List Byte) : Nat :=
  let n := bs.length
  let pad := bs ++ [0x80] ++ List.replicate ((119 - n % 64) % 64) 0 ++ beBytes 8 (8 * n)
  let v := (chunks 64 (n / 64 + 2) pad).foldl sm3Block
    ⟨0x7380166f, 0x4914b2b9, 0x172442d7, 0xda8a0600, 0xa96f30bc, 0x163138aa, 0xe38dee4d, 0xb0fb0e4e⟩
  [v.a, v.b, v.c, v.d, v.e, v.f, v.g, v.h].foldl (fun acc x => acc * 2 ^ 32 + x.toNat) 0

/-- h(x) of R416: bits [63:0] of SM3 over an encoding. The digest is a byte string; its last eight bytes are its low
64 bits in the reading of the hash as one number (log 14). -/
def sm3Low (bs : List Byte) : Nat := sm3 bs % 2 ^ 64

/-- M_i ← SM3(M_i ‖ d) of R430. -/
def extendMeas (m d : Nat) : Nat := sm3 (beBytes 32 m ++ beBytes 32 d)

/-- The order n of the SM2 group (GB/T 32918.5). -/
def sm2Order : Nat := 0xFFFFFFFEFFFFFFFFFFFFFFFFFFFFFFFF7203DF6B21C6052B53BBF40939D54123

/-- A private key from seed bytes (R432): (KDF(z, 256) mod (n − 1)) + 1; 256 bits are one block of the KDF. -/
def derivedKey (z : List Byte) : Nat := sm3 (z ++ beBytes 4 1) % (sm2Order - 1) + 1

/-- One bit step of the reflected CRC. -/
def crcBits : Nat → Nat → Nat
  | 0, c => c
  | k + 1, c => crcBits k (if c % 2 = 1 then (c >>> 1) ^^^ 0x82F63B78 else c >>> 1)

/-- CRC-32C (polynomial 0x1EDC6F41, reflected, initial value and final inversion all ones). -/
def crc32c (bs : List Byte) : Nat :=
  bs.foldl (fun c b => crcBits 8 (c ^^^ b.toNat)) 0xFFFFFFFF ^^^ 0xFFFFFFFF

end Sys2Proof
end

