-- ==== Sys2Proof/Machine/Numeric.lean ====
section
/-! DEFINITION. Number formats, rounding, conversion and the SR12 generator, of 02_number_formats.md (R33 to R54), and
the exact values that every engine computes with. -/
namespace Sys2Proof

/-- A value of some format, exactly: NaN (signalling or not), infinity, or (-1)^s × m × 2^e. -/
inductive Val where
  | nan (signalling : Bool)
  | inf (s : Bool)
  | fin (s : Bool) (m : Nat) (e : Int)
  deriving DecidableEq, Repr

/-- The sticky flags of R57 that one element result raises. -/
structure AFlags where
  inv : Bool
  dz : Bool
  ovf : Bool
  unf : Bool
  nx : Bool
  deriving DecidableEq, Repr

/-- No flag. -/
def AFlags.none : AFlags := ⟨false, false, false, false, false⟩

/-- Invalid alone. -/
def AFlags.invalid : AFlags := ⟨true, false, false, false, false⟩

/-- Division by zero alone. -/
def AFlags.divZero : AFlags := ⟨false, true, false, false, false⟩

/-- Overflow and inexact (R50). -/
def AFlags.ofNx : AFlags := ⟨false, false, true, false, true⟩

/-- The flags of either. -/
def AFlags.or (a b : AFlags) : AFlags :=
  ⟨a.inv || b.inv, a.dz || b.dz, a.ovf || b.ovf, a.unf || b.unf, a.nx || b.nx⟩

/-- TILE_AFLAG bits [4:0] of R57: INV, DZ, OF, UF, NX. -/
def AFlags.bits (f : AFlags) : Nat :=
  (if f.inv then 16 else 0) + (if f.dz then 8 else 0) + (if f.ovf then 4 else 0) +
  (if f.unf then 2 else 0) + (if f.nx then 1 else 0)

/-- The element formats with a fixed layout (R34, R37, R45). -/
inductive Fmt where
  | fp64
  | fp32
  | fs16
  | fs8e4
  | fs8e5
  | fs4
  | c36
  deriving DecidableEq, Repr

namespace Fmt

/-- Significand bits p of R38. -/
def p : Fmt → Nat
  | fp64 => 53 | fp32 => 24 | fs16 => 8 | fs8e4 => 4 | fs8e5 => 3 | fs4 => 2 | c36 => 26

/-- Exponent field width (R37, R45). -/
def ebits : Fmt → Nat
  | fp64 => 11 | fp32 => 8 | fs16 => 8 | fs8e4 => 4 | fs8e5 => 5 | fs4 => 2 | c36 => 10

/-- Exponent bias (R37, R45). -/
def bias : Fmt → Nat
  | fp64 => 1023 | fp32 => 127 | fs16 => 127 | fs8e4 => 7 | fs8e5 => 15 | fs4 => 1 | c36 => 511

/-- Whether the format has infinities (R37). -/
def hasInf : Fmt → Bool
  | fs8e4 => false | fs4 => false | _ => true

/-- Fraction bits. -/
def fbits (f : Fmt) : Nat := f.p - 1

/-- Exponent of the smallest normal value (R38). -/
def emin (f : Fmt) : Int := 1 - (f.bias : Int)

/-- Element width in bits; C36 streams as 64-bit words (R45, R103). -/
def width : Fmt → Nat
  | fp64 => 64 | fp32 => 32 | fs16 => 16 | fs8e4 => 8 | fs8e5 => 8 | fs4 => 4 | c36 => 64

/-- The largest finite value of R38, as m × 2^e. -/
def maxFin (f : Fmt) : Nat × Int :=
  match f with
  | fs8e4 => (14, 5)
  | fs4 => (3, 1)
  | _ => (2 ^ f.p - 1, ((2 ^ f.ebits : Nat) : Int) - 2 - f.bias - f.fbits)

/-- The canonical NaN of R35. FS4 has none; R51 converts a NaN to +0 there. -/
def nanBits : Fmt → Nat
  | fp64 => 0x7FF8000000000000
  | fp32 => 0x7FC00000
  | fs16 => 0x7FC0
  | fs8e5 => 0x7E
  | fs8e4 => 0x7F
  | fs4 => 0
  | c36 => 0x7FF000000

/-- Position of the sign bit. -/
def signBit (f : Fmt) : Nat := f.ebits + f.fbits

end Fmt

/-- The value of an encoding (R34, R35, R37, R45). Bits above the format are ignored (R45 for C36). -/
def decodeFmt (f : Fmt) (b : Nat) : Val :=
  let s := bitOf b f.signBit
  let e := fld b (f.signBit - 1) f.fbits
  let fr := b % 2 ^ f.fbits
  let top := 2 ^ f.ebits - 1
  match f with
  | .fs4 => if e = 0 then .fin s fr (f.emin - f.fbits) else .fin s (2 ^ f.fbits + fr) ((e : Int) - f.bias - f.fbits)
  | .fs8e4 =>
    if e = top ∧ fr = 7 then .nan false
    else if e = 0 then .fin s fr (f.emin - f.fbits)
    else .fin s (2 ^ f.fbits + fr) ((e : Int) - f.bias - f.fbits)
  | _ =>
    if e = top then
      if fr = 0 then .inf s
      else .nan (decide ((f = .fp64 ∨ f = .fp32 ∨ f = .fs16) ∧ fr < 2 ^ (f.fbits - 1)))
    else if e = 0 then .fin s fr (f.emin - f.fbits)
    else .fin s (2 ^ f.fbits + fr) ((e : Int) - f.bias - f.fbits)

/-- n × 2^e for a signed exponent that makes it an integer; lower bits are cut. -/
def scaleNat (n : Nat) (e : Int) : Nat := if 0 ≤ e then n <<< e.toNat else n >>> (-e).toNat

/-- ⌊log2 (n / d)⌋ of a positive quotient. -/
def log2Ratio (n d : Nat) : Int :=
  let k : Int := (n.log2 : Int) - d.log2
  let fits := if 0 ≤ k then d * 2 ^ k.toNat ≤ n else d ≤ n * 2 ^ (-k).toNat
  if fits then k else k - 1

/-- The encoding of the value (-1)^s × n × 2^q of the format's grid. -/
def encodeFin (f : Fmt) (s : Bool) (n : Nat) (q : Int) : Nat :=
  let sb := if s then 2 ^ f.signBit else 0
  if n = 0 then sb
  else
    let b : Int := (n.log2 : Int) + q
    if b < f.emin then sb + scaleNat n (q - (f.emin - f.fbits))
    else sb + (b + f.bias).toNat * 2 ^ f.fbits + (scaleNat n (q - (b - f.fbits)) - 2 ^ f.fbits)

/-- The encoding of a value that the format holds (NaN canonical, R35). -/
def encodeVal (f : Fmt) : Val → Nat
  | .nan _ => f.nanBits
  | .inf s => (if s then 2 ^ f.signBit else 0) + (2 ^ f.ebits - 1) * 2 ^ f.fbits
  | .fin s m e => encodeFin f s m e

/-- The rounding attributes of R47. -/
inductive Rnd where
  | rne
  | rtz
  | rdn
  | rup
  | rto
  | sr12
  deriving DecidableEq, Repr

/-- The rounding attribute of a 3-bit code; 0b110 and 0b111 are reserved (R47). -/
def Rnd.ofCode : Nat → Option Rnd
  | 0 => some .rne | 1 => some .rtz | 2 => some .rdn | 3 => some .rup | 4 => some .rto | 5 => some .sr12 | _ => none

/-- The result of an overflow (R50). `inf` is the overflow attribute. -/
def overflowVal (s : Bool) (f : Fmt) (mode : Rnd) (inf : Bool) : Val :=
  let mx : Val := .fin s f.maxFin.1 f.maxFin.2
  let attr := match f with
    | .fs8e4 => false | .fs4 => false
    | .fs16 => inf | .fs8e5 => inf
    | _ => true
  if attr then
    match mode, s with
    | .rne, _ => .inf s
    | .rtz, _ => mx
    | .rdn, true => .inf s
    | .rdn, false => mx
    | .rup, false => .inf s
    | .rup, true => mx
    | .rto, _ => mx
    | .sr12, _ => .inf s
  else mx

/-- Whether the value n × 2^q exceeds m × 2^e. -/
def exceeds (n : Nat) (q : Int) (m : Nat) (e : Int) : Bool :=
  if e ≤ q then decide (n * 2 ^ (q - e).toNat > m) else decide (n > m * 2 ^ (e - q).toNat)

/-- round() of R48 on the exact value (-1)^s × (num / den) × 2^e: with den = 1 it is the pseudocode, and an exact
quotient (R196, R284) rounds by its exact remainder. -/
def roundRat (s : Bool) (num den : Nat) (e : Int) (f : Fmt) (mode : Rnd) (r12 : Nat) (inf : Bool) : Val × AFlags :=
  if num = 0 then (.fin s 0 0, .none)
  else
    let b := log2Ratio num den + e
    let q := (if b < f.emin then f.emin else b) - f.p + 1
    let top := if q ≤ e then num * 2 ^ (e - q).toNat else num
    let bot := if q ≤ e then den else den * 2 ^ (q - e).toNat
    let n := top / bot
    let rem := top % bot
    let nx := decide (rem ≠ 0)
    let n' :=
      if nx then
        match mode with
        | .rne => if 2 * rem > bot ∨ (2 * rem = bot ∧ n % 2 = 1) then n + 1 else n
        | .rtz => n
        | .rdn => if s then n + 1 else n
        | .rup => if s then n else n + 1
        | .rto => n ||| 1
        | .sr12 => if rem * 4096 / bot + r12 ≥ 4096 then n + 1 else n
      else n
    if exceeds n' q f.maxFin.1 f.maxFin.2 then (overflowVal s f mode inf, ⟨false, false, true, false, nx || true⟩)
    else (.fin s n' q, ⟨false, false, false, nx && decide (b < f.emin), nx⟩)

/-- round() of R48 on an exact binary value. -/
def roundFin (s : Bool) (m : Nat) (e : Int) (f : Fmt) (mode : Rnd) (r12 : Nat) (inf : Bool) : Val × AFlags :=
  roundRat s m 1 e f mode r12 inf

/-- Delivery of a value into a format: R48 for finite values, R51 for the others. -/
def convertVal (x : Val) (f : Fmt) (mode : Rnd) (r12 : Nat) (inf : Bool) : Val × AFlags :=
  match x with
  | .nan sg =>
    match f with
    | .fs4 => (.fin false 0 0, .invalid)
    | _ => (.nan false, if sg then .invalid else .none)
  | .inf s => if f.hasInf then (.inf s, .none) else (.fin s f.maxFin.1 f.maxFin.2, .ofNx)
  | .fin s m e => roundFin s m e f mode r12 inf

/-- sat(x, f) of R49, on a value of the format's grid. -/
def satVal (f : Fmt) (x : Val) : Val :=
  match x with
  | .fin s m e => if exceeds m e f.maxFin.1 f.maxFin.2 then .fin s f.maxFin.1 f.maxFin.2 else x
  | _ => x

/-- rne(x, f) of R49, as a value. -/
def rneVal (f : Fmt) (x : Val) : Val := (convertVal x f .rne 0 false).1

/-- The number of a value's sign. -/
def Val.neg? : Val → Bool
  | .nan _ => false | .inf s => s | .fin s _ _ => s

/-- Whether the value is NaN. -/
def Val.isNan : Val → Bool
  | .nan _ => true | _ => false

/-- Whether the value is a signalling NaN. -/
def Val.isSnan : Val → Bool
  | .nan sg => sg | _ => false

/-- Whether the value is infinite. -/
def Val.isInf : Val → Bool
  | .inf _ => true | _ => false

/-- Whether the value is a zero of either sign. -/
def Val.isZero : Val → Bool
  | .fin _ m _ => m = 0 | _ => false

/-- Whether the value is finite. -/
def Val.isFin : Val → Bool
  | .fin _ _ _ => true | _ => false

/-- The value with its sign inverted. -/
def Val.negate : Val → Val
  | .nan g => .nan g | .inf s => .inf (!s) | .fin s m e => .fin (!s) m e

/-- The value with sign 0. -/
def Val.abs : Val → Val
  | .nan g => .nan g | .inf _ => .inf false | .fin _ m e => .fin false m e

/-- The signed integer (-1)^s × m × 2^(e - base), for base ≤ e. -/
def signedAt (s : Bool) (m : Nat) (e base : Int) : Int :=
  let v : Int := ((m * 2 ^ (e - base).toNat : Nat) : Int)
  if s then -v else v

/-- The exact value of a signed integer times a power of two; `z` is the sign of a zero. -/
def Val.ofInt (v : Int) (e : Int) (z : Bool) : Val :=
  if v = 0 then .fin z 0 0 else .fin (decide (v < 0)) v.natAbs e

/-- Exact sum of two finite values; a zero sum has sign `z`. -/
def addExact (s1 : Bool) (m1 : Nat) (e1 : Int) (s2 : Bool) (m2 : Nat) (e2 : Int) (z : Bool) : Val :=
  let b := if e1 ≤ e2 then e1 else e2
  Val.ofInt (signedAt s1 m1 e1 b + signedAt s2 m2 e2 b) b z

/-- Exact comparison of two values that are not NaN: negative, zero or positive. -/
def cmpVal (a b : Val) : Int :=
  match a, b with
  | .inf s, .inf t => if s = t then 0 else if s then -1 else 1
  | .inf s, _ => if s then -1 else 1
  | _, .inf t => if t then 1 else -1
  | .fin s m e, .fin t n f =>
    let base := if e ≤ f then e else f
    signedAt s m e base - signedAt t n f base
  | _, _ => 0

/-- The total order of minimumNumber and the reduction unit: −0 below +0 (R106, R115). -/
def lessVal (a b : Val) : Bool :=
  let c := cmpVal a b
  if c = 0 then a.isZero && b.isZero && a.neg? && !b.neg? else decide (c < 0)

/-- Exact product of two values under IEEE rules; an infinity times a zero is NaN (R64, R69). -/
def mulVal (a b : Val) : Val :=
  match a, b with
  | .nan _, _ => .nan false
  | _, .nan _ => .nan false
  | .inf s, .inf t => .inf (s != t)
  | .inf s, .fin t n _ => if n = 0 then .nan false else .inf (s != t)
  | .fin s m _, .inf t => if m = 0 then .nan false else .inf (s != t)
  | .fin s m e, .fin t n f => .fin (s != t) (m * n) (e + f)

/-- Whether a product is an infinity times a zero. -/
def infTimesZero (a b : Val) : Bool := (a.isInf && b.isZero) || (a.isZero && b.isInf)

/-- The value times 2^k. -/
def Val.scale (k : Int) : Val → Val
  | .fin s m e => .fin s m (e + k)
  | v => v

/-- c36_add of R64: round to odd into C36, an overflow giving the infinity of the sum's sign (R50, R66). -/
def c36Add (s x : Val) : Val :=
  match s, x with
  | .nan _, _ => .nan false
  | _, .nan _ => .nan false
  | .inf a, .inf b => if a = b then .inf a else .nan false
  | .inf a, _ => .inf a
  | _, .inf b => .inf b
  | .fin a m e, .fin b n f =>
    match addExact a m e b n f (decide (m = 0 ∧ a = true ∧ n = 0 ∧ b = true)) with
    | .fin sg k g =>
      let r := roundFin sg k g .c36 .rto 0 false
      if r.2.ovf then .inf sg else r.1
    | v => v

/-- Whether adding x to s is a sum of opposite infinities, the invalid case of c36_add. -/
def oppositeInf (s x : Val) : Bool :=
  match s, x with
  | .inf a, .inf b => a != b
  | _, _ => false

/-- −0, where an absent accumulator input starts (R65). -/
def Val.negZero : Val := .fin true 0 0

/-- +0. -/
def Val.zero : Val := .fin false 0 0

/-! ### Stochastic rounding (R53, R54) -/

/-- One round of sr_bits. -/
def srRound (x0 x1 x2 x3 k0 k1 : Nat) : Nat × Nat × Nat × Nat :=
  let p0 := 0xD3A15E4B * x0
  let p1 := 0xB5C72E19 * x2
  ((p1 >>> 32) ^^^ x1 ^^^ k0, p1 % 2 ^ 32, (p0 >>> 32) ^^^ x3 ^^^ k1, p0 % 2 ^ 32)

/-- n rounds, the keys advancing by W0 and W1. -/
def srGo : Nat → Nat → Nat → Nat → Nat → Nat → Nat → Nat
  | 0, x0, _, _, _, _, _ => x0 >>> 20
  | n + 1, x0, x1, x2, x3, k0, k1 =>
    let y := srRound x0 x1 x2 x3 k0 k1
    srGo n y.1 y.2.1 y.2.2.1 y.2.2.2 ((k0 + 0x6A09E667) % 2 ^ 32) ((k1 + 0x3C6EF372) % 2 ^ 32)

/-- sr_bits(seed, step, lane, ctr) of R54: seven rounds. -/
def srBits (seed step lane ctr : Nat) : Nat :=
  srGo 7 (ctr % 2 ^ 32) (lane % 2 ^ 32) (step % 2 ^ 32) ((step >>> 32) % 2 ^ 32)
    (seed % 2 ^ 32) ((seed >>> 32) % 2 ^ 32)

/-- The keys of a command's draws (R53). -/
structure SrKeys where
  seed : Nat
  step : Nat
  lane : Nat
  base : Nat
  deriving DecidableEq, Repr

/-- r12 of element i (R53). -/
def SrKeys.draw (k : SrKeys) (i : Nat) : Nat := srBits k.seed k.step k.lane ((k.base + i) % 2 ^ 32)

/-! ### Format codes (R33) -/

/-- The fixed-layout format of a code, with whether it is block-scaled. -/
def fmtOfCode : Nat → Option (Fmt × Bool)
  | 0x0 => some (.fp64, false)
  | 0x1 => some (.fp32, false)
  | 0x2 => some (.fs16, false)
  | 0x3 => some (.fs8e4, false)
  | 0x4 => some (.fs8e5, false)
  | 0x5 => some (.fs4, false)
  | 0x6 => some (.fs8e4, true)
  | 0x7 => some (.fs8e5, true)
  | 0x8 => some (.fs4, true)
  | 0x9 => some (.c36, false)
  | _ => none

/-! ### Block scaling (R40 to R42) -/

/-- The value of a block-scaled element: every element of a NaN block is NaN (R40). -/
def scaledVal (x : Val) (code : Nat) : Val := if code = 255 then .nan false else x.scale ((code : Int) - 127)

/-- The largest magnitude among the finite values, as m × 2^e. -/
def amaxOf (vs : List Val) : Val :=
  vs.foldl (fun a v => if v.isFin && decide (cmpVal v.abs a > 0) then v.abs else a) .zero

/-- The smallest integer e with amax × 2^(-e) ≤ maxfinite (R41). -/
def blockExp (amax : Val) (f : Fmt) : Int :=
  match amax with
  | .fin _ m e =>
    let k := (m.log2 : Int) + e - ((f.maxFin.1.log2 : Int) + f.maxFin.2)
    if exceeds m (e - k) f.maxFin.1 f.maxFin.2 then k + 1 else k
  | _ => 0

/-- The encoding of a block of values (R41, R42): scale code, element codes and flags of each element. The draw of
element i is `draws i`. -/
def encodeBlock (vs : List Val) (f : Fmt) (mode : Rnd) (inf : Bool) (draws : Nat → Nat) : Nat × List (Nat × AFlags) :=
  if f = .fs4 ∧ vs.any Val.isNan then
    (255, vs.map (fun v => (0, if v.isNan then .invalid else .none)))
  else
    let amax := amaxOf vs
    let code : Nat :=
      if amax.isZero then 127
      else
        let c := blockExp amax f + 127
        if c < 0 then 0 else if c > 254 then 254 else c.toNat
    (code, (List.range vs.length).zipWith
      (fun i v =>
        let r := convertVal (v.scale (127 - (code : Int))) f mode (draws i) inf
        (encodeVal f r.1, r.2)) vs)

/-! ### Embedding row formats (R43, R44) -/

/-- The IEEE FP32 fused multiply-add with RNE, as a value. -/
def fmaExact (a b c : Val) : Val :=
  let p := mulVal a b
  match p, c with
  | .nan _, _ => .nan false
  | _, .nan _ => .nan false
  | .inf s, .inf t => if s = t then .inf s else .nan false
  | .inf s, _ => .inf s
  | _, .inf t => .inf t
  | .fin s m e, .fin t n f => addExact s m e t n f (decide (m = 0 ∧ n = 0 ∧ s = true ∧ t = true))

/-- Whether (num/den) × 2^e is no integer. -/
def fraction (num den : Nat) (e : Int) : Bool :=
  if 0 ≤ e then decide (num * 2 ^ e.toNat % den ≠ 0) else decide (num % (den * 2 ^ (-e).toNat) ≠ 0)

/-- Round to nearest integer, ties to even, of (-1)^s × (num/den) × 2^e. -/
def nearestInt (s : Bool) (num den : Nat) (e : Int) : Int :=
  let top := if 0 ≤ e then num * 2 ^ e.toNat else num
  let bot := if 0 ≤ e then den else den * 2 ^ (-e).toNat
  let n := top / bot
  let r := top % bot
  let n' := if 2 * r > bot ∨ (2 * r = bot ∧ n % 2 = 1) then n + 1 else n
  if s then -(n' : Int) else n'

/-- A Q8 element's value (R43). Its decoding raises no flag: the manual raises flags of element results (R56), and does not call the
operand of a POOL or an UPDATE one (DESIGN CHOICE, log 129). -/
def q8Val (q : Nat) (a b : Val) : Val := rneVal .fp32 (fmaExact (Val.ofInt (toSigned 8 q) 0 false) a b)

/-- The Q8 encoding of v given a and b (R43, R51), inexact where the quotient is no integer (R57). Where the rules overlap (log 129):
a non-finite b or a NaN v is invalid, and an infinite v saturates, with a = 0 too; and a zero v is encoded by R43's quotient, so
as round(−b / a). -/
def q8Encode (v a b : Val) : Nat × AFlags :=
  match a, b, v with
  | .fin sa ma ea, .fin sb mb eb, v =>
    match v with
    | .nan _ => (0, .invalid)
    | .inf s => (if s then 128 else 127, .ofNx)
    | .fin sv mv ev =>
      if ma = 0 then (0, .none)
      else
        match addExact sv mv ev (!sb) mb eb false with
        | .fin sd md ed =>
          let q := nearestInt (sd != sa) md ma (ed - ea)
          if q > 127 then (127, .ofNx) else if q < -128 then (128, .ofNx)
          else (ofSigned 8 q, ⟨false, false, false, false, fraction md ma (ed - ea)⟩)
        | _ => (0, .invalid)
  | _, _, _ => (0, .invalid)

/-- The FS8-row encoding of v with scale s (R44). -/
def fs8RowEncode (v s : Val) (f : Fmt) (mode : Rnd) (r12 : Nat) : Nat × AFlags :=
  match s with
  | .fin ss ms es =>
    if ms = 0 then (0, .invalid)
    else
      match v with
      | .fin sv mv ev =>
        let r := roundRat (sv != ss) mv ms (ev - es) f mode r12 false
        (encodeVal f r.1, r.2)
      | .inf sv =>
        let r := convertVal (.inf (sv != ss)) f mode r12 false
        (encodeVal f r.1, r.2)
      | .nan g =>
        let r := convertVal (.nan g) f mode r12 false
        (encodeVal f r.1, r.2)
  | _ => (0, .invalid)

/-! ### FX96 and wide sums (R243 to R246) -/

/-- CLAMPMAX of R244. -/
def clampMax : Int := 2 ^ 71 - 1

/-- to_fx96(x, L) of R244: the integer, whether x was non-finite, whether it clamped. -/
def toFx96 (x : Val) (lsb : Int) : Int × Bool × Bool :=
  match x with
  | .fin s m e =>
    let n := nearestInt s m 1 (e - lsb)
    if n > clampMax then (clampMax, false, true)
    else if n < -clampMax then (-clampMax, false, true)
    else (n, false, false)
  | _ => (0, true, false)

/-- fx_to_fp32 and fx_to_fp64 of R246, as encodings. -/
def fxTo (f : Fmt) (n lsb : Int) : Nat :=
  if n = 0 then 0 else encodeVal f (roundFin (decide (n < 0)) n.natAbs lsb f .rne 0 false).1

/-- Saturating 96-bit addition of R245, with whether it saturated. -/
def fxSat (a b : Int) : Int × Bool :=
  let v := a + b
  if v > 2 ^ 95 - 1 then (2 ^ 95 - 1, true)
  else if v < -(2 ^ 95) then (-(2 ^ 95), true)
  else (v, false)

/-! ### IEEE arithmetic (R34, R106) -/

/-- Sign of an exact zero sum: IEEE and R106 (+0, but −0 under RDN; like signs keep their sign). -/
def zeroSumSign (mode : Rnd) (s t : Bool) (bothZero : Bool) : Bool :=
  if bothZero ∧ s = t then s else decide (mode = .rdn)

/-- A result before rounding: a value delivered by `convertVal`, or an exact quotient. -/
inductive Exact where
  | val (v : Val)
  | quot (s : Bool) (num den : Nat) (e : Int)
  deriving DecidableEq, Repr

/-- a + b with its flags (R106). -/
def ieeeAdd (mode : Rnd) (a b : Val) : Exact × AFlags :=
  let sn : AFlags := if a.isSnan || b.isSnan then .invalid else .none
  match a, b with
  | .nan _, _ => (.val (.nan false), sn)
  | _, .nan _ => (.val (.nan false), sn)
  | .inf s, .inf t => if s = t then (.val (.inf s), .none) else (.val (.nan false), .invalid)
  | .inf s, _ => (.val (.inf s), .none)
  | _, .inf t => (.val (.inf t), .none)
  | .fin s m e, .fin t n f =>
    (.val (addExact s m e t n f (zeroSumSign mode s t (decide (m = 0 ∧ n = 0)))), .none)

/-- a × b with its flags. -/
def ieeeMul (a b : Val) : Exact × AFlags :=
  if a.isNan || b.isNan then (.val (.nan false), if a.isSnan || b.isSnan then .invalid else .none)
  else if infTimesZero a b then (.val (.nan false), .invalid)
  else (.val (mulVal a b), .none)

/-- a × b + c with one rounding; an infinity times a zero is invalid whatever c is (R106). -/
def ieeeFma (mode : Rnd) (a b c : Val) : Exact × AFlags :=
  let sn := a.isSnan || b.isSnan || c.isSnan
  let iz := infTimesZero a b
  if a.isNan || b.isNan || c.isNan || iz then
    (.val (.nan false), if sn || iz then .invalid else .none)
  else
    match mulVal a b, c with
    | .inf s, .inf t => if s = t then (.val (.inf s), .none) else (.val (.nan false), .invalid)
    | .inf s, _ => (.val (.inf s), .none)
    | _, .inf t => (.val (.inf t), .none)
    | .fin s m e, .fin t n f =>
      (.val (addExact s m e t n f (zeroSumSign mode s t (decide (m = 0 ∧ n = 0)))), .none)
    | _, _ => (.val (.nan false), .none)

/-- a / b. -/
def ieeeDiv (a b : Val) : Exact × AFlags :=
  if a.isNan || b.isNan then (.val (.nan false), if a.isSnan || b.isSnan then .invalid else .none)
  else
    let s := a.neg? != b.neg?
    match a, b with
    | .inf _, .inf _ => (.val (.nan false), .invalid)
    | .inf _, _ => (.val (.inf s), .none)
    | _, .inf _ => (.val (.fin s 0 0), .none)
    | .fin _ m e, .fin _ n f =>
      if n = 0 then
        if m = 0 then (.val (.nan false), .invalid) else (.val (.inf s), .divZero)
      else (.quot s m n (e - f), .none)
    | _, _ => (.val (.nan false), .none)

/-- √a, with enough bits and a sticky bit that every rounding of R48 into a format of R106 sees the exact root. -/
def ieeeSqrt (a : Val) : Exact × AFlags :=
  match a with
  | .nan g => (.val (.nan false), if g then .invalid else .none)
  | .inf s => if s then (.val (.nan false), .invalid) else (.val (.inf false), .none)
  | .fin s m e =>
    if m = 0 then (.val (.fin s 0 0), .none)
    else if s then (.val (.nan false), .invalid)
    else
      let m2 := if e % 2 = 0 then m else 2 * m
      let e2 := if e % 2 = 0 then e else e - 1
      let big := m2 * 2 ^ 256
      let r := isqrt big
      let sticky := if r * r = big then 0 else 1
      (.val (.fin false (2 * r + sticky) (e2 / 2 - 129)), .none)

/-- Delivery of an exact result into a format. -/
def deliver (x : Exact × AFlags) (f : Fmt) (mode : Rnd) (r12 : Nat) (inf : Bool) : Nat × AFlags :=
  match x.1 with
  | .val v => let r := convertVal v f mode r12 inf; (encodeVal f r.1, x.2.or r.2)
  | .quot s n d e => let r := roundRat s n d e f mode r12 inf; (encodeVal f r.1, x.2.or r.2)

/-- minimumNumber and maximumNumber of IEEE 754-2019 (R106). -/
def minMax (wantMax : Bool) (a b : Val) : Exact × AFlags :=
  let fl : AFlags := if a.isSnan || b.isSnan then .invalid else .none
  if a.isNan && b.isNan then (.val (.nan false), fl)
  else if a.isNan then (.val b, fl)
  else if b.isNan then (.val a, fl)
  else if wantMax then (.val (if lessVal a b then b else a), fl)
  else (.val (if lessVal b a then b else a), fl)

/-- The conditions of R107 and R134 on two values, with the NaN column. -/
def condVal (code : Nat) (a b : Val) : Bool :=
  let un := a.isNan || b.isNan
  match code with
  | 0 => !un && decide (cmpVal a b = 0)
  | 1 => un || decide (cmpVal a b ≠ 0)
  | 2 => !un && decide (cmpVal a b < 0)
  | 3 => !un && decide (cmpVal a b ≤ 0)
  | 4 => !un && decide (cmpVal a b > 0)
  | 5 => !un && decide (cmpVal a b ≥ 0)
  | 6 => un
  | _ => !un

/-- INV of CMP (R107): ordered comparisons raise it for any NaN, the others for a signalling one. -/
def condInv (code : Nat) (a b : Val) : Bool :=
  if 2 ≤ code ∧ code ≤ 5 then a.isNan || b.isNan else a.isSnan || b.isSnan

/-! ### FP32 helpers of R111, R117 and R284: encodings in, encodings out, RNE, no flags -/

/-- FP32 decode. -/
def v32 (b : Nat) : Val := decodeFmt .fp32 b

/-- add32 of R111. -/
def add32 (a b : Nat) : Nat := (deliver (ieeeAdd .rne (v32 a) (v32 b)) .fp32 .rne 0 false).1

/-- sub32. -/
def sub32 (a b : Nat) : Nat := (deliver (ieeeAdd .rne (v32 a) (v32 b).negate) .fp32 .rne 0 false).1

/-- mul32. -/
def mul32 (a b : Nat) : Nat := (deliver (ieeeMul (v32 a) (v32 b)) .fp32 .rne 0 false).1

/-- div32. -/
def div32 (a b : Nat) : Nat := (deliver (ieeeDiv (v32 a) (v32 b)) .fp32 .rne 0 false).1

/-- fma32. -/
def fma32 (a b c : Nat) : Nat := (deliver (ieeeFma .rne (v32 a) (v32 b) (v32 c)) .fp32 .rne 0 false).1

/-- sqrt32. -/
def sqrt32 (a : Nat) : Nat := (deliver (ieeeSqrt (v32 a)) .fp32 .rne 0 false).1

end Sys2Proof
end

