-- ==== Sys2Proof/Config.lean ====
section
/-! DEFINITION. What the manual leaves open and one part fixes: the free values. Each is an opaque constant with no
body, applied to the counter `State.freeCtr`, so that no proof can see a value of it (log 3). -/
namespace Sys2Proof.Config

/-- The nth free 64-bit value that the machine draws. -/
opaque freeWord : Nat → BitVec 64

/-- The byte at an address of a range whose contents the manual calls undefined, by the number of the draw that made them so (R172). -/
opaque freeByte : Nat → Nat → BitVec 8

/-- Whether the host link, or a drive, completes the nth access that the device itself makes to an address of T2 or T3 with an error (R324,
R462). -/
opaque farFails : Nat → Nat → Bool

/-- Whether of two events of the crossing with overrun bit b that fall in one aon cycle the later comes before the hub's domain has taken the
earlier one, by the aon count (R363, R364). -/
opaque crossLate : Nat → Nat → Bool

/-- The signature (r, s) that the identity key puts on the nth alias certificate: SM2 signs with a random number (R432). -/
opaque aliasSig : Nat → Nat × Nat

/-- Whether the module asserts MGT_ALERT# on SMBus, by the aon count: the manual does not say when (R452). -/
opaque smbusAlert : Nat → Bool

end Sys2Proof.Config
end

