-- ==== Sys2Proof/Machine/Store.lean ====
section
/-! DEFINITION. The operations on sparse maps. `get` reads the first entry of a key, or the default; `put` removes
every entry of the key and, where the new value is not the default, inserts it in key order. -/
namespace Sys2Proof.SMap

variable {α : Type}

/-- The value at `k`; a key that is not listed reads as `d k`. -/
def get (d : Nat → α) : SMap α → Nat → α
  | [], k => d k
  | e :: r, k => if e.1 = k then e.2 else get d r k

/-- Inserts an entry before the first entry of a larger key. -/
def ins (k : Nat) (v : α) : SMap α → SMap α
  | [] => [(k, v)]
  | e :: r => if k < e.1 then (k, v) :: e :: r else e :: ins k v r

/-- Removes every entry of a key. -/
def del (m : SMap α) (k : Nat) : SMap α :=
  m.filter (fun e => decide (e.1 ≠ k))

/-- Writes `v` at `k`. -/
def put [DecidableEq α] (d : Nat → α) (m : SMap α) (k : Nat) (v : α) : SMap α :=
  if v = d k then m.del k else ins k v (m.del k)

/-- Applies `f` to the value at `k`. -/
def upd [DecidableEq α] (d : Nat → α) (m : SMap α) (k : Nat) (f : α → α) : SMap α :=
  m.put d k (f (m.get d k))

/-- Keys strictly rise. -/
def Rising : SMap α → Bool
  | [] => true
  | e :: r => r.all (fun x => decide (e.1 < x.1)) && Rising r

/-- The canonical form: rising keys, and no entry that an unlisted key would read as. -/
def wf [DecidableEq α] (d : Nat → α) (m : SMap α) : Bool :=
  Rising m && m.all (fun e => decide (e.2 ≠ d e.1))

end Sys2Proof.SMap
end

