-- ==== Sys2Proof/Machine/State.lean ====
section
/-! DEFINITION. The state of the E640 as plain data: everything the manual names that a command can read or change,
the queue of waiting commands, and the state after power-on. -/
namespace Sys2Proof.Machine

/-- Why the machine stops. -/
inductive Fault where
  /-- Raised by `sensorUpdate` and `overvoltageClamp` on an input beyond the absolute maximum ratings of
  R455, where "no behaviour is guaranteed". Safe: the model stops. -/
  | beyondRatings
  deriving DecidableEq, Repr

/-- Why a command has no meaning. -/
inductive Refusal where
  /-- Raised by an arm of `exec` that has no meaning yet. Safe: the model stops. -/
  | notModelled (mnemonic : String)
  deriving DecidableEq, Repr

/-! ### One context (R124) -/

/-- STATE of TILE_CTX_Cn (R126). -/
inductive CtxMode where
  | idle
  | run
  | wait
  | halted
  | faulted
  | held
  | parked
  deriving DecidableEq, Repr

/-- What a waiting context waits for (R126 WAIT codes 1 to 4). `retry` is the instruction, or the list entry, that
issues again when the queue has room (R137). -/
inductive Wait where
  | none
  | token (n : Fin 32) (v : Word)
  | sem (n : Fin 8) (amount : Nat)
  | decision (pd : BitVec 3)
  | queueFull (eng : Fin 6) (retry : Instr)
  deriving DecidableEq, Repr

/-- The step state of R124 and R149. -/
inductive StepPos where
  | start
  | arrived
  | decidedCommit
  | decidedDiscard
  deriving DecidableEq, Repr

/-- The reduction unit's running state of R115: C36 sums as C36 encodings, FX96 sums as integers, max and min as FP64
encodings. -/
structure RunState where
  sum : Nat
  sq : Nat
  fxSum : Int
  fxSq : Int
  max : Nat
  min : Nat
  argmax : Nat
  pos : Nat
  nonfin : Nat
  nover : Nat
  deriving DecidableEq, Repr

/-- One context c0 to c3. `arrSerial` is the issue number of its last command before its arrive, `prog` the progress counters
of R379 and `progStart` those at its restart point, `epoch` how many steps and attempts it has ended by `done` or a rewind. -/
structure Ctx where
  g : Vector Word 32
  p : BitVec 8
  s : Vector Word 16
  tag : Vector (BitVec 2) 16
  t : Vector Word 32
  sem : Vector (BitVec 32) 8
  pc : BitVec 24
  step : StepPos
  mode : CtxMode
  wait : Wait
  clist : Option (Nat × Nat)
  level : BitVec 3
  arrSerial : Nat
  prog : Vector Nat 7
  progStart : Vector Nat 7
  ru : RunState
  epoch : Nat
  deriving DecidableEq, Repr

/-! ### Engine commands (R135 to R143) -/

/-- A command in an engine queue: its 128 bits, the issuing context, the address of the issuing instruction or entry,
its issue number in the tile, the operands that it reads at issue (g28 to g31, and s0 to s15 with their tags: R103, R137),
and the epoch of the context then. -/
structure EngCmd where
  word : BitVec 128
  ctx : CtxId
  addr : Nat
  serial : Nat
  ops : Vector Word 4
  sregs : Vector Word 16
  tags : Vector (BitVec 2) 16
  epoch : Nat
  deriving DecidableEq, Repr

/-- An accepted command. `reads` and `writes` are its bounding ranges of device addresses (R178), `waits` the tags of
the host-link or NVMe requests it still waits for, `cycles` its nominal fast cycles, `bytes` the bytes it writes,
`desc` the descriptor words it read,
`stopped` marks one that an error stopped (R100, R181), `done` one whose work is finished, `sums` the summaries that its completion writes, with their kind tags, from summary
register `sbase` on (R116). `queue` is the queue of a queue message command (R332). -/
structure Active where
  cmd : EngCmd
  desc : List Nat
  reads : List (Nat × Nat)
  writes : List (Nat × Nat)
  waits : List Nat
  cycles : Nat
  bytes : Nat
  queue : Option Nat
  stopped : Bool
  done : Bool
  sbase : Nat
  sums : List (Word × BitVec 2)
  deriving DecidableEq, Repr

/-- A recorded outcome that a replayed context is given (R383). -/
inductive Recorded where
  | sem (n : Nat) (amount : Nat) (ok : Bool)
  | entries (q : Nat) (data : List (List Byte))
  deriving DecidableEq, Repr

/-- A hang search on a tile (R382 to R385): `pos` holds for each context its PC and progress counters at the detection. -/
structure Search where
  seq : Nat
  dseq : Nat
  unit : Nat
  suspects : List CtxId
  todo : List CtxId
  again : List CtxId
  peerWait : List CtxId
  pos : List (Nat × Nat × List Nat)
  tstart : Nat
  restarts : Nat
  feed : List Recorded
  deriving DecidableEq, Repr

/-- An expiry that waits for its handling: its HANG entry and DEFERRAL, its unit, the suspects, and for each context the PC and progress counters
at the detection (R382, R384). -/
structure Expired where
  seq : Nat
  dseq : Nat
  unit : Nat
  suspects : List CtxId
  pos : List (Nat × Nat × List Nat)
  deriving DecidableEq, Repr

/-- One tile (R18). `decision` is the decision delivered to it, `arrived` and `passed` where it stands in its step, `bounds` the
step boundaries it has passed: a context of its step set has the same epoch until it ends the step, and one more after. -/
structure Tile where
  ctxs : Vector Ctx 4
  rr : CtxId
  serial : Nat
  queues : Vector (List EngCmd) 6
  active : Vector (List Active) 6
  engStop : List Nat
  decision : Option Decision
  arrived : Bool
  passed : Bool
  side : SMap (Nat × Nat)
  sideValid : List Nat
  scrub : Nat
  search : Option Search
  expired : List Expired
  bounds : Nat
  deriving DecidableEq, Repr

/-! ### The error log and the change log -/

/-- An error log entry of R372. `state`: 0 pending, 1 in handling, 2 done, 3 open. -/
structure LogEntry where
  seq : Nat
  cls : Nat
  cause : Nat
  state : Nat
  win : Nat
  defm : Nat
  tstart : Nat
  tend : Nat
  step : Nat
  att : Nat
  unit : Nat
  ctx : Nat
  eng : Nat
  d5 : Nat
  d6 : Nat
  d7 : Nat
  deriving DecidableEq, Repr

/-- The log: the entries by slot, and NEXTSEQ (R370, R371). -/
structure ErrLog where
  slots : SMap (Option LogEntry)
  next : Nat
  deriving DecidableEq, Repr

/-- A change log entry of R440; `read` is whether it has been read since it was written. -/
structure ChgEntry where
  seq : Nat
  iface : Nat
  kind : Nat
  time : Nat
  addr : Nat
  value : Nat
  read : Bool
  deriving DecidableEq, Repr

/-! ### The queue manager (R326 to R345) -/

/-- A request on the host link, or an NVMe command, that has not completed. `tile` and `serial` name the DMA command that waits for it
(none: a row move of the hub), `plane` and `row` the row of that command; `left` are the bytes of the row that are still to be asked for
(R239, R324), `held` marks one that has not gone yet: a posted write or an NVMe command while the host link serves none, or a command
for which its submission queue has no room (R318, R339). -/
structure Request where
  tag : Nat
  tile : Option TileId
  serial : Nat
  plane : Nat
  row : Nat
  addr : Nat
  len : Nat
  left : Nat
  write : Bool
  held : Bool
  deriving DecidableEq, Repr

/-- The queue manager's own state: the cached descriptors, most recently used first, the queue from which the next HOSTCMD queue is looked for, the events held and
lost of each queue, the stopped TILEOUT queues, the entries of each TILEOUT queue sent and not acknowledged, the flag page, and
the NVMe commands under way, and those that timed out, whose entries may still come. `rows` counts the entries that each PEERROW ring has
taken, and `backlog` holds the messages whose producers a full ring holds back (R340). `rung` holds the doorbells of TILEIN queues in T2 whose
entries cannot be read for the route book while the host link serves no T2 access (R318, R415). -/
structure QmState where
  cache : List Nat
  cmdFrom : Nat
  held : List (Nat × List (List Byte))
  lost : SMap Nat
  stopped : List Nat
  sent : SMap Nat
  flags : List Byte
  nvme : List Request
  late : List Request
  rows : SMap Nat
  backlog : List Msg
  rung : List (Nat × Nat)
  deriving DecidableEq, Repr

/-! ### The job -/

/-- The job state of R336. -/
inductive JobState where
  | empty
  | loaded
  | running
  deriving DecidableEq, Repr

/-- A row of the membership table (R337). -/
structure Member where
  id : Nat
  partner : Option Nat
  kind : Nat
  deriving DecidableEq, Repr

/-- The job. `ident` is the identity of its image, SM3 over its bytes (R21). `stopReq` is the HOSTCMD queue and TAG of a STOP that waits for the step boundary (R338), `startReq` of a START
that waits for its fill or a FEED (R399, R417), `readyReq` of a VREADY that waits for its partner's seal, with the cairn of its messages,
their number, its table and its slot (R415). -/
structure Job where
  st : JobState
  img : Option JobImage
  addr : Nat
  len : Nat
  ident : Nat
  seed : Nat
  members : List Member
  stopReq : Option (Nat × Nat)
  startReq : Option (Nat × Nat)
  readyReq : Option (Nat × Nat × Nat × Nat × Nat × Nat)
  sizes : Nat × Nat × Nat
  baseRun : Bool
  deriving DecidableEq, Repr

/-- A reduction buffer's state for the step (R249 to R259): `clamps` and `nonfin` of this member's conversions, `infs`
non-finite results of its own shard; ranges are (sender, first, count), `tree` the FP32 values
of a fixed tree by (distance, first) with the elements that arrived. -/
structure BufState where
  closed : Bool
  clamps : Nat
  nonfin : Nat
  infs : Nat
  covered : List (Nat × Nat × Nat)
  outCov : List (Nat × Nat × Nat)
  shardDone : Bool
  complete : Bool
  treeDist : Nat
  tree : List (Nat × Nat × List Nat)
  vals : List Nat
  deriving DecidableEq, Repr

/-- A job record, or a norm partial, of R257 and R258. -/
structure JobRec where
  squares : Int
  nonfin : Nat
  clamps : Nat
  step : Nat
  deriving DecidableEq, Repr

/-- What a save record or an arrival record holds of a context (R150, R265). -/
structure SavedCtx where
  loc : Loc
  g : Vector Word 32
  s : Vector Word 16
  tag : Vector (BitVec 2) 16
  t : Vector Word 32
  p : BitVec 8
  pc : BitVec 24
  deriving DecidableEq, Repr

/-- A row gradient of R202, as FP32 encodings. -/
structure Grad where
  tile : Nat
  table : Nat
  index : Nat
  vals : List Nat
  deriving DecidableEq, Repr

/-- A commit set of R265: the commit-input ranges as (tile, offset, bytes). -/
structure CommitSet where
  step : Nat
  inputs : List (Nat × Nat × List Byte)
  grads : List Grad
  arrivals : List SavedCtx
  job : JobRec
  deriving DecidableEq, Repr

/-- The step protocol (R262 to R278). `phase`, `lastDec` and `skipRun` are CRN_STEPSTAT's fields; `reports` are the
leader's (device, switch digest); `decision` is the recorded decision with its step and attempt; `stopped` marks an
attempt that the device has stopped (R375); `finished` the tiles that finish the step alone (R377); `resume` a device
that finishes a step after a reset (R273); `queried` one that has asked for the decision before it announces its rejoin (R272); `spoilt` that a second norm partial came, `barred` the steps and attempts that an error keeps from
committing (R201, R204, R251, R254); `arrivals` are the contexts as they stood at their arrive (R265). -/
structure StepState where
  no : Nat
  att : Nat
  phase : Nat
  lastDec : Nat
  skipRun : Nat
  commits : Nat
  reports : List (Nat × Word)
  rejoined : Bool
  decision : Option (Decision × Nat × Nat)
  partials : List (Nat × JobRec)
  partialSent : Bool
  spoilt : Bool
  barred : List (Nat × Nat)
  jobRec : Option JobRec
  reported : Bool
  commit : Option CommitSet
  stopped : Bool
  finished : List Nat
  arrivals : List SavedCtx
  resume : Bool
  halted : Option Nat
  queried : Bool
  deriving DecidableEq, Repr

/-! ### The embedding engine's rows (R183 to R242) -/

/-- A coalescer accumulator of R202: `order` is its place in opening order, `spilled` whether it lies in the spill area
(R204). -/
structure Accum where
  tile : Nat
  table : Nat
  index : Nat
  sums : List Int
  count : Nat
  nonfin : Bool
  order : Nat
  spilled : Bool
  deriving DecidableEq, Repr

/-- A pin of R228; `asks` are the other devices that want the row's image (R233). -/
structure Pin where
  tile : Nat
  table : Nat
  slot : Nat
  index : Nat
  step : Nat
  hits : Nat
  order : Nat
  asks : List Nat
  deriving DecidableEq, Repr

/-- A request for a pin (R228, R230): the device that wants the row, the row and the step; its number in arrival order; on the device that
wants the row the tile whose plan or POOL asked; whether it is held, by a full pin table or by a full mirror set (R230, R234), and whether it
has counted in EMB_CNT_NODIR. -/
structure PinAsk where
  src : Nat
  table : Nat
  slot : Nat
  index : Nat
  step : Nat
  order : Nat
  tile : Option Nat
  plan : Bool
  held : Bool
  nodir : Bool
  deriving DecidableEq, Repr

/-- A move of a row between its T1 pool slot and T2 or T3 that waits for the request `tag` (R228, R232): `place` is the pool
slot, `up` its direction. -/
structure Move where
  tag : Nat
  tile : Nat
  table : Nat
  slot : Nat
  index : Nat
  place : Nat
  up : Bool
  deriving DecidableEq, Repr

/-- A prefetch plan of a tile (R235): the rows that it asked for. -/
structure Plan where
  tile : Nat
  table : Nat
  slot : Nat
  step : Nat
  rows : List Nat
  deriving DecidableEq, Repr

/-- A row that a mirror way holds (R234). -/
structure MirrorRow where
  table : Nat
  slot : Nat
  index : Nat
  step : Nat
  set : Nat
  way : Nat
  deriving DecidableEq, Repr

/-- A T1 pool slot in use (R232). -/
structure PoolSlot where
  table : Nat
  place : Nat
  slot : Nat
  index : Nat
  deriving DecidableEq, Repr

/-- The embedding engines and the hub's table state. `slots` are the version slot states of each table (0 CURRENT,
1 READY, 2 BUILDING, 3 none), `switches` the pending ones (table, slot, step), `opened` the number of accumulators opened,
`taken` the messages that a row has taken in the step (64 × home tile + table, index, count), `got` those of a tile's table, `sent` the row-update messages of each tile
(tile, table, owner, count), `asked` the pin requests of
remote rows that are out or held, `poolAsked` the rows that a POOL has asked for itself (tile, issue number, index: R229). -/
structure EmbState where
  slots : SMap (List Nat)
  switches : List (Nat × Nat × Nat)
  accs : List Accum
  opened : Nat
  taken : List (Nat × Nat × Nat)
  grads : List Grad
  sent : List (Nat × Nat × Nat × Nat)
  tallies : List (Nat × Nat × Nat)
  talliesOut : Bool
  got : SMap Nat
  reduced : List Nat
  squares : Int
  nonfin : Nat
  clamps : Nat
  pins : List Pin
  pinSeq : Nat
  waiting : List PinAsk
  plans : List Plan
  moves : List Move
  asked : List PinAsk
  poolAsked : List (Nat × Nat × Nat)
  mirror : List MirrorRow
  pool : List PoolSlot
  deriving DecidableEq, Repr

/-! ### Cairns, belay and the route book (R399 to R424) -/

/-- A row named by a dirty list (R405): home tile, table, version slot, global index. -/
structure DirtyRow where
  tile : Nat
  table : Nat
  slot : Nat
  index : Nat
  deriving DecidableEq, Repr

/-- The cairn machinery. `next` is the cairn called and not complete, `st` CRN_CSTAT's state, `acks` and `dones` the
leader's answers, `dirty` the dirty lists, `frozen` the cairn lists with what is still to copy and `listed` all that they held, `copied` the tiles
whose lists have ended, `msgs` the messages of the cairn sent so far and `msgsC` those of the newest complete cairn, `sealed` whether the partner has sealed it, `full`
whether the next cairn is a full one, `times` the durations of the last steps without copies, `cost` the cost of the
last cairn and `run` of the one in progress in aon cycles, `ended` whether a cairn has completed since the last boundary, `mark` the aon count of the last device boundary, `early`
whether an ASK waits, `dAt` the digest D and `slotsAt` the version slot states as the called cairn began, `slotsC` those of the
newest complete cairn; `skipAt` and `skipC` are the same for SKIPRUN, and `dC` is the digest of the newest complete cairn under the one before. -/
structure CairnState where
  lastC : Nat
  next : Nat
  st : Nat
  acks : List Nat
  dones : List Nat
  dirty : List DirtyRow
  frozen : List DirtyRow
  listed : List DirtyRow
  copied : List Nat
  msgs : Nat
  msgsC : Nat
  sealAsked : Bool
  sealed : Bool
  exported : Bool
  full : Bool
  times : List Nat
  cost : Option Nat
  run : Nat
  ended : Bool
  mark : Nat
  early : Bool
  dAt : Nat
  slotsAt : SMap (List Nat)
  slotsC : SMap (List Nat)
  skipAt : Nat
  skipC : Nat
  dC : Nat
  deriving DecidableEq, Repr

/-- What a belay store holds of a ward (R412, R413). -/
inductive BelayItem where
  | row (table slot index : Nat) (bytes : List Byte)
  | shadow (tile off : Nat) (bytes : List Byte)
  | record (r : RtbRec)
  deriving DecidableEq, Repr

/-- One entry of the belay store: ward, cairn, item. -/
structure BelayRec where
  ward : Nat
  cairn : Nat
  item : BelayItem
  deriving DecidableEq, Repr

/-- A sealed slot of the export region at an address: its cairn, the CRC-32C of its contents, and what it holds (R414). -/
structure ExportSlot where
  addr : Nat
  cairn : Nat
  crc : Nat
  items : List BelayItem
  deriving DecidableEq, Repr

/-- The belay store with the number of messages received of each ward's cairn (ward, cairn, count), and BLY_CFG's fields; `fed` holds the
devices whose FEED has come. `fill` is the fill in progress: 1 of a rollback, 2 of a START, 3 of a device reset; `fillLeft` the rows that it still
waits for, `fillSeq` the number of fill messages sent. `expOpen` is the export copy of the cairn in progress, `expSlots` the sealed
slots, oldest first, and `expBook` the route-book records of export regions, each with its region's address (R414). -/
structure BelayState where
  store : List BelayRec
  got : List (Nat × Nat × Nat)
  feed : Nat
  fed : List Nat
  corr : Bool
  fill : Nat
  fillSeq : Nat
  fillLeft : List (Nat × Nat × Nat)
  expOpen : List BelayItem
  expSlots : List ExportSlot
  expBook : List (Nat × RtbRec)
  deriving DecidableEq, Repr

/-- The route book: its records, oldest first, the digest D of the last step, E of the current one, whether an ASK is
out, whether the hold of R411 applies and the contexts that it holds, DIVSTEP, the step at which a rollback ends, the recorded inputs that are given again,
whether the job is a field replay (R421),
and the shadows of the tiles' committed ranges by device address (R402). -/
structure RouteBook where
  recs : List RtbRec
  digest : Nat
  part : Nat
  asked : Bool
  full : Bool
  held : List (Nat × Nat)
  divStep : Nat
  target : Option Nat
  replay : List RtbRec
  field : Bool
  shadow : SMap Byte
  deriving DecidableEq, Repr

/-! ### The host port (R317 to R325) -/

/-- The host port. `width` and `rate` are CXL_STAT's fields. -/
structure HostPort where
  width : Nat
  rate : Nat
  degr : Bool
  ide : Nat
  pbrid : Nat
  trained : Bool
  perst : Bool
  waiting : List Request
  nextTag : Nat
  deriving DecidableEq, Repr

/-! ### Links (R290 to R316) -/

/-- A message flit to send or not yet acknowledged: flit number `idx` of the message `msg`. -/
structure TxFlit where
  seq : Nat
  vc : Nat
  idx : Nat
  som : Bool
  eom : Bool
  msg : Msg
  deriving DecidableEq, Repr

/-- A partial message on a VC: the routing fields of its first flit, and its payload so far. -/
structure RxPart where
  src : Nat
  dst : Nat
  mc : Bool
  hops : Nat
  data : List Byte
  deriving DecidableEq, Repr

/-- A link half or an unsplit port. `state` is LNK_STAT's code. `credits` are the dedicated credits of the eight VCs,
`shared` the shared ones; `got` the flits of the partial message received on each VC and `parts` what they hold, `toSom` the VCs on which a device
that has itself been reset discards what comes before the next SOM flit, and `skipped` those of them where it has counted the message
(R307). `ready` are the whole messages not yet delivered, oldest first; `holds` the copies of delivered ones that have still to leave, by
the VC that they came on (R302, R305); `used` the flits that stand in buffers behind those, and `owed` the credits to return (R297). -/
structure Link where
  state : Nat
  peer : Nat
  peerPort : Nat
  fails : Nat
  seq : Nat
  retry : List TxFlit
  queue : List TxFlit
  credits : Vector Nat 8
  shared : Nat
  turn : Nat
  rxSeq : Nat
  nakked : Bool
  got : Vector Nat 8
  parts : SMap (Option RxPart)
  toSom : List Nat
  skipped : List Nat
  resends : Nat
  ready : List Msg
  holds : List (Nat × List Msg)
  used : Vector Nat 8
  owed : Vector Nat 8
  deriving DecidableEq, Repr

/-! ### Power and the sluice (R346 to R369, R456) -/

/-- The input stage (R346, R456). -/
inductive Stage where
  | off
  | inrush
  | good
  | hold
  | clamped
  | opened
  deriving DecidableEq, Repr

/-- The input side. `closing` is a MOD_EN shutdown under way, `sampled` whether the straps have been sampled since power-good, `taper` whether
a feed failure or a trip still pays out every budget (R356, R357); `feedAt` and `tripAt` are the aon counts at which the two
comparators' event crossings last took an event (R363). -/
structure Power where
  stage : Stage
  modEn : Bool
  feedFail : Bool
  ttrip : Bool
  closing : Bool
  sampled : Bool
  taper : Bool
  feedAt : Option Nat
  tripAt : Option Nat
  deriving DecidableEq, Repr

/-- The sluice. Currents are in units of 1/16 mA, so that r of R351 is 35 × SLEW. Consumers: tile n is n, link port p
is 640 + p, controller c is 652 + c (R350, R14). `fresh` are the
consumers that joined a queue's tail in the present aon cycle, `admitEnd` and `ballastEnd` the entry and the end of the last
episode of each cause (R353). -/
structure Sluice where
  budget : SMap Nat
  target : SMap Nat
  up : List (Nat × Nat)
  down : List (Nat × Nat)
  cu : Nat
  cd : Nat
  capW : Nat
  capDuty : Nat
  thDuty : Nat
  hot : Bool
  warm : Bool
  temps : Vector (BitVec 16) 3
  tripped : List Nat
  fresh : List Nat
  admitEnd : Option (Nat × Nat)
  ballastEnd : Option (Nat × Nat)
  deriving DecidableEq, Repr

/-! ### Security and management (R425 to R451) -/

/-- The identity region of the boot flash (R425, R432): the PUF helper data, the device identity certificate with the public key in it, and the
vendor certificate chain. -/
structure IdentRegion where
  helper : List Byte
  devKey : Option (Nat × Nat)
  devCert : List Byte
  vendorChain : List Byte
  deriving DecidableEq, Repr

/-- The certificate of the alias key (R432): its public key, and the identity key's signature. -/
structure AliasCert where
  key : Nat × Nat
  sig : Nat × Nat
  deriving DecidableEq, Repr

/-- What the boot ROM mask holds: SM3 of the vendor's public key, and the ROM's version record (R426, R430). -/
structure Rom where
  keyHash : Nat
  version : List Byte
  deriving DecidableEq, Repr

/-- The boot flash of R425: two firmware slots (first stage, main firmware), two configuration records, the rollback
counter, and the active-slot flag (0 A, 1 B); `pend` marks an activated slot, which becomes the active one at the next power-on (R437). `ident` is the
identity region. -/
structure Flash where
  firstA : Option Component
  mainA : Option Component
  firstB : Option Component
  mainB : Option Component
  recA : Option Component
  recB : Option Component
  counter : Nat
  active : Nat
  pend : Bool
  ident : IdentRegion
  deriving DecidableEq, Repr

/-- How far the boot has come (R428, R429). -/
inductive Boot where
  | none
  | recovery
  | running
  deriving DecidableEq, Repr

/-- The security engine. `meas` are the measurement registers, as numbers whose first byte is most significant; `cfg` is the choice of a
configuration record made since power-on, with its copy, `repair` and `rowMap` the maps in force (R15, R16, R94). -/
structure Security where
  boot : Boot
  idok : Bool
  cfgCopy : Nat
  fallback : Bool
  pendAct : Bool
  bootSlot : Nat
  svn : Nat
  floor1 : Nat
  floor2 : Nat
  meas : Vector Nat 8
  aliasKey : Option Nat
  aliasCert : Option AliasCert
  sessions : Nat
  tilesOn : Bool
  cfg : Option (Option (Component × Nat))
  repair : List (List Nat)
  rowMap : List (Nat × Nat)
  deriving DecidableEq, Repr

/-- The management controller. `update` is the path of the update in progress: 1 PLDM, 2 host; `staged` the components (COMP,
VERSION) verified and not yet activated; `crossed` the thresholds that sensors are beyond. -/
structure Mgmt where
  base : Bool
  service : Bool
  eid : Option (BitVec 8)
  smbus : Bool
  joined : List Nat
  channels : List Nat
  trainFails : SMap Nat
  update : Option Nat
  staged : List (Nat × Nat)
  fwStatus : Nat
  selfBusy : Bool
  fail0 : Nat
  fail1 : Nat
  crossed : List (Nat × Nat)
  deriving DecidableEq, Repr

/-! ### Recovery (R370 to R398) -/

/-- Device reset phases of R387: the dump, the hold of R358, the firmware restart up to the verification of T1, the reload of the
job image, the wait for PERST# of R458, the recovery of the step up to the announcement of R389, and from the rejoin to the first step
boundary. -/
inductive ResetPhase where
  | none
  | dump
  | hold
  | restart
  | reload
  | waiting
  | recovering
  | rejoining
  | failed
  deriving DecidableEq, Repr

/-- The recovery machinery. `trigger` is a device reset that waits to begin: the CAUSE of its RESET entry and the SEQ
of the triggering entry. `handling` is the SEQ of the entry in handling, `bad` the T1 regions that failed, `chRetrain` the channels that are to retrain and `chBusy` those
that do, `dumpAt` the index of the dump unit in turn, `feedRec` the feed-failure record of R357,
`levelOne` whether a feed failure or a trip has reset the device in the present step (R374), `ovf` whether the log has overflowed since the last
reset completed (R371), `trigAt` the aon count, the step and the attempt at the trigger (R394), `abandons` the step, attempt, CLASS and CAUSE of the last
abandonment and how many in a row it makes (R378). -/
structure Recovery where
  trigger : Option (Nat × Nat)
  phase : ResetPhase
  cause : Nat
  trigSeq : Nat
  began : Nat
  failRun : Nat
  handling : Option Nat
  dumpValid : Nat
  dumpNewest : Nat
  dumpSlot : Nat
  unreadable : List (Nat × Nat)
  sealedAt : Option Nat
  copyBusy : Bool
  bad : List Nat
  abandons : Option (Nat × Nat × Nat × Nat × Nat)
  chErrs : SMap (List Nat)
  chRetrain : List Nat
  chBusy : List Nat
  dumpAt : Nat
  feedRec : Option (ErrLog × Sluice)
  levelOne : Bool
  ovf : Bool
  trigAt : Nat × Nat × Nat
  deriving DecidableEq, Repr

/-- The answer to an SPDM request (R433, R434): an error with its code, the certificate chain, a measurement, or another response. -/
inductive SpdmAnswer where
  | error (code : Nat)
  | chain (vendor device : List Byte) (leaf : AliasCert)
  | measurement (value : Nat)
  | done
  deriving DecidableEq, Repr

/-- What the device sends outside: to a bus owner, to the host link, or to a link peer. -/
inductive Sent where
  | mctp (status value : Nat)
  | spdm (a : SpdmAnswer)
  | pldm (code : Nat)
  | sensor (id threshold : Nat) (up : Bool)
  | busWrite (addr : Nat) (bytes : List Byte)
  | flit (port : Nat) (bytes : List Byte)
  deriving DecidableEq, Repr

/-- The machine. -/
structure State where
  pending : List Instr
  freeCtr : Nat
  mem : List Host.Cell
  undef : List (Nat × Nat × Nat)
  upset : SMap Nat
  poison : SMap Bool
  regs : SMap Word
  tiles : SMap Tile
  signals : List Signal
  vpins : List (Nat × Nat × Nat × Nat)
  aon : BitVec 64
  log : ErrLog
  chg : SMap (Option ChgEntry)
  chgNext : Nat
  inbox : List Msg
  netWait : List Msg
  links : SMap Link
  out : List Sent
  qm : QmState
  job : Job
  step : StepState
  bufs : SMap BufState
  emb : EmbState
  cairn : CairnState
  belay : BelayState
  book : RouteBook
  host : HostPort
  power : Power
  sluice : Sluice
  flash : Flash
  sec : Security
  mgmt : Mgmt
  rst : Recovery
  hostRd : Word
  rdBytes : List Byte
  rom : Rom
  deriving DecidableEq, Repr

/-! ### The state after power-on (R9) -/

/-- The running state of R115 at its start values: −0, −0, 0, 0, NaN, NaN, all ones. -/
def RunState.fresh : RunState :=
  ⟨2 ^ 35, 2 ^ 35, 0, 0, 0x7FF8000000000000, 0x7FF8000000000000, 2 ^ 64 - 1, 0, 0, 0⟩

/-- A buffer at the start of a step (R256). -/
def BufState.fresh : BufState := ⟨false, 0, 0, 0, [], [], false, false, 1, [], []⟩

/-- A context before any job: R125 gives its registers 0 at START, and no value before (log 7). -/
def Ctx.reset : Ctx :=
  { g := Vector.replicate 32 0, p := 1, s := Vector.replicate 16 0, tag := Vector.replicate 16 3,
    t := Vector.replicate 32 0, sem := Vector.replicate 8 0, pc := 0, step := .start, mode := .idle, wait := .none,
    clist := none, level := 0, arrSerial := 0, prog := Vector.replicate 7 0, progStart := Vector.replicate 7 0, ru := .fresh, epoch := 0 }

/-- A tile after power-on. -/
def Tile.reset : Tile :=
  { ctxs := Vector.replicate 4 Ctx.reset, rr := 3, serial := 0, queues := Vector.replicate 6 [],
    active := Vector.replicate 6 [], engStop := [], decision := none, arrived := false, passed := false, side := [],
    sideValid := [], scrub := 0, search := none, expired := [], bounds := 0 }

/-- The queue manager after power-on. -/
def QmState.reset : QmState :=
  { cache := [], cmdFrom := 0, held := [], lost := [], stopped := [], sent := [], flags := List.replicate 4096 0,
    nvme := [], late := [], rows := [], backlog := [], rung := [] }

/-- No job. -/
def Job.reset : Job :=
  { st := .empty, img := none, addr := 0, len := 0, ident := 0, seed := 0, members := [], stopReq := none, startReq := none, readyReq := none,
    sizes := (16, 4, 4096), baseRun := false }

/-- The step protocol after power-on (R275, R277). -/
def StepState.reset : StepState :=
  { no := 0, att := 0, phase := 0, lastDec := 0, skipRun := 0, commits := 0, reports := [], rejoined := false,
    decision := none, partials := [], partialSent := false, spoilt := false, barred := [], jobRec := none, reported := false,
    commit := none, stopped := false, finished := [], arrivals := [], resume := false, halted := none, queried := false }

/-- The embedding engines after power-on. -/
def EmbState.reset : EmbState :=
  { slots := [], switches := [], accs := [], opened := 0, taken := [], grads := [], sent := [], tallies := [],
    talliesOut := false, got := [], reduced := [], squares := 0, nonfin := 0, clamps := 0, pins := [], pinSeq := 0,
    waiting := [], plans := [], moves := [], asked := [], poolAsked := [], mirror := [], pool := [] }

/-- The cairn machinery after power-on (R423). -/
def CairnState.reset : CairnState :=
  { lastC := 0, next := 0, st := 0, acks := [], dones := [], dirty := [], frozen := [], listed := [], copied := [], msgs := 0, msgsC := 0,
    sealAsked := false, sealed := false, exported := false, full := false, times := [], cost := none, run := 0, ended := false, mark := 0, early := false,
    dAt := 0, slotsAt := [], slotsC := [], skipAt := 0, skipC := 0, dC := 0 }

/-- The belay store after power-on. -/
def BelayState.reset : BelayState :=
  { store := [], got := [], feed := 0, fed := [], corr := false, fill := 0, fillSeq := 0, fillLeft := [],
    expOpen := [], expSlots := [], expBook := [] }

/-- The route book after power-on. -/
def RouteBook.reset : RouteBook :=
  { recs := [], digest := 0, part := 0, asked := false, full := false, held := [], divStep := 0, target := none, replay := [],
    field := false, shadow := [] }

/-- The host port after power-on: its link is down (R341). -/
def HostPort.reset : HostPort :=
  { width := 0, rate := 0, degr := false, ide := 0, pbrid := 0, trained := false, perst := false, waiting := [],
    nextTag := 0 }

/-- A link after power-on: DISABLED (R313), with the receiver's full buffer counts as credits (R297). -/
def Link.reset : Link :=
  { state := 0, peer := 0, peerPort := 0, fails := 0, seq := 0, retry := [], queue := [],
    credits := Vector.replicate 8 32, shared := 256, turn := 2, rxSeq := 0, nakked := false,
    got := Vector.replicate 8 0, parts := [], toSom := List.range 8, skipped := [], resends := 0, ready := [], holds := [],
    used := Vector.replicate 8 0, owed := Vector.replicate 8 0 }

/-- The sluice after power-on: nothing admitted, both duties at 100 % (R367). -/
def Sluice.reset : Sluice :=
  { budget := [], target := [], up := [], down := [], cu := 0, cd := 0, capW := 3200, capDuty := 3, thDuty := 3,
    hot := false, warm := false, temps := Vector.replicate 3 0, tripped := [], fresh := [], admitEnd := none, ballastEnd := none }

/-- The body of a configuration record without repair (log 10). -/
def plainConfig : ConfigBody :=
  { seqNo := 0, sku := [], repair := [List.range 320, List.range 320], linked := true, rowMap := [], trims := [], helperAt := 0x2200000 }

/-- The signatures of the delivered components by the vendor key of `Rom.reset`, the point G (log 10). -/
def factorySig (comp : Nat) : Nat × Nat :=
  match comp with
  | 1 => (0x731d7be40a3c3c04c61d470c4589093a6012ef633bac04fe43c542203c615e91, 0x4671420d7ae1e1fd9cf15c79dd3b7b6288f87803f30d001687fb58f47eb9f14a)
  | 2 => (0x2f9aaa89a288f7a4af9d77426fff42d586ba4436e833f9a7e39f267f363123bd, 0x6832aabaaebb842da831445ec8005e94f5a4cd9a1cc905c1b80e66c501d20eb4)
  | _ => (0xc60215fadd62fc48e259c906d9dea7c9c2e488181b9d2010ca3c52f01ea7ee31, 0x1cfef502114e81db8ed31b7c9310ac1ad78faba98314728d44bfd08c8d96a97a)

/-- A signed component that validates, with an empty body: what a delivered module's flash holds (log 10). -/
def factoryComponent (comp : Nat) : Component :=
  { magic := 0x4345444E, comp := comp, version := 0, svn := 0, floor := 0, len := 0,
    digest := 0x1ab21d8355cfa17f8e61194831e81a8f22bec8c728fefb747ed035eb5082aa2b,
    signer := (0x32C4AE2C1F1981195F9904466A39C9948FE30BBFF2660BE1715A4589334C74C7, 0xBC3736A2F4F6779C59BDCEE36B692153D0A9877CC62A474002DF32E52139F0A0),
    sig := factorySig comp, bytes := [], body := plainConfig }

/-- The boot ROM mask: the hash of the key that signs the delivered components, and an empty version record (log 10). -/
def Rom.reset : Rom := { keyHash := 0x37231d911f9017b110c6d046e321dedcc72761be1bbf16159f679ffd98183a69, version := [] }

/-- The boot flash of a delivered module: the manual says what it holds, not which values (log 10). -/
def Flash.factory : Flash :=
  { firstA := some (factoryComponent 1), mainA := some (factoryComponent 2), firstB := none, mainB := none,
    recA := some (factoryComponent 3), recB := none, counter := 0, active := 0, pend := false,
    ident := { helper := [], devKey := none, devCert := [], vendorChain := [] } }

/-- The security engine at power-on: measurement registers 0 (R430, R450). -/
def Security.reset : Security :=
  { boot := .none, idok := false, cfgCopy := 0, fallback := false, pendAct := false, bootSlot := 0, svn := 0,
    floor1 := 0, floor2 := 0, meas := Vector.replicate 8 0, aliasKey := none, aliasCert := none, sessions := 0,
    tilesOn := false, cfg := none, repair := [], rowMap := [] }

/-- The management controller at power-on: MODE reads 1 (R451). -/
def Mgmt.reset : Mgmt :=
  { base := true, service := false, eid := none, smbus := false, joined := [], channels := [], trainFails := [],
    update := none, staged := [], fwStatus := 0, selfBusy := false, fail0 := 0, fail1 := 0, crossed := [] }

/-- The recovery machinery at power-on. -/
def Recovery.reset : Recovery :=
  { trigger := none, phase := .none, cause := 0, trigSeq := 0, began := 0, failRun := 0, handling := none,
    dumpValid := 0, dumpNewest := 0, dumpSlot := 0, unreadable := [], sealedAt := none, copyBusy := false, bad := [],
    abandons := none, chErrs := [], chRetrain := [], chBusy := [], dumpAt := 0, feedRec := none, levelOne := false, ovf := false, trigAt := (0, 0, 0) }

/-- The input side without power. -/
def Power.off : Power := ⟨.off, false, false, false, false, false, false, none, none⟩

/-- The machine at power-good, before the hub boots: every register at its reset value. -/
def State.reset : State :=
  { pending := [], freeCtr := 0, mem := [], undef := [], upset := [], poison := [], regs := [], tiles := [], signals := [], vpins := [],
    aon := 0, log := ⟨[], 0⟩, chg := [], chgNext := 0, inbox := [], netWait := [], links := [], out := [], qm := .reset, job := .reset,
    step := .reset, bufs := [], emb := .reset, cairn := .reset, belay := .reset, book := .reset, host := .reset, power := { Power.off with stage := .good, modEn := true }, sluice := .reset,
    flash := .factory, sec := .reset, mgmt := .reset, rst := .reset, hostRd := 0, rdBytes := [], rom := .reset }

end Sys2Proof.Machine
end

