-- ==== Sys2Proof/Machine/Regs.lean ====
section
/-! DEFINITION. The register map: device addresses (R157, R158, R160), and for every register of the manual which of
its bits a write stores, which a 1 clears, which a read clears, which trigger an action, and its reset value (R5). -/
namespace Sys2Proof.Machine

/-- The access codes of a register's bits, as masks; bits in no mask are RO or reserved (R5, R6). -/
structure RegInfo where
  rw : Nat
  w1c : Nat
  rc : Nat
  wo : Nat
  reset : Nat
  deriving DecidableEq, Repr

/-- A 64-bit RC counter of R58. -/
def RegInfo.counter : RegInfo := ⟨0, 0, 2 ^ 64 - 1, 0, 0⟩

/-- A register all of whose fields are RO. -/
def RegInfo.ro : RegInfo := ⟨0, 0, 0, 0, 0⟩

/-- A register with RW fields. -/
def RegInfo.rwOf (mask reset : Nat) : RegInfo := ⟨mask, 0, 0, 0, reset⟩

/-- A mask of bits hi down to lo. -/
def maskOf (hi lo : Nat) : Nat := 2 ^ (hi + 1) - 2 ^ lo

/-- Whether `off` is one of n registers from `lo`, `step` bytes apart. -/
def offIn (off lo n step : Nat) : Bool := decide (lo ≤ off ∧ off < lo + n * step ∧ (off - lo) % step = 0)

/-- The registers of tile block b (R133), by byte offset. -/
def tileRegInfo (b off : Nat) : Option RegInfo :=
  match b with
  | 0 =>
    if off = 0x000 then some .ro
    else if offIn off 0x040 4 8 then some ⟨0, 0x1F, 0, 0, 0⟩
    else if offIn off 0x060 4 8 then some .counter
    else if offIn off 0x080 4 8 then some .ro
    else if offIn off 0x0A0 4 8 then some .ro
    else if offIn off 0x0C0 4 8 then some (.rwOf 0x1FFF 0)
    else if offIn off 0x0E0 3 8 then some .counter
    else if off = 0x100 ∨ off = 0x110 ∨ off = 0x128 then some .ro
    else if off = 0x120 ∨ off = 0x130 then some .counter
    else none
  | 1 =>
    if offIn off 0x000 4 8 then some .ro
    else if offIn off 0x040 7 8 then some .counter
    else none
  | 2 => if offIn off 0x040 2 8 then some .counter else none
  | 3 => if offIn off 0x040 5 8 then some .counter else none
  | 4 =>
    if off = 0 then some .ro
    else if off = 0x040 then some .counter
    else none
  | 5 => if offIn off 0x040 2 8 then some .counter else none
  | 6 =>
    if off = 0x000 then some (.rwOf (maskOf 63 30) 0)
    else if off = 0x008 then some (.rwOf (maskOf 35 0) 0)
    else if off = 0x010 then some (.rwOf (maskOf 63 13) 0)
    else if off = 0x018 then some (.rwOf (maskOf 63 15) 0)
    else if off = 0x020 then some ⟨0, 0, 0, maskOf 63 41, 0⟩
    else if off = 0x028 then some .ro
    else if offIn off 0x040 15 8 then some .counter
    else if offIn off 0x800 256 8 then some .counter
    else none
  | _ => none

/-- The registers of hub or rim block k (offset 64 KiB × k under R160), by byte offset. -/
def hubRegInfo (k off : Nat) : Option RegInfo :=
  match k with
  | 0 =>
    if off = 0x000 ∨ off = 0x010 ∨ off = 0x018 then some .ro
    else if off = 0x008 then some ⟨0, 0x3F, 0, 0, 0⟩
    else if offIn off 0x040 2 8 then some .counter
    else none
  | 1 =>
    if off = 0x000 then some ⟨0, 0, 0, 0, 1⟩
    else if off = 0x010 then some (.rwOf (maskOf 63 12) 0)
    else if off = 0x018 then some ⟨maskOf 39 8, 0, 0, 3, 0⟩
    else if off = 0x020 then some ⟨0, 0, 0, 1, 0⟩
    else if off = 0x028 then some ⟨0, 0, maskOf 31 0, 0, 0⟩
    else if offIn off 0x8000 4096 8 then some .ro
    else none
  | 2 =>
    if off = 0x000 ∨ off = 0x008 ∨ offIn off 0x100 32 8 then some .ro
    else none
  | 3 =>
    if off = 0x000 then some (.rwOf 0x1F03 0x1003)
    else if off = 0x008 then some (.rwOf 0xFFF 3200)
    else if off = 0x010 then some .ro
    else if offIn off 0x040 4 8 then some .counter
    else none
  | 4 =>
    if off = 0x000 then some (.rwOf (maskOf 32 0) 250000)
    else if off = 0x008 then some (.rwOf 0xFFFF 16)
    else if off = 0x010 ∨ off = 0x018 then some .ro
    else if off = 0x020 then some ⟨0, 0, 0, 1, 0⟩
    else if off = 0x028 then some ⟨0, 3, 0, 0, 0⟩
    else if off = 0x030 then some ⟨maskOf 63 12 + 2, 0, 0, 1, 0⟩
    else if offIn off 0x040 9 8 then some .counter
    else if offIn off 0x400 64 8 then some (.rwOf (maskOf 63 0) 0)
    else if offIn off 0x1000 512 8 then some .ro
    else none
  | 5 =>
    if off = 0x008 then some (.rwOf 0xFFFF 4)
    else if off = 0x010 then some (.rwOf 0xFFFFF 0)
    else if off = 0x018 then some ⟨0xFFFFF, 0, 0, maskOf 25 24, 0⟩
    else if offIn off 0x040 8 8 then some (.rwOf (maskOf 63 0) 0)
    else if offIn off 0x100 5 8 then some .counter
    else if offIn off 0x200 32 8 then some (.rwOf (maskOf 63 8 + 1) 0)
    else if offIn off 0x400 256 8 then some (.rwOf (maskOf 63 26 + 1) 0)
    else none
  | 6 =>
    if off = 0x000 then some .ro
    else if off = 0x008 then some (.rwOf 0x7FFF 0)
    else if off = 0x010 then some (.rwOf (maskOf 63 12 + 1) 0)
    else if offIn off 0x040 8 8 then some (.rwOf (maskOf 63 8 + 2) 0)
    else none
  | 7 =>
    if off = 0x000 then some (.rwOf 0xF 4)
    else if off = 0x008 then some (.rwOf 0xFFFF 4096)
    else if off = 0x010 then some .ro
    else if off = 0x018 then some (.rwOf 1 0)
    else none
  | 8 =>
    if off = 0x000 ∨ off = 0x010 ∨ off = 0x018 ∨ off = 0x020 ∨ off = 0x028 then some .ro
    else if off = 0x008 then some (.rwOf 0xF0FF01 1)
    else if off = 0x030 then some (.rwOf (maskOf 31 0) 0)
    else if off = 0x038 then some (.rwOf (maskOf 63 0) 0)
    else if offIn off 0x040 9 8 then some .counter
    else none
  | 9 =>
    if off = 0x000 then some .ro
    else if off = 0x008 then some (.rwOf (maskOf 63 24) 0)
    else if off = 0x010 then some (.rwOf 0xFFFF 0)
    else if off = 0x018 then some (.rwOf (maskOf 63 12) 0)
    else if off = 0x020 then some (.rwOf (maskOf 31 0) 0)
    else if off = 0x028 then some (.rwOf (maskOf 63 12 + 3) 0)
    else if off = 0x030 then some (.rwOf 3 0)
    else none
  | _ =>
    if 0x10 ≤ k ∧ k < 0x1C then
      if off = 0x000 then some (.rwOf 0xF8 0)
      else if off = 0x008 ∨ off = 0x010 then some .ro
      else if off = 0x018 then some (if k = 0x10 then .rwOf 0xFFF 0 else .ro)
      else if offIn off 0x040 12 8 then some .counter
      else if offIn off 0x8000 4096 8 then some (if k = 0x10 then .rwOf 0xFF1F 0 else .ro)
      else none
    else none

/-- The size of a tile window (R157). -/
def tileSpan : Nat := 0x800000

/-- Where the tile windows end. -/
def t0End : Nat := 640 * tileSpan

/-- Where the hub and rim register blocks begin (R160). -/
def hubBase : Nat := 0x200000000

/-- The device address of the register at byte offset `off` of block b of a tile (R158). -/
def tileReg (t b off : Nat) : Nat := t * tileSpan + 0x700000 + 0x1000 * b + off

/-- The device address of the register at byte offset `off` of hub or rim block k (R160). -/
def hubReg (k off : Nat) : Nat := hubBase + 0x10000 * k + off

/-- What an address of a register names: a tile, its block and the offset. -/
def tileRegAt (a : Nat) : Option (Nat × Nat × Nat) :=
  let w := a % tileSpan
  if a < t0End ∧ 0x700000 ≤ w ∧ w < 0x707000 then some (a / tileSpan, (w - 0x700000) / 0x1000, w % 0x1000) else none

/-- What an address in the hub and rim blocks names: a block and the offset. -/
def hubRegAt (a : Nat) : Option (Nat × Nat) :=
  if hubBase ≤ a ∧ a < hubBase + 0x1C0000 then some ((a - hubBase) / 0x10000, (a - hubBase) % 0x10000) else none

/-- The access codes of the register at a device address, if the address names one (8-byte aligned, R8). -/
def regInfo (a : Nat) : Option RegInfo :=
  match tileRegAt a with
  | some (_, b, off) => tileRegInfo b off
  | none =>
    match hubRegAt a with
    | some (k, off) => hubRegInfo k off
    | none => none

/-- The reset value of the register at a device address (R9). -/
def regReset (a : Nat) : Word :=
  match regInfo a with
  | some i => BitVec.ofNat 64 i.reset
  | none => 0

/-- Whether a register of a hub block keeps its value through device reset: AON_ (R369), AON_XOVR, ERR_CNT_RESET
(R398), MGT_CHGSTAT.LOST (R451) and SEC_ (R450), whose own fields live elsewhere in State. -/
def keptReg (a : Nat) : Bool :=
  match hubRegAt a with
  | some (0, _) => true
  | some (1, 0x028) => true
  | some (4, 0x080) => true
  | _ => false

/-! ### Names of registers -/

/-- TILE_AFLAG_Cn. -/
def rAflag (t c : Nat) : Nat := tileReg t 0 (0x040 + 8 * c)
/-- TILE_CFLT_Cn. -/
def rCflt (t c : Nat) : Nat := tileReg t 0 (0x0A0 + 8 * c)
/-- TILE_CSAVE_Cn. -/
def rCsave (t c : Nat) : Nat := tileReg t 0 (0x0C0 + 8 * c)
/-- TILE_CNT_INSN. -/
def rCntInsn (t : Nat) : Nat := tileReg t 0 0x0E0
/-- TILE_CNT_CMDI. -/
def rCntCmdi (t : Nat) : Nat := tileReg t 0 0x0E8
/-- TILE_CNT_QFULL. -/
def rCntQfull (t : Nat) : Nat := tileReg t 0 0x0F0
/-- TILE_STEP. -/
def rTileStep (t : Nat) : Nat := tileReg t 0 0x100
/-- TILE_CNT_CE. -/
def rCntCe (t : Nat) : Nat := tileReg t 0 0x120
/-- TILE_ECC_LAST. -/
def rEccLast (t : Nat) : Nat := tileReg t 0 0x128
/-- AON_XOVR. -/
def rXovr : Nat := hubReg 0 0x008
/-- AON_SENS. -/
def rSens : Nat := hubReg 0 0x010
/-- AON_TEMP. -/
def rTemp : Nat := hubReg 0 0x018
/-- AON_CNT_FEED. -/
def rCntFeed : Nat := hubReg 0 0x040
/-- AON_CNT_TTRIP. -/
def rCntTtrip : Nat := hubReg 0 0x048
/-- MGT_FWADDR. -/
def rFwAddr : Nat := hubReg 1 0x010
/-- MGT_FWCTL. -/
def rFwCtl : Nat := hubReg 1 0x018
/-- MGT_SELFTEST. -/
def rSelfTest : Nat := hubReg 1 0x020
/-- MGT_CHGSTAT. -/
def rChgStat : Nat := hubReg 1 0x028
/-- SLU_CTRL. -/
def rSluCtrl : Nat := hubReg 3 0x000
/-- SLU_CAP. -/
def rSluCap : Nat := hubReg 3 0x008
/-- ERR_HANGWIN. -/
def rHangWin : Nat := hubReg 4 0x000
/-- ERR_DUMP_SIZE. -/
def rDumpSize : Nat := hubReg 4 0x008
/-- ERR_RESETREQ. -/
def rResetReq : Nat := hubReg 4 0x020
/-- ERR_DUMPST. -/
def rDumpSt : Nat := hubReg 4 0x028
/-- ERR_DUMPCPY. -/
def rDumpCpy : Nat := hubReg 4 0x030
/-- ERR_PEERDOWN_w. -/
def rPeerDown (w : Nat) : Nat := hubReg 4 (0x400 + 8 * w)
/-- QM_DTAB_SIZE. -/
def rDtabSize : Nat := hubReg 5 0x008
/-- QM_EVQ. -/
def rEvq : Nat := hubReg 5 0x010
/-- QM_QCTL. -/
def rQctl : Nat := hubReg 5 0x018
/-- QM_QDATAn. -/
def rQdata (n : Nat) : Nat := hubReg 5 (0x040 + 8 * n)
/-- QM_NVCTL_c. -/
def rNvctl (c : Nat) : Nat := hubReg 5 (0x200 + 8 * c)
/-- QM_NVNS_h. -/
def rNvns (h : Nat) : Nat := hubReg 5 (0x400 + 8 * h)
/-- CXL_MEMWIN. -/
def rMemWin : Nat := hubReg 6 0x008
/-- CXL_FLAGBASE. -/
def rFlagBase : Nat := hubReg 6 0x010
/-- RTB_STAGE_SIZE. -/
def rStageSize : Nat := hubReg 7 0x008
/-- RTB_CFG. -/
def rRtbCfg : Nat := hubReg 7 0x000
/-- RTB_REPLAY. -/
def rReplay : Nat := hubReg 7 0x018
/-- CRN_STEPCTL. -/
def rStepCtl : Nat := hubReg 8 0x008
/-- CRN_MTBF. -/
def rMtbf : Nat := hubReg 8 0x030
/-- CRN_GATHER. -/
def rGather : Nat := hubReg 8 0x038
/-- LNK_CFG of a port. -/
def rLnkCfg (p : Nat) : Nat := hubReg (0x10 + p) 0x000
/-- LNK_DEVID. -/
def rDevId : Nat := hubReg 0x10 0x018
/-- LNK_RT_d. -/
def rRoute (d : Nat) : Nat := hubReg 0x10 (0x8000 + 8 * d)
/-- The RC counter at `off` of a port's LNK_ block. -/
def rLnkCnt (p off : Nat) : Nat := hubReg (0x10 + p) off

end Sys2Proof.Machine
end

