-- ==== Sys2Proof/Machine/Ops.lean ====
section
/-! DEFINITION. The named operations over registers, tiles, contexts and memory, the error log, the change log, the
queue descriptors and events, and context faults. -/
namespace Sys2Proof.Machine

/-! ### Registers (R5, R58) -/

/-- The stored value of the register at a device address. -/
def State.reg (s : State) (a : Nat) : Word := s.regs.get regReset a

/-- Stores a register. -/
def State.setReg (s : State) (a : Nat) (v : Word) : State := { s with regs := s.regs.put regReset a v }

/-- The counter value n events later; it holds at all ones (R58). -/
def countUp (w : Word) (n : Nat) : Word := BitVec.ofNat 64 (min (w.toNat + n) (2 ^ 64 - 1))

/-- Adds n events to an RC counter. -/
def State.count (s : State) (a n : Nat) : State := s.setReg a (countUp (s.reg a) n)

/-! ### Tiles and contexts -/

/-- A tile; one that is not listed is as after power-on. -/
def State.tile (s : State) (t : Nat) : Tile := s.tiles.get (fun _ => Tile.reset) t

/-- Stores a tile. -/
def State.setTile (s : State) (t : Nat) (x : Tile) : State := { s with tiles := s.tiles.put (fun _ => Tile.reset) t x }

/-- Changes a tile. -/
def State.updTile (s : State) (t : Nat) (f : Tile → Tile) : State := s.setTile t (f (s.tile t))

/-- A context of a tile. -/
def State.ctx (s : State) (l : Loc) : Ctx := (s.tile l.tile).ctxs[l.ctx]

/-- Changes a context of a tile record. -/
def Tile.setCtx (x : Tile) (c : CtxId) (v : Ctx) : Tile := { x with ctxs := x.ctxs.set c v }

/-- Stores a context. -/
def State.setCtx (s : State) (l : Loc) (c : Ctx) : State := s.updTile l.tile (fun x => x.setCtx l.ctx c)

/-- Changes a context. -/
def State.updCtx (s : State) (l : Loc) (f : Ctx → Ctx) : State := s.setCtx l (f (s.ctx l))

/-- A general register: g0 reads 0 (R124). -/
def Ctx.rg (c : Ctx) (n : BitVec 5) : Word := if n = 0 then 0 else c.g[n.toFin]

/-- A write of a general register: one to g0 is discarded (R124). -/
def Ctx.wg (c : Ctx) (n : BitVec 5) (v : Word) : Ctx := if n = 0 then c else { c with g := c.g.set n.toFin v }

/-- A predicate register: p0 reads 1 (R124). -/
def Ctx.rp (c : Ctx) (n : BitVec 3) : Bool := if n = 0 then true else c.p.getLsbD n.toNat

/-- A write of a predicate register: one to p0 is discarded (R124). -/
def Ctx.wp (c : Ctx) (n : BitVec 3) (v : Bool) : Ctx :=
  if n = 0 then c
  else { c with p := if v then c.p ||| (1#8 <<< n.toNat) else c.p &&& ~~~(1#8 <<< n.toNat) }

/-- A write of a summary register with its kind tag (R116, R124). -/
def Ctx.ws (c : Ctx) (n : Fin 16) (v : Word) (tag : BitVec 2) : Ctx :=
  { c with s := c.s.set n v, tag := c.tag.set n tag }

/-- Writes summaries from register `base` on (R116). -/
def Ctx.writeSummaries (c : Ctx) (base : Nat) : List (Word × BitVec 2) → Ctx
  | [] => c
  | w :: r => (c.ws ⟨base % 16, Nat.mod_lt _ (by decide)⟩ w.1 w.2).writeSummaries (base + 1) r

/-- A write of a token counter. -/
def Ctx.wt (c : Ctx) (n : Fin 32) (v : Word) : Ctx := { c with t := c.t.set n v }

/-- A write of a semaphore. -/
def Ctx.wsem (c : Ctx) (n : Fin 8) (v : BitVec 32) : Ctx := { c with sem := c.sem.set n v }

/-- Advances the progress counter of a unit: 0 the control core, 1 + e engine e (R148, R379). -/
def Ctx.progress (c : Ctx) (unit : Fin 7) : Ctx := { c with prog := c.prog.set unit (c.prog[unit] + 1) }

/-- Every tile's number. -/
def allTiles : List Nat := List.range 640

/-- Every context's number. -/
def allCtxs : List CtxId := [0, 1, 2, 3]

/-! ### Free values -/

/-- Draws a free 64-bit value (log 3). -/
def State.draw (s : State) : Word × State := (Config.freeWord s.freeCtr, { s with freeCtr := s.freeCtr + 1 })

/-! ### Bytes of memory by device address (R157) -/

/-- What an address that is not listed reads as: 0 (log 2), or in T0 and T1 a free value where a self-test (R449) or a changed reserve size
(R172) has left the contents undefined (log 72, log 105). -/
def unlisted (undef : List (Nat × Nat × Nat)) (a : Nat) : Byte :=
  match undef.find? (fun r => inside a 1 r.2.1 r.2.2) with
  | some r => if a < 0x56800000000 then Config.freeByte r.1 a else 0
  | none => 0

/-- One byte of memory. -/
def State.byte (s : State) (a : Nat) : Byte := SMap.get (unlisted s.undef) s.mem a

/-- The canonical form of memory: addresses strictly rising, and no byte that an unlisted address reads as. -/
abbrev Memory.wf (s : State) : Bool := SMap.wf (unlisted s.undef) s.mem

/-- Stores bytes from an address up, where an unlisted address reads as `d`. -/
def putBytes (d : Nat → Byte) (m : List Host.Cell) (a : Nat) : List Byte → List Host.Cell
  | [] => m
  | b :: r => putBytes d (SMap.put d m a b) (a + 1) r

/-- n bytes of memory from an address up. -/
def State.bytes (s : State) (a n : Nat) : List Byte := (List.range n).map (fun i => s.byte (a + i))

/-- Stores bytes without any check. -/
def State.poke (s : State) (a : Nat) (bs : List Byte) : State := { s with mem := putBytes (unlisted s.undef) s.mem a bs }

/-- The little-endian number in n bytes of memory. -/
def State.peek (s : State) (a n : Nat) : Nat := leVal (s.bytes a n)

/-- The T1 base (R157). -/
def t1Base : Nat := 0x40000000000

/-- The end of T1. -/
def t1End : Nat := 0x56800000000

/-- The T2 base. -/
def t2Base : Nat := 0x8000000000000000

/-- The end of T2. -/
def t2End : Nat := 0x8200000000000000

/-- The T3 base. -/
def t3Base : Nat := 0xC000000000000000

/-- The end of T3. -/
def t3End : Nat := 0xC100000000000000

/-- The own-tile alias (R159). -/
def aliasBase : Nat := 0x300000000

/-- Where a tile's SRAM offset lies. -/
def sram (t off : Nat) : Nat := t * tileSpan + off

/-- The SRAM size of a tile. -/
def sramSize : Nat := 0x600000

/-! ### The reserves of T1 (R172) -/

/-- 16 MiB. -/
def unit16M : Nat := 0x1000000

/-- The crash dump region in effect: base and size. -/
def State.dumpRegion (s : State) : Nat × Nat :=
  (t1End - s.job.sizes.1 * unit16M, s.job.sizes.1 * unit16M)

/-- The queue descriptor table in effect. -/
def State.dtab (s : State) : Nat × Nat :=
  ((s.dumpRegion).1 - s.job.sizes.2.1 * unit16M, s.job.sizes.2.1 * unit16M)

/-- The route book and belay staging reserve in effect. -/
def State.stage (s : State) : Nat × Nat :=
  ((s.dtab).1 - s.job.sizes.2.2 * unit16M, s.job.sizes.2.2 * unit16M)

/-- Whether a range touches a reserve: the reserves fill T1 from the lowest one up. -/
def State.touchesReserve (s : State) (a n : Nat) : Bool := overlaps a n (s.stage).1 (t1End - (s.stage).1)

/-- Whether a range lies wholly in T1 outside the reserves, or wholly in T2. -/
def State.hostReadable (s : State) (a n : Nat) : Bool :=
  (inside a n t1Base (t1End - t1Base) && !s.touchesReserve a n) || inside a n t2Base (t2End - t2Base)

/-! ### Entries of the error log (R370, R371) -/

/-- Unit codes of R392 and R372. -/
def noUnit : Nat := 0xFFFF

/-- A device reset is to begin with a cause; a trigger that already waits keeps its place, except that a feed failure
replaces any other (R387, R458). The dump shows the aon count, step and attempt of the trigger (R394). -/
def State.escalate (s : State) (cause seq : Nat) : State :=
  match s.rst.trigger with
  | some _ => if cause = 3 then { s with rst := { s.rst with trigger := some (cause, seq) } } else s
  | none => { s with rst := { s.rst with trigger := some (cause, seq), trigAt := (s.aon.toNat, s.step.no, s.step.att) } }

/-- The entry in the slot that the next entry would take. -/
def State.nextSlot (s : State) : Option LogEntry := s.log.slots.get (fun _ => none) (s.log.next % 64)

/-- Whether the log has no room for a new entry: the slot that it would take is not done (R371). -/
def State.logFull (s : State) : Bool :=
  match s.nextSlot with
  | some old => decide (old.state ≠ 2)
  | none => false

/-- The overrun bit of the crossing into the hub that an entry's event takes (R364): link state changes 0, LPDDR5X ECC events 1, tile faults and
memory errors 2, host port errors and IDE events 5. -/
def crossingOf (cls cause : Nat) : Option Nat :=
  match cls, cause with
  | 2, _ => some 2
  | 3, _ => some 2
  | 4, 1 => some 1
  | 4, 2 => some 1
  | 5, 1 => some 0
  | 5, 2 => some 0
  | 6, 1 => some 5
  | 6, 3 => some 5
  | _, _ => none

/-- Sets an overrun bit (R363, R364). -/
def State.overrun (s : State) (b : Nat) : State := s.setReg rXovr (s.reg rXovr ||| BitVec.ofNat 64 (2 ^ b))

/-- An event crosses into the hub: one that meets another of its crossing there sets the overrun bit. What the two report is handled all the
same, since the hub then finds both where they arose (R363; log 160). -/
def State.crossEvent (s : State) (e : LogEntry) : State :=
  match crossingOf e.cls e.cause with
  | none => s
  | some b =>
    let met := s.log.slots.any (fun x => match x.2 with
      | some f => decide (f.tstart = s.aon.toNat ∧ crossingOf f.cls f.cause = some b)
      | none => false)
    if met && Config.crossLate s.aon.toNat b then s.overrun b else s

/-- Writes an entry with the next SEQ, one that is done at once with its end; with no room, a device reset with cause LOGOVF is due instead (R371). -/
def State.writeLog (s : State) (e : LogEntry) : State :=
  let s := s.crossEvent e
  if s.logFull then ({ s with rst := { s.rst with ovf := true } } : State).escalate 5 s.log.next
  else
    let e := { e with seq := s.log.next, tstart := s.aon.toNat, tend := if e.state = 2 then s.aon.toNat else 0, step := s.step.no,
                      att := s.step.att }
    { s with log := { slots := s.log.slots.put (fun _ => none) (s.log.next % 64) (some e), next := (s.log.next + 1) % 2 ^ 32 } }

/-! ### Queue descriptors (R326 to R328) -/

/-- A queue descriptor. -/
structure QDesc where
  valid : Bool
  cls : Nat
  log2n : Nat
  flagen : Bool
  flag : Nat
  tile : Nat
  ctx : Nat
  evq : Nat
  rsend : Bool
  ring : Nat
  head : Nat
  tail : Nat
  peerdev : Nat
  peerq : Nat
  seq : Nat
  nvqid : Nat
  ctl : Nat
  pair : Nat
  deriving DecidableEq, Repr

/-- The descriptor that eight words hold. -/
def QDesc.ofWords (w : Nat → Nat) : QDesc :=
  { valid := bitOf (w 0) 63, cls := fld (w 0) 62 60, log2n := fld (w 0) 59 55, flagen := bitOf (w 0) 54,
    flag := fld (w 0) 53 45, tile := fld (w 0) 44 35, ctx := fld (w 0) 34 33, evq := fld (w 0) 32 13,
    rsend := bitOf (w 0) 12, ring := w 1, head := fld (w 2) 63 32, tail := fld (w 2) 31 0,
    peerdev := fld (w 3) 63 52, peerq := fld (w 3) 51 32, seq := fld (w 3) 31 0, nvqid := fld (w 4) 63 48,
    ctl := fld (w 4) 47 43, pair := fld (w 4) 42 23 }

/-- Where the descriptor of queue q lies. -/
def State.descAt (s : State) (q : Nat) : Nat := (s.dtab).1 + 64 * q

/-- Whether queue q exists (R326). -/
def State.queueExists (s : State) (q : Nat) : Bool := decide (q < s.job.sizes.2.1 * 2 ^ 18)

/-- The descriptor of a queue; one that does not exist is invalid (R326). -/
def State.desc (s : State) (q : Nat) : QDesc :=
  let d := QDesc.ofWords (fun i => s.peek (s.descAt q + 8 * i) 8)
  if s.queueExists q then d else { d with valid := false }

/-- The queues whose descriptors have VALID set, by rising number: among the bytes listed, unless some bytes have undefined contents. -/
def State.queueIds (s : State) : List Nat :=
  if s.undef.all (fun r => decide (r.2.1 + r.2.2 ≤ t1Base)) then
    (s.mem.filter (fun (c : Host.Cell) => inside c.1 1 (s.dtab).1 (s.dtab).2 && decide ((c.1 - (s.dtab).1) % 64 = 7) && c.2.getLsbD 7)).map
      (fun c => (c.1 - (s.dtab).1) / 64)
  else (List.range ((s.dtab).2 / 64)).filter (fun q => (s.byte ((s.dtab).1 + 64 * q + 7)).getLsbD 7)

/-- Entries of a class (R327). -/
def entrySize (cls : Nat) : Nat := if cls = 5 then 16 else 64

/-- The number of entries in the ring, modulo 2^32 (R328). -/
def QDesc.used (d : QDesc) : Nat := (d.tail + 2 ^ 32 - d.head) % 2 ^ 32

/-- Room left in the ring. -/
def QDesc.room (d : QDesc) : Nat := 2 ^ d.log2n - d.used

/-- Where entry i of the ring lies (R328). -/
def QDesc.entryAt (d : QDesc) (i : Nat) : Nat := d.ring + entrySize d.cls * (i % 2 ^ d.log2n)

/-- Stores a whole burst: no read, and new code bytes, so that what was wrong with it is gone (R171). -/
def State.pokeBurst (s : State) (a : Nat) (bs : List Byte) : State :=
  ({ s with upset := s.upset.put (fun _ => 0) (a / 64 * 64) 0 } : State).poke a bs

/-- Writes a field of a descriptor: the hub writes the burst from its cached copy (R326). Without one, because its fetch failed, it writes
nothing, so that no code is computed over bytes that failed their check (R171). -/
def State.setDesc (s : State) (q off v : Nat) : State :=
  if q ∉ s.qm.cache ∧ 2 ≤ s.upset.get (fun _ => 0) (s.descAt q) then s
  else ({ s with upset := s.upset.put (fun _ => 0) (s.descAt q) 0 } : State).poke (s.descAt q + off) (leBytes 4 v)

/-- Writes TAIL. -/
def State.setTail (s : State) (q v : Nat) : State := s.setDesc q 16 v

/-- Writes HEAD. -/
def State.setHead (s : State) (q v : Nat) : State := s.setDesc q 20 v

/-- Writes SEQ. -/
def State.setSeq (s : State) (q v : Nat) : State := s.setDesc q 24 v

/-- The namespace handle of a T3 address (R174). -/
def t3Handle (a : Nat) : Nat := fld a 55 48

/-- Whether a queue has work in progress: a queue message command, an NVMe command of its controller, entries on their way to a peer, or
events that wait for room (R326). -/
def State.queueBusy (s : State) (q : Nat) : Bool :=
  let d := s.desc q
  s.tiles.any (fun e => (e.2.active[5]).any (fun a => decide (a.queue = some q))) ||
  (d.valid && decide (d.cls = 4 ∨ d.cls = 5) && s.qm.nvme.any (fun r => decide (fld (s.reg (rNvns (t3Handle r.addr))).toNat 31 27 = d.ctl))) ||
  decide (s.qm.sent.get (fun _ => 0) q ≠ 0) || s.qm.held.any (fun e => decide (e.1 = q))

/-- The cached list after a use of q: most recently used first; a full cache first drops its least recently used entry
with no work in progress, or its least recently used one (R326). -/
def State.cacheUse (s : State) (q : Nat) : State :=
  if q ∈ s.qm.cache then { s with qm := { s.qm with cache := q :: s.qm.cache.filter (fun x => decide (x ≠ q)) } }
  else
    let c := s.qm.cache
    let victim := ((c.reverse.find? (fun x => !s.queueBusy x)).orElse (fun _ => c.getLast?))
    let c' := if c.length < 16384 then c else match victim with
      | some v => c.filter (fun x => decide (x ≠ v))
      | none => c
    ({ s with qm := { s.qm with cache := q :: c' } }).count (hubReg 5 0x100) 1

/-- Whether T2 and T3 accesses go: the link is up at 32 GT/s or faster, out of PERST#, and not insecure (R318, R341). -/
def State.hostUp (s : State) : Bool := s.host.trained && !s.host.degr && !s.host.perst && decide (s.host.ide ≠ 2)

/-- Whether an access has to wait for the host link: it lies in T2, and the link serves none now (R318). -/
def State.farWaits (s : State) (a : Nat) : Bool := inside a 1 t2Base (t2End - t2Base) && !s.hostUp

/-- Copies a queue's TAIL into its flag line, when it asks for it and the flag page is in use: the whole 64-byte line
is written (R325). While the host link serves no T2 access the hub's own copy holds it (R318). -/
def State.flagUpdate (s : State) (d : QDesc) (tail : Nat) : State :=
  let fb := s.reg rFlagBase
  if d.flagen && bitOf fb.toNat 0 then
    let flags := (s.qm.flags.take (8 * d.flag)) ++ leBytes 8 tail ++ s.qm.flags.drop (8 * d.flag + 8)
    let line := d.flag / 8 * 64
    let bs := (flags.drop line).take 64
    let s := { s with qm := { s.qm with flags := flags } }
    if s.hostUp then s.poke (t2Base + fld fb.toNat 63 12 * 4096 + line) bs else s
  else s

/-- Appends one entry to a queue with room: the ring, TAIL and the flag (R325, R328). -/
def State.append (s : State) (q : Nat) (entry : List Byte) : State :=
  let d := s.desc q
  let tail := (d.tail + 1) % 2 ^ 32
  ((s.pokeBurst (d.entryAt d.tail) entry).setTail q tail).flagUpdate d tail

/-! ### Events (R334) -/

/-- The 64 bytes of an event entry with words QW0 to QW7. -/
def eventBytes (w0 w1 w2 w3 w4 w5 w6 w7 : Nat) : List Byte :=
  leBytes 8 w0 ++ leBytes 8 w1 ++ leBytes 8 w2 ++ leBytes 8 w3 ++ leBytes 8 w4 ++ leBytes 8 w5 ++ leBytes 8 w6 ++
  leBytes 8 w7

/-- The pending events of a queue. -/
def State.heldEvents (s : State) (q : Nat) : List (List Byte) :=
  match s.qm.held.find? (fun e => decide (e.1 = q)) with
  | some e => e.2
  | none => []

/-- Replaces the pending events of a queue. -/
def State.setHeld (s : State) (q : Nat) (l : List (List Byte)) : State :=
  let rest := s.qm.held.filter (fun e => decide (e.1 ≠ q))
  { s with qm := { s.qm with held := if l.isEmpty then rest else rest ++ [(q, l)] } }

/-- The channel of a T1 address. -/
def channelOf (a : Nat) : Nat := ((a - t1Base) / 256) % 96

/-- A correctable burst, counted: corrected in place; true for one that makes 256 on its channel within 2^24 aon cycles, so that the channel
is to retrain, and its count starts again (R386, log 16). -/
def State.countBurst (s : State) (a : Nat) : State × Bool :=
  let c := channelOf a
  let s := ({ s with upset := s.upset.put (fun _ => 0) a 0 } : State).count (hubReg 4 0x070) 1
  let times := (s.rst.chErrs.get (fun _ => []) c).filter (fun t => decide (s.aon.toNat ≤ t + 2 ^ 24)) ++ [s.aon.toNat]
  let full := decide (256 ≤ times.length)
  ({ s with rst := { s.rst with
    chErrs := s.rst.chErrs.put (fun _ => []) c (if full then [] else times),
    chRetrain := if full then withOne s.rst.chRetrain c else s.rst.chRetrain } }, full)

/-- Places an event entry in EVENT queue q: into the ring, or pending, or lost and counted (R334); it is pending too while the ring lies
beyond a link that serves no access (R318). -/
def State.putEvent (s : State) (q : Nat) (entry : List Byte) : State :=
    let d := s.desc q
    let held := s.heldEvents q
    if held.isEmpty && decide (SMap.get (fun _ => 0) s.qm.lost q = 0) && decide (0 < d.room) && !s.farWaits d.ring then s.append q entry
    else if held.length < 256 && decide (SMap.get (fun _ => 0) s.qm.lost q = 0) then s.setHeld q (held ++ [entry])
    else
      ({ s with qm := { s.qm with lost := s.qm.lost.upd (fun _ => 0) q (· + 1) } }).count (hubReg 5 0x118) 1

/-- The default event queue. -/
def State.evq (s : State) : Nat := wfld (s.reg rEvq) 19 0

/-- Writes an entry for an error that a descriptor's fetch has met. Its event goes to the default event queue, whose descriptor is taken as
it stands (log 80), unless that is the queue whose descriptor is lost. -/
def State.logFetch (s : State) (lost : Option Nat) (e : LogEntry) : State :=
  let u := s.writeLog e
  let d := u.desc u.evq
  if s.logFull || lost = some u.evq || !d.valid || d.cls ≠ 6 then u
  else u.putEvent u.evq (eventBytes (3 * 2 ^ 56) u.step.no u.aon.toNat s.log.next 0 0 0 0)

/-- A use of a queue's descriptor: a miss fetches it; false when the fetch meets an uncorrectable burst, which leaves it a miss (R326). -/
def State.fetchDesc (s : State) (q : Nat) : State × Bool :=
  if q ∈ s.qm.cache then (s.cacheUse q, true)
  else
    match s.upset.get (fun _ => 0) (s.descAt q) with
    | 0 => (s.cacheUse q, true)
    | 1 =>
      let y := s.countBurst (s.descAt q)
      let c := channelOf (s.descAt q)
      ((if y.2 then y.1.logFetch none ⟨0, 4, 2, 0, 0, 0, 0, 0, 0, 0, 0x400 + c / 4, 0, 0xF, c, 0, 0⟩ else y.1).cacheUse q, true)
    | _ => (s.count (hubReg 5 0x100) 1, false)

/-- A descriptor fetch that met an uncorrectable burst: an error of the queue manager, whose handling resets the device (R326, R462). -/
def State.fetchFailed (s : State) (q : Nat) : State :=
  s.logFetch (some q) ⟨0, 4, 1, 0, 0, 0, 0, 0, 0, 0, 0x705, 0, 0xF, s.descAt q, 0, 0⟩

/-- A use of a queue's descriptor. -/
def State.useQueue (s : State) (q : Nat) : State :=
  let y := s.fetchDesc q
  if y.2 then y.1 else y.1.fetchFailed q

/-- Hands an event entry to EVENT queue q (R334). An event for a queue that is no valid EVENT queue is dropped (log 15), and so is one
whose queue's descriptor is lost. -/
def State.postTo (s : State) (q : Nat) (entry : List Byte) : State :=
  let d := s.desc q
  if !d.valid || d.cls ≠ 6 then s
  else
    let y := s.fetchDesc q
    if y.2 then y.1.putEvent q entry else y.1.fetchFailed q

/-- Posts an event of a type: to the EVQ of the queue concerned, or to QM_EVQ.QID (R334). -/
def State.post (s : State) (evq : Option Nat) (type status tag queue d3 : Nat) : State :=
  let w0 := type * 2 ^ 56 + status * 2 ^ 48 + tag * 2 ^ 32 + queue
  s.postTo (match evq with | some q => q | none => s.evq)
    (eventBytes w0 s.step.no s.aon.toNat d3 0 0 0 0)

/-- Moves up to n pending events into a queue that has room again, then the count of lost ones (R334). -/
def State.drainHeld (s : State) (q : Nat) : Nat → State
  | 0 => s
  | n + 1 =>
    let d := s.desc q
    if !d.valid || d.cls ≠ 6 || d.room = 0 || s.farWaits d.ring then s
    else
      match s.heldEvents q with
      | e :: r => ((s.append q e).setHeld q r).drainHeld q n
      | [] =>
        let k := SMap.get (fun _ => 0) s.qm.lost q
        if k = 0 then s
        else
          let s := s.append q (eventBytes (6 * 2 ^ 56 + q) s.step.no s.aon.toNat k 0 0 0 0)
          { s with qm := { s.qm with lost := s.qm.lost.put (fun _ => 0) q 0 } }

/-! ### The error log (R370 to R374) -/

/-- Writes an entry, which posts an event of TYPE 0x03 (R370). -/
def State.logEntry (s : State) (e : LogEntry) : State :=
  if s.logFull then s.writeLog e else (s.writeLog e).post none 3 0 0 0 s.log.next

/-- An error entry that waits for its handling. -/
def State.logError (s : State) (cls cause unit ctx eng d5 d6 d7 : Nat) : State :=
  s.logEntry ⟨0, cls, cause, 0, 0, 0, 0, 0, 0, 0, unit, ctx, eng, d5, d6, d7⟩

/-! ### Steps and attempts (R251, R262) -/

/-- The decisions of R269 that commit their step: COMMIT and SKIP. -/
def Decision.advances : Decision → Bool
  | .commit => true
  | .skip => true
  | _ => false

/-- The step that the device is executing: S until its boundary, although STEP_NO advances at the commit point. -/
def State.curStep (s : State) : Nat :=
  match s.step.decision with
  | some (_, n, _) => n
  | none => s.step.no

/-- The step and attempt that a tile, or the hub (none), is in: a tile past its boundary is in the next one. -/
def State.pairAt (s : State) (t : Option Nat) : Nat × Nat :=
  match s.step.decision, t with
  | some (d, n, a), some t =>
    if (s.tile t).passed then (if Decision.advances d then (n + 1, 0) else (n, a + 1)) else (n, a)
  | some (_, n, a), none => (n, a)
  | none, _ => (s.step.no, s.step.att)

/-- A step's attempt cannot commit any more on this device: the device never becomes ready in it, and an abandonment or a discard ends
it (R251, R254). -/
def State.barCommit (s : State) (p : Nat × Nat) : State := { s with step := { s.step with barred := p :: s.step.barred.erase p } }

/-- An error entry whose outcome stands in the rule that meets it: done at once. -/
def State.noteError (s : State) (cls cause d5 : Nat) : State := s.logEntry ⟨0, cls, cause, 2, 0, 0, 0, 0, 0, 0, noUnit, 0, 0xF, d5, 0, 0⟩

/-- An ACCESS entry (R8, R373). -/
def State.accessError (s : State) (cause addr : Nat) : State := s.logError 1 cause noUnit 0 0xF addr 0 0

/-- A DEFERRAL entry, open (R374). -/
def State.openDeferral (s : State) (cause win defm unit d5 : Nat) : State :=
  s.logEntry ⟨0, 0xB, cause, 3, win, defm, 0, 0, 0, 0, unit, 0, 0xF, d5, 0, 0⟩

/-- The open DEFERRAL entry of a cause and object. -/
def State.findDeferral (s : State) (cause : Nat) (d5 : Option Nat) : Option LogEntry :=
  let hit := fun (e : LogEntry) => decide (e.cls = 0xB ∧ e.cause = cause ∧ e.state = 3) &&
    (match d5 with | some d => decide (e.d5 = d) | none => true)
  match s.log.slots.find? (fun x => match x.2 with | some e => hit e | none => false) with
  | some (_, some e) => some e
  | _ => none

/-- Changes the entry of a SEQ, if the log still holds it. -/
def State.updEntry (s : State) (seq : Nat) (f : LogEntry → LogEntry) : State :=
  match s.log.slots.get (fun _ => none) (seq % 64) with
  | some e =>
    if e.seq = seq then { s with log := { s.log with slots := s.log.slots.put (fun _ => none) (seq % 64) (some (f e)) } }
    else s
  | none => s

/-- The entry of a SEQ. -/
def State.entry (s : State) (seq : Nat) : Option LogEntry :=
  match s.log.slots.get (fun _ => none) (seq % 64) with
  | some e => if e.seq = seq then some e else none
  | none => none

/-- Ends an entry: done, with TEND the aon count (R371). -/
def State.endEntry (s : State) (seq : Nat) : State :=
  s.updEntry seq (fun e => { e with state := 2, tend := s.aon.toNat })

/-- Ends every open DEFERRAL of a cause. -/
def State.endDeferrals (s : State) (cause : Nat) : State :=
  { s with log := { s.log with slots := s.log.slots.map (fun e => (e.1, e.2.map (fun x =>
      if x.cls = 0xB ∧ x.cause = cause ∧ x.state = 3 then { x with state := 2, tend := s.aon.toNat } else x))) } }

/-- Ends the open DEFERRAL of a cause and object. -/
def State.closeDeferral (s : State) (cause : Nat) (d5 : Option Nat) : State :=
  match s.findDeferral cause d5 with
  | some e => s.endEntry e.seq
  | none => s

/-- Opens a DEFERRAL unless one of the cause and object is open. -/
def State.ensureDeferral (s : State) (cause win defm unit d5 : Nat) : State :=
  match s.findDeferral cause (some d5) with
  | some _ => s
  | none => s.openDeferral cause win defm unit d5

/-! ### The change log (R439, R440) -/

/-- Appends a change log entry; an entry overwritten before any read counts in MGT_CHGSTAT.LOST, which holds at all ones
(DESIGN CHOICE, log 128: the manual says so of the 64-bit counters of R58 and not of this field). -/
def State.change (s : State) (iface kind addr value : Nat) : State :=
  let i := s.chgNext % 1024
  let lost := match s.chg.get (fun _ => none) i with
    | some e => !e.read
    | none => false
  let s' := { s with
    chg := s.chg.put (fun _ => none) i (some ⟨s.chgNext, iface, kind, s.aon.toNat, addr, value, false⟩),
    chgNext := (s.chgNext + 1) % 2 ^ 32 }
  if lost then s'.setReg rChgStat (wset (s'.reg rChgStat) 31 0 (min ((s'.reg rChgStat).toNat % 2 ^ 32 + 1) (2 ^ 32 - 1)))
  else s'

/-! ### Tile memory with its check bits (R165) -/

/-- Where poison is kept for a T0 address: the granule in SRAM, the entry in the accumulator store. -/
def poisonKey (a : Nat) : Nat := if a % tileSpan < sramSize then a / 64 * 64 else a / 8 * 8

/-- TILE_ECC_LAST for the word at a T0 address (R182). -/
def eccWord (a : Nat) (unc : Bool) : Word :=
  let w := a % tileSpan
  let acc := decide (sramSize ≤ w)
  let n := if acc then (w - sramSize) / 8 else w / 8
  BitVec.ofNat 64 (2 ^ 31 + (if unc then 2 ^ 30 else 0) + (if acc then 2 ^ 29 else 0) + n * 8)

/-- Records an error of the word at a T0 address in TILE_ECC_LAST. -/
def State.eccNote (s : State) (a : Nat) (unc : Bool) : State := s.setReg (rEccLast (a / tileSpan)) (eccWord a unc)

/-- The check of one 8-byte word on a read: corrected and written back, or uncorrectable and poisoned (R165). -/
def State.checkWord (s : State) (a : Nat) : State × Bool :=
  if s.poison.get (fun _ => false) (poisonKey a) then (s.eccNote a true, false)
  else
    match s.upset.get (fun _ => 0) a with
    | 0 => (s, true)
    | 1 =>
      ((({ s with upset := s.upset.put (fun _ => 0) a 0 } : State).count (rCntCe (a / tileSpan)) 1).eccNote a false, true)
    | _ => (({ s with poison := s.poison.put (fun _ => false) (poisonKey a) true } : State).eccNote a true, false)

/-- The 8-byte words that a range touches. -/
def wordsOf (a n : Nat) : List Nat := if n = 0 then [] else (List.range ((a + n - 1) / 8 - a / 8 + 1)).map (fun i => 8 * (a / 8 + i))

/-- Checks the words of a list up to one that is uncorrectable: the reader stops there, and TILE_ECC_LAST names it (R165, R182). -/
def State.checkWords (s : State) : List Nat → State × Bool
  | [] => (s, true)
  | a :: r =>
    let x := s.checkWord a
    if x.2 then x.1.checkWords r else (x.1, false)

/-- A read of T0: the bytes, or none when a word is uncorrectable. -/
def State.readT0 (s : State) (a n : Nat) : State × Option (List Byte) :=
  let x := s.checkWords (wordsOf a n)
  (x.1, if x.2 then some (x.1.bytes a n) else none)

/-- Whether a read of T0 would meet an uncorrectable word. -/
def State.unreadable (s : State) (a n : Nat) : Bool :=
  (wordsOf a n).any (fun w => s.poison.get (fun _ => false) (poisonKey w) || decide (2 ≤ s.upset.get (fun _ => 0) w))

/-- The part of a write that falls in the 8-byte word (or 64-byte burst) of size k at w. -/
def partOf (a : Nat) (bs : List Byte) (w k : Nat) : Nat × List Byte :=
  let lo := max a w
  let hi := min (a + bs.length) (w + k)
  (lo, (bs.drop (lo - a)).take (hi - lo))

/-- Stores the part of a write that falls in one word: a partial write reads the word first (R165). -/
def State.writeWord (s : State) (a : Nat) (bs : List Byte) (w : Nat) : State × Bool :=
  let part := partOf a bs w 8
  if part.2.length = 8 then (({ s with upset := s.upset.put (fun _ => 0) w 0 } : State).poke part.1 part.2, true)
  else
    let x := s.checkWord w
    if x.2 then (x.1.poke part.1 part.2, true) else (x.1, false)

/-- Stores the parts of a write, word by word; false when one was discarded, which TILE_ECC_LAST then names (R165, R182). -/
def State.writeWords (s : State) (a : Nat) (bs : List Byte) : List Nat → State × Bool
  | [] => (s, true)
  | w :: r =>
    let x := s.writeWord a bs w
    let y := x.1.writeWords a bs r
    if x.2 then y else (y.1.eccNote w true, false)

/-- Clears the poison of every granule (or entry) that a write covers whole (R165). -/
def State.clearPoison (s : State) (a n : Nat) : State :=
  { s with poison := s.poison.filter (fun e =>
      !(inside e.1 (if e.1 % tileSpan < sramSize then 64 else 8) a n)) }

/-- A write into T0: false when some bytes were discarded for an uncorrectable word. Poison of a whole granule clears
before the words are stored, and any write of an accumulator entry clears its poison. -/
def State.writeT0 (s : State) (a : Nat) (bs : List Byte) : State × Bool :=
  (s.clearPoison a bs.length).writeWords a bs (wordsOf a bs.length)

/-- Zeroes a range of T0 without reading it: errors and poison of its words go. -/
def State.wipe (s : State) (a n : Nat) : State :=
  ({ s with upset := s.upset.filter (fun e => !inside e.1 1 a n), poison := s.poison.filter (fun e => !inside e.1 1 a n) } : State).poke a
    (List.replicate n 0)

/-! ### LPDDR5X with its inline code (R170, R171) -/

/-- A correctable burst; the handling of the DMEM 0x02 entry that the 256th makes retrains its channel (R386, log 16). -/
def State.correctBurst (s : State) (a : Nat) : State :=
  let y := s.countBurst a
  if y.2 then y.1.logError 4 2 (0x400 + channelOf a / 4) 0 0xF (channelOf a) 0 0 else y.1

/-- The check of one 64-byte burst on a read; false when it is uncorrectable. -/
def State.checkBurst (s : State) (a : Nat) : State × Bool :=
  match s.upset.get (fun _ => 0) a with
  | 0 => (s, true)
  | 1 => (s.correctBurst a, true)
  | _ => (s, false)

/-- The 64-byte bursts that a range touches. -/
def burstsOf (a n : Nat) : List Nat := if n = 0 then [] else (List.range ((a + n - 1) / 64 - a / 64 + 1)).map (fun i => 64 * (a / 64 + i))

/-- Checks every burst of a list. -/
def State.checkBursts (s : State) : List Nat → State × Bool
  | [] => (s, true)
  | a :: r =>
    let x := s.checkBurst a
    let y := x.1.checkBursts r
    (y.1, x.2 && y.2)

/-- A read of T1: the bytes, or none when a burst is uncorrectable. -/
def State.readT1 (s : State) (a n : Nat) : State × Option (List Byte) :=
  let x := s.checkBursts (burstsOf a n)
  (x.1, if x.2 then some (x.1.bytes a n) else none)

/-- Stores the part of a write that falls in one burst: a partial write reads it first (R171). -/
def State.writeBurst (s : State) (a : Nat) (bs : List Byte) (w : Nat) : State × Bool :=
  let part := partOf a bs w 64
  if part.2.length = 64 then (({ s with upset := s.upset.put (fun _ => 0) w 0 } : State).poke part.1 part.2, true)
  else
    let x := s.checkBurst w
    if x.2 then (x.1.poke part.1 part.2, true) else (x.1, false)

/-- Stores the parts of a write, burst by burst. -/
def State.writeBursts (s : State) (a : Nat) (bs : List Byte) : List Nat → State × Bool
  | [] => (s, true)
  | w :: r =>
    let x := s.writeBurst a bs w
    let y := x.1.writeBursts a bs r
    (y.1, x.2 && y.2)

/-- A write into T1. -/
def State.writeT1 (s : State) (a : Nat) (bs : List Byte) : State × Bool := s.writeBursts a bs (burstsOf a bs.length)

/-! ### Memory of any tier -/

/-- The tiers of R157. -/
inductive Tier where
  | t0
  | t1
  | t2
  | t3
  | none
  deriving DecidableEq, Repr

/-- The tier of an address; register blocks and unmapped addresses have none. -/
def tierOf (a : Nat) : Tier :=
  if a < t0End then .t0
  else if t1Base ≤ a ∧ a < t1End then .t1
  else if t2Base ≤ a ∧ a < t2End then .t2
  else if t3Base ≤ a ∧ a < t3End then .t3
  else .none

/-- A read beyond the device, in T2 or T3: whether it fails is not the device's to say, and is a free value (R324, R462, log 142). -/
def State.farRead (s : State) (a n : Nat) : State × Option (List Byte) :=
  ({ s with freeCtr := s.freeCtr + 1 }, if Config.farFails s.freeCtr a then none else some (s.bytes a n))

/-- A read of any tier, with the checks of T0 and T1. An address that R159 leaves unmapped reads as plain memory for every requester but DMA,
whose table rejects it (DESIGN CHOICE, log 153). -/
def State.readMem (s : State) (a n : Nat) : State × Option (List Byte) :=
  match tierOf a with
  | .t0 => s.readT0 a n
  | .t1 => s.readT1 a n
  | .none => (s, some (s.bytes a n))
  | _ => s.farRead a n

/-- A write into any tier; into an unmapped address as `readMem` (log 153). -/
def State.writeMem (s : State) (a : Nat) (bs : List Byte) : State × Bool :=
  match tierOf a with
  | .t0 => s.writeT0 a bs
  | .t1 => s.writeT1 a bs
  | _ => (s.poke a bs, true)

/-- The class of the error of a read that failed: DMEM in T1, HOST beyond the device (R373, R462). -/
def farClass (a : Nat) : Nat := if tierOf a = .t1 then 4 else 6

/-- A TMEM entry for an uncorrectable error of a tile's memory (R373): the detail is TILE_ECC_LAST. -/
def State.tmemError (s : State) (cause tile ctx eng : Nat) : State :=
  s.logError 3 cause tile ctx eng (s.reg (rEccLast tile)).toNat 0 0

/-- A DMEM entry for an uncorrectable burst. -/
def State.dmemError (s : State) (unit ctx eng addr : Nat) : State := s.logError 4 1 unit ctx eng addr 0 0

/-- The error entry of an access that met an uncorrectable word or burst, or that the host link failed. -/
def State.memError (s : State) (unit ctx eng a : Nat) : State :=
  match tierOf a with
  | .t0 => s.logError 3 1 (a / tileSpan) ctx eng (s.reg (rEccLast (a / tileSpan))).toNat 0 0
  | .t1 => s.dmemError unit ctx eng a
  | _ => s.logError 6 1 unit ctx eng a 0 0

/-- Reads several ranges in turn, up to one that meets an error: its address. -/
def State.checkReads (s : State) : List (Nat × Nat) → State × Option Nat
  | [] => (s, none)
  | r :: rest =>
    let y := s.readMem r.1 r.2
    match y.2 with
    | none => (y.1, some r.1)
    | some _ => y.1.checkReads rest

/-- An error that a home tile's read of a row, of what finds it, or of an accumulator meets: its step does not commit (R216). -/
def State.rowError (s : State) (h a : Nat) : State := (s.barCommit (s.pairAt (some h))).memError h 0 4 a

/-- A write of the hub or of a home tile; one that meets an uncorrectable word or burst is an error of the unit. -/
def State.storeMem (s : State) (unit a : Nat) (bs : List Byte) : State :=
  let y := s.writeMem a bs
  if y.2 then y.1
  else if tierOf a = .t0 then y.1.tmemError 4 unit 0 4
  else y.1.dmemError unit 0 4 a

/-- Whether an access of an engine has to wait: for the host link beyond T1 (R318), and in base camp mode for T1 and T3 (R445). -/
def State.memWaits (s : State) (a : Nat) : Bool :=
  (decide (tierOf a = .t2 ∨ tierOf a = .t3) && !s.hostUp) || (s.mgmt.base && decide (tierOf a = .t1 ∨ tierOf a = .t3))

/-! ### Context faults (R153, R154) -/

/-- Removes a context's commands that are queued and not accepted. -/
def Tile.dropQueued (x : Tile) (c : CtxId) : Tile :=
  { x with queues := x.queues.map (fun q => q.filter (fun k => decide (k.ctx ≠ c))) }

/-- TILE_CFLT_Cn (R154). -/
def cfltWord (addr cause detail eng op : Nat) : Word :=
  BitVec.ofNat 64 (addr % 2 ^ 24 * 2 ^ 40 + cause % 256 * 2 ^ 24 + detail % 256 * 2 ^ 16 + eng % 16 * 2 ^ 12 +
    op % 256 * 2 ^ 4 + 1)

/-- Releases the version pins of a context (R212). -/
def State.dropPins (s : State) (l : Loc) : State :=
  { s with vpins := s.vpins.filter (fun e => decide (¬ (e.1 = l.tile.val ∧ e.2.1 = l.ctx.val))) }

/-- A context faults: it stops, loses its queued commands and its version pins, TILE_CFLT_Cn records the first fault,
and the error log an entry (R153). `eng` is 0xE for the control core. -/
def State.ctxFault (s : State) (l : Loc) (cause detail eng op addr : Nat) : State :=
  let s := s.updTile l.tile (fun x =>
    (x.dropQueued l.ctx).setCtx l.ctx { x.ctxs[l.ctx] with mode := .faulted, wait := .none, clist := none })
  let a := rCflt l.tile l.ctx
  let s := if bitOf (s.reg a).toNat 0 then s
    else s.setReg a (cfltWord addr cause detail (if 5 ≤ cause ∧ cause ≤ 8 then eng else 0) op)
  (s.dropPins l).logError 2 cause l.tile l.ctx eng (s.reg a).toNat 0 0

/-- An uncorrectable SRAM error of a context's own access: it enters HELD (R155) and the error is logged. -/
def State.ctxMemError (s : State) (l : Loc) (cause : Nat) : State :=
  (s.updCtx l (fun c => { c with mode := .held, wait := .none })).tmemError cause l.tile l.ctx 0xE

end Sys2Proof.Machine
end

