-- ==== Sys2Proof/Machine/Flags.lean ====
section
/-! DEFINITION. The conditions of scalar compares (R134), and the raising of sticky flags and arithmetic counters by
engines (R56 to R58). -/
namespace Sys2Proof.Machine

/-- COND on two 64-bit values under KIND U (0), S (1) or F (2) (R134). Codes 6 and 7 exist under F alone. -/
def condHolds (kind cond : Nat) (a b : Word) : Bool :=
  match kind with
  | 2 => condVal cond (decodeFmt .fp64 a.toNat) (decodeFmt .fp64 b.toNat)
  | _ =>
    let x : Int := if kind = 1 then a.toInt else a.toNat
    let y : Int := if kind = 1 then b.toInt else b.toNat
    match cond with
    | 0 => decide (x = y)
    | 1 => decide (x ≠ y)
    | 2 => decide (x < y)
    | 3 => decide (x ≤ y)
    | 4 => decide (x > y)
    | 5 => decide (x ≥ y)
    | _ => false

/-- Whether a KIND and COND pair is allowed; `float` says that the instruction takes KIND F (R134). -/
def condLegal (float : Bool) (kind cond : Nat) : Bool :=
  match kind with
  | 0 => decide (cond ≤ 5)
  | 1 => decide (cond ≤ 5)
  | 2 => float
  | _ => false

/-- How many of the element results raised a flag. -/
def raised (fs : List AFlags) (f : AFlags → Bool) : Nat := (fs.filter f).length

/-- Raises the flags of element results: sticky in the issuing context's TILE_AFLAG_Cn, and one count each in the
tile's arithmetic counters; NX has none (R56, R57, R58). -/
def State.raiseFlags (s : State) (l : Loc) (fs : List AFlags) : State :=
  let all := (fs.foldl AFlags.or .none).bits
  let a := rAflag l.tile l.ctx
  let s := s.setReg a (s.reg a ||| BitVec.ofNat 64 all)
  let s := s.count (tileReg l.tile 0 0x060) (raised fs (·.inv))
  let s := s.count (tileReg l.tile 0 0x068) (raised fs (·.dz))
  let s := s.count (tileReg l.tile 0 0x070) (raised fs (·.ovf))
  s.count (tileReg l.tile 0 0x078) (raised fs (·.unf))

end Sys2Proof.Machine
end

