-- ==== Sys2Proof/Machine/Levels.lean ====
section
/-! DEFINITION. Power levels: what a tile requests (R146, R349), the budgets of R348, and the level admitted. Currents
are in units of 1/16 mA. -/
namespace Sys2Proof.Machine

/-- Clock codes of SLU_CTRL.FCLK in units of 0.6 GHz (R365). -/
def State.fclkUnits (s : State) : Nat :=
  let f := (s.reg rSluCtrl).toNat % 4 + 1
  if (s.mgmt.base || s.job.baseRun) && decide (2 < f) then 2 else f

/-- The budget of a level at 2.4 GHz, in mA (R348). -/
def levelBudget : Nat → Nat
  | 0 => 0 | 1 => 6 | 2 => 19 | 3 => 39 | 4 => 59 | _ => 100

/-- The budget of a level at the present fast clock: ⌈budget × f / 2.4 GHz⌉ mA (R348). -/
def State.tileBudget (s : State) (lvl : Nat) : Nat := 16 * ceilDiv (levelBudget lvl * s.fclkUnits) 4

/-- The budget that a consumer holds now. -/
def State.budget (s : State) (c : Nat) : Nat := s.sluice.budget.get (fun _ => 0) c

/-- TILE_WAKE.ADMIT: the highest level whose budget does not exceed B (R351). -/
def State.admitted (s : State) (t : Nat) : Nat :=
  ([1, 2, 3, 4, 5].filter (fun l => decide (s.tileBudget l ≤ s.budget t))).foldl max 0

/-- The least level that an engine's command needs (R146): the quad 3, the vector and row engines 2, the others a
running clock. -/
def engineNeed : Nat → Nat
  | 0 => 3 | 1 => 2 | 2 => 2 | _ => 1

/-- TILE_WAKE.REQ: the highest level requested by a context or needed by a command accepted or at a queue's head
(R146), at least 1 while a context is ready or a command waits (R349), and 0 otherwise. -/
def State.requested (s : State) (t : Nat) : Nat :=
  let x := s.tile t
  let live := x.ctxs.toList.filter (fun c => decide (c.mode = .run ∨ c.mode = .wait ∨ c.mode = .held))
  let lv := (live.map (fun c => c.level.toNat)).foldl max 0
  let need := ([0, 1, 2, 3, 4, 5].map (fun e =>
    if (x.queues.toList.getD e []).isEmpty && (x.active.toList.getD e []).isEmpty then 0 else engineNeed e)).foldl max 0
  let ready := if x.ctxs.toList.any (fun c => decide (c.mode = .run)) then 1 else 0
  max lv (max need ready)

/-- Whether the hub has power: in the hold region only until the taper has ended, since then just the always-on domain and the memory's
self-refresh stay powered (R346). -/
def State.hubUp (s : State) : Bool :=
  match s.power.stage with
  | .good => true
  | .hold => !(s.sluice.up.isEmpty && s.sluice.down.isEmpty && s.sluice.budget.isEmpty)
  | .clamped => !(s.sluice.up.isEmpty && s.sluice.down.isEmpty && s.sluice.budget.isEmpty)
  | .off => false
  | .inrush => false
  | .opened => false

/-- Whether an access by an interface (1 host, 2 management bus) is served: the hub has power and runs its firmware (in ROM recovery it answers
only MCTP control and PLDM firmware update), and the host's traffic waits while its link is insecure (R341, R346, R429). -/
def State.serves (s : State) (iface : Nat) : Bool :=
  s.hubUp && decide (s.sec.boot = .running) && (decide (iface ≠ 1) || decide (s.host.ide ≠ 2))

/-- The codes of R367: the effective duty ceiling is the lower of the capped and the thermal duty (R355). -/
def State.duty (s : State) : Nat := min s.sluice.capDuty s.sluice.thDuty

/-- The level that a duty code allows at most (R354, R355): 100 % 5, 50 % 4, 25 % 3, 0 % 2. -/
def dutyLevel (d : Nat) : Nat := d + 2

/-- A tile's target level: its request under the duty ceiling (R355), at most 1 while a die is at 105 °C or more
(R356), and 0 while a feed failure, a trip or a device reset tapers everything, or the tile is not enabled (R15). -/
def State.targetLevel (s : State) (t : Nat) : Nat :=
  let r := min (s.requested t) (dutyLevel s.duty)
  let r := if s.sluice.tripped.isEmpty then r else min r 1
  if s.power.feedFail || s.power.ttrip || !s.sec.tilesOn || decide (s.rst.phase ≠ .none ∧ s.rst.phase ≠ .recovering ∧ s.rst.phase ≠ .rejoining) then 0 else r

/-- The level that a tile runs at: a raise runs at the budget that it holds, a lowering at once at its target (R350). -/
def State.runLevel (s : State) (t : Nat) : Nat :=
  ([1, 2, 3, 4, 5].filter (fun l => decide (s.tileBudget l ≤ min (s.budget t) (s.sluice.target.get (fun _ => 0) t)))).foldl max 0

/-- Whether a tile's fast clock runs (R349, R359). -/
def State.clockRuns (s : State) (t : Nat) : Bool := decide (1 ≤ s.runLevel t)

end Sys2Proof.Machine
end

