-- ==== Sys2Proof/Machine/Operands.lean ====
section
/-! DEFINITION. The operand forms: immediates and guards of scalar instructions (R127, R128), and the header fields of
engine commands (R135). -/
namespace Sys2Proof.Machine

/-- sext(IMM12) as a 64-bit value. -/
def sext12 (i : BitVec 12) : Word := i.signExtend 64

/-- An instruction executes when p[GP] XOR GN is 1 (R127). -/
def Ctx.passes (c : Ctx) (g : Guard) : Bool := c.rp g.gp != g.gn

/-- The PC after a transfer to a byte address: 24 bits; a target beyond them becomes the last word of that range, where
the fetch faults as any beyond 6 MiB does (R124, R154, log 17). -/
def pcOf (a : Word) : BitVec 24 := if a.toNat < 2 ^ 24 then BitVec.ofNat 24 a.toNat else 0xFFFFFC

/-- PC + 4. -/
def Ctx.next (c : Ctx) : Ctx := { c with pc := pcOf (c.pc.zeroExtend 64 + 4) }

/-- ENG of a command's header. -/
def cmdEng (w : BitVec 128) : Nat := fld w.toNat 31 28

/-- OP. -/
def cmdOp (w : BitVec 128) : Nat := fld w.toNat 27 20

/-- TOK. -/
def cmdTok (w : BitVec 128) : Fin 32 := ⟨fld w.toNat 17 13, by unfold fld; exact Nat.mod_lt _ (by decide)⟩

/-- NT: no token increment. -/
def cmdNt (w : BitVec 128) : Bool := bitOf w.toNat 12

/-- FEN: fenced. -/
def cmdFen (w : BitVec 128) : Bool := bitOf w.toNat 11

/-- CMT: commit-gated. -/
def cmdCmt (w : BitVec 128) : Bool := bitOf w.toNat 10

/-- A field of a command's upper words. -/
def cmdFld (w : BitVec 128) (hi lo : Nat) : Nat := fld w.toNat hi lo

/-- The header with CTX replaced at issue (R135). -/
def withCtx (w : BitVec 128) (c : CtxId) : BitVec 128 := BitVec.ofNat 128 (setFld w.toNat 19 18 c.val)

/-- The engine numbers 0 to 5 as an index (R136). -/
def engOf (n : Nat) : Option (Fin 6) := if h : n < 6 then some ⟨n, h⟩ else none

end Sys2Proof.Machine
end

