-- ==== Sys2Proof/Machine/Control.lean ====
section
/-! DEFINITION. Shared operations of the control core: the issue slot, faults of instructions, the entry of commands
into engine queues, token and semaphore waits (06_tile_instruction_set.md). -/
namespace Sys2Proof.Machine

/-- Whether a context can take an issue slot: it is in RUN, walks no command list, the tile's clock runs, and the core has not been
stopped by a hang (R20, R137, R349, R382). -/
def State.canIssue (s : State) (l : Loc) : Bool :=
  decide ((s.ctx l).mode = .run ∧ 6 ∉ (s.tile l.tile).engStop) && (s.ctx l).clist.isNone && s.clockRuns l.tile

/-- The context took an issue turn with a scalar instruction: TILE_CNT_INSN, and the round-robin order (R20, R156). -/
def State.issued (s : State) (l : Loc) : State :=
  (s.count (rCntInsn l.tile) 1).updTile l.tile (fun x => { x with rr := l.ctx })

/-- The context goes on to the next instruction. -/
def State.advance (s : State) (l : Loc) : State := s.updCtx l Ctx.next

/-- The address of the context's next instruction. -/
def State.pcAt (s : State) (l : Loc) : Nat := (s.ctx l).pc.toNat

/-- A fault of the instruction at the PC (R153, R154). -/
def State.insnFault (s : State) (l : Loc) (cause : Nat) : State := s.ctxFault l cause 0 0xE 0 (s.pcAt l)

/-- An instruction in its issue slot: illegal faults with cause 0x01 even when its guard is false; a false guard takes
the slot and does nothing; otherwise it acts (R127, R128). A context that cannot issue does nothing (log 18). -/
def State.slotRaw (s : State) (l : Loc) (g : Guard) (legal : Bool) (act : State → State) : State :=
  if !s.canIssue l then s
  else if !legal then (s.issued l).insnFault l 1
  else if (s.ctx l).passes g then act s
  else (s.issued l).advance l

/-- An instruction that always issues in its slot. -/
def State.slot (s : State) (l : Loc) (g : Guard) (legal : Bool) (act : State → State) : State :=
  s.slotRaw l g legal (fun s => act (s.issued l))

/-- An instruction whose only effect is on its own context, followed by the next instruction. -/
def State.slotCtx (s : State) (l : Loc) (g : Guard) (legal : Bool) (f : Ctx → Ctx) : State :=
  s.slot l g legal (fun s => (s.updCtx l f).advance l)

/-- The suspect that a hang search replays on the tile now (R383). -/
def Tile.replayed (x : Tile) : Option CtxId := x.search.bind (fun k => k.todo.head?)

/-- Whether the context runs as a replay. -/
def State.replaying (s : State) (l : Loc) : Bool := decide ((s.tile l.tile).replayed = some l.ctx)

/-- The next recorded outcome of the replay. -/
def State.nextFeed (s : State) (l : Loc) : Option Recorded := ((s.tile l.tile).search.bind (fun k => k.feed.head?))

/-- Takes the next recorded outcome. -/
def State.takeFeed (s : State) (l : Loc) : State :=
  s.updTile l.tile (fun x => { x with search := x.search.map (fun k => { k with feed := k.feed.tail }) })

/-! ### Commands into queues (R135 to R138) -/

/-- The length of an engine queue (R138). -/
def queueDepth : Nat := 8

/-- The queue of an engine. -/
def Tile.queue (x : Tile) (e : Fin 6) : List EngCmd := x.queues[e]

/-- Replaces the queue of an engine. -/
def Tile.setQueue (x : Tile) (e : Fin 6) (q : List EngCmd) : Tile := { x with queues := x.queues.set e q }

/-- The accepted commands of an engine. -/
def Tile.act (x : Tile) (e : Fin 6) : List Active := x.active[e]

/-- Replaces the accepted commands of an engine. -/
def Tile.setAct (x : Tile) (e : Fin 6) (q : List Active) : Tile := { x with active := x.active.set e q }

/-- What became of an issue: the command entered its queue, the queue was full, or the context faulted. -/
inductive Issued where
  | entered
  | full
  | faulted
  deriving DecidableEq, Repr

/-- A command enters its engine's queue: CTX replaced, the register operands read, counted in TILE_CNT_CMDI (R135, R137, R156). -/
def State.enqueue (s : State) (l : Loc) (w : BitVec 128) (addr : Nat) (e : Fin 6) : State :=
  let c := s.ctx l
  let s := s.count (rCntCmdi l.tile) 1
  s.updTile l.tile (fun x =>
    let k : EngCmd := ⟨withCtx w l.ctx, l.ctx, addr, x.serial + 1, #v[c.g[28], c.g[29], c.g[30], c.g[31]], c.s, c.tag, c.epoch⟩
    { x.setQueue e (x.queue e ++ [k]) with serial := x.serial + 1 })

/-- Issues a command: a reserved ENG code or a nonzero bit in [9:0] faults and enters no queue; a full queue makes the
issue not ready (R136, R137). -/
def State.issueCmd (s : State) (l : Loc) (w : BitVec 128) (addr : Nat) : State × Issued :=
  match engOf (cmdEng w) with
  | none => (s.ctxFault l 6 0 (cmdEng w) (cmdOp w) addr, .faulted)
  | some e =>
    if fld w.toNat 9 0 ≠ 0 then (s.ctxFault l 7 0 (cmdEng w) (cmdOp w) addr, .faulted)
    else if queueDepth ≤ ((s.tile l.tile).queue e).length then (s, .full)
    else (s.enqueue l w addr e, .entered)

/-- The engine that a command names, for the wait that shows it. -/
def engIdx (w : BitVec 128) : Fin 6 := (engOf (cmdEng w)).getD 0

/-- The context waits for room in an engine queue: WAIT code 4, and one issue turn lost (R137, R156). -/
def State.waitFull (s : State) (l : Loc) (w : BitVec 128) (retry : Instr) : State :=
  (s.count (rCntQfull l.tile) 1).updCtx l (fun c => { c with mode := .wait, wait := .queueFull (engIdx w) retry })

/-- An instruction that issues a command: the slot counts when the command enters or the context faults; a full queue
makes the context wait and issue again (R137). -/
def State.slotIssue (s : State) (l : Loc) (retry : Instr) (w : BitVec 128) (done : State → State) : State :=
  match s.issueCmd l w (s.pcAt l) with
  | (s', .entered) => done (s'.issued l)
  | (s', .faulted) => s'.issued l
  | (s', .full) => s'.waitFull l w retry

/-! ### Waits (R141, R144, R148) -/

/-- The context waits; its PC is that of the next instruction (R126). -/
def State.waitOn (s : State) (l : Loc) (w : Wait) : State := s.updCtx l (fun c => { c.next with mode := .wait, wait := w })

/-- A satisfied wait: the context is ready, and its control-core progress counter advances (R148). -/
def Ctx.woken (c : Ctx) : Ctx := ({ c with mode := .run, wait := .none } : Ctx).progress 0

/-- semN ≥ amount, then semN − amount (R144). -/
def Ctx.takeSem (c : Ctx) (n : Fin 8) (amount : Nat) : Option Ctx :=
  if amount ≤ c.sem[n].toNat then some (c.wsem n (c.sem[n] - BitVec.ofNat 32 amount)) else none

end Sys2Proof.Machine
end

