-- ==== Sys2Proof/Machine/Image.lean ====
section
/-! DEFINITION. What the loaded job image says about tiles and ranges: step sets, program sections, committed ranges,
reduction buffers (R21, R143, R247 to R249). -/
namespace Sys2Proof.Machine

/-- The program section of a tile. -/
def State.sectionOf (s : State) (t : Nat) : Option TileSection :=
  match s.job.img with
  | some i => i.sections.find? (fun x => decide (x.tile = t))
  | none => none

/-- The step set of a tile (R149); none without a section. -/
def State.stepSet (s : State) (t : Nat) : List Nat :=
  match s.sectionOf t with
  | some x => x.stepSet
  | none => []

/-- The tiles that have a step set. -/
def State.stepTiles (s : State) : List Nat :=
  match s.job.img with
  | some i => (i.sections.filter (fun x => !x.stepSet.isEmpty)).map (·.tile)
  | none => []

/-- A reduction buffer descriptor (R248). -/
structure BufDesc where
  mode : Nat
  kind : Nat
  norm : Bool
  lsbe : Int
  tile : Nat
  nelem : Nat
  store : Nat
  out : Nat
  rrec : Nat
  deriving DecidableEq, Repr

/-- The fields of a descriptor's words. STORE, OUT and RREC as byte offsets. -/
def BufDesc.ofWords (w : List Nat) : BufDesc :=
  let q0 := w.getD 0 0
  let q1 := w.getD 1 0
  let q2 := w.getD 2 0
  { mode := fld q0 63 63, kind := fld q0 62 61, norm := bitOf q0 60, lsbe := toSigned 16 (fld q0 59 44),
    tile := fld q0 43 34, nelem := fld q1 63 44, store := 64 * fld q1 43 27, out := 64 * fld q1 26 10,
    rrec := 64 * fld q2 63 47 }

/-- The buffers of the job, in number order. -/
def State.buffers (s : State) : List BufDesc :=
  match s.job.img with
  | some i => i.buffers.map BufDesc.ofWords
  | none => []

/-- Buffer n. -/
def State.bufDesc (s : State) (n : Nat) : Option BufDesc := (s.buffers)[n]?

/-- The state of buffer n in the step. -/
def State.buf (s : State) (n : Nat) : BufState := s.bufs.get (fun _ => .fresh) n

/-- Changes the state of buffer n. -/
def State.updBuf (s : State) (n : Nat) (f : BufState → BufState) : State :=
  { s with bufs := s.bufs.upd (fun _ => .fresh) n f }

/-- Whether a range of a tile's SRAM offsets touches a buffer's storage (R249). -/
def State.inStorage (s : State) (t off n : Nat) : Bool :=
  s.buffers.any (fun b => decide (b.tile = t) && overlaps off n b.store (16 * b.nelem))

/-- Whether a range of SRAM offsets may be accessed by engines and scalar code: below 6 MiB, and no buffer's storage,
which counts as beyond (R249). -/
def State.sramOk (s : State) (t off n : Nat) : Bool := decide (off + n ≤ sramSize) && !s.inStorage t off n

/-- Whether a range of device addresses reaches a declared step output (R25, R266). -/
def State.outputAt (s : State) (a n : Nat) : Bool :=
  match s.job.img with
  | some i => i.outputs.any (fun r => overlaps a n r.1 r.2)
  | none => false

/-- Whether a range of window offsets holds committed state, the declared step outputs among it (R143, R266). -/
def State.committedTile (s : State) (t off n : Nat) : Bool :=
  (match s.sectionOf t with
    | some x => x.committed.any (fun r => overlaps off n r.1 r.2)
    | none => false) || s.outputAt (sram t off) n

/-- Whether a range of device addresses holds committed state, the declared step outputs among it (R143, R266). -/
def State.committedAt (s : State) (a n : Nat) : Bool :=
  if a < t0End then s.committedTile (a / tileSpan) (a % tileSpan) n
  else (match s.job.img with
    | some i => i.committedMem.any (fun r => overlaps a n r.1 r.2)
    | none => false) || s.outputAt a n

/-- Whether a range of SRAM offsets lies in the bytes that the tile's section loads (R373). -/
def State.programAt (s : State) (t off n : Nat) : Bool :=
  match s.sectionOf t with
  | some x => x.chunks.any (fun c => overlaps off n c.1 c.2.length)
  | none => false

/-- Whether a range of SRAM offsets lies in a save record of a context (R150). -/
def State.saveAt (s : State) (t off n : Nat) : Bool :=
  allCtxs.any (fun c => overlaps off n (1024 * wfld (s.reg (rCsave t c)) 12 0) 1024)

/-- Whether step n learns (R214). -/
def State.learning (s : State) (n : Nat) : Bool :=
  match s.job.img.bind (·.phase) with
  | some (g, l) => decide (g ≤ n % (g + l))
  | none => true

/-- Whether step n runs the other phase than a step-set context's (R214): the image names it for that phase alone, and one that it names
for both, or for neither, serves both (log 136). -/
def State.offPhase (s : State) (l : Loc) (n : Nat) : Bool :=
  match s.job.img.bind (·.phase), s.sectionOf l.tile with
  | some _, some x =>
    let c := l.ctx.val
    let serves := if s.learning n then x.learnCtxs else x.genCtxs
    let other := if s.learning n then x.genCtxs else x.learnCtxs
    decide (c ∈ x.stepSet ∧ c ∉ serves ∧ c ∈ other)
  | _, _ => false

/-- A context that step n does not run waits at the decision, as arrived (R214). -/
def State.sitOut (s : State) (l : Loc) (n : Nat) : State :=
  if s.offPhase l n then
    s.updCtx l (fun c => { c with mode := .wait, wait := .decision 0, step := .arrived, arrSerial := (s.tile l.tile).serial })
  else s

/-- The keys of a command's draws: the job seed and the tile's step number (R53). -/
def State.keys (s : State) (t lane base : Nat) : SrKeys := ⟨s.job.seed, (s.reg (rTileStep t)).toNat, lane, base⟩

/-- This device's ID (R314). -/
def State.devId (s : State) : Nat := wfld (s.reg rDevId) 11 0

end Sys2Proof.Machine
end

