-- ==== Sys2Proof/Machine/Engine.lean ====
section
/-! DEFINITION. What the engines share: the gates at the head of a queue (R138, R142, R143, R146), rejection (R153),
acceptance, and completion (R140). -/
namespace Sys2Proof.Machine

/-- Whether the gates let the command at a queue's head go: it waits, it is removed without work with its token
incremented, or it runs. -/
inductive Gate where
  | shut
  | drop
  | run
  deriving DecidableEq, Repr

/-- Whether any engine of the device accepts commands: not during a feed failure, a trip, or a device reset before it
recovers its step (R273, R356, R357, R387). -/
def State.enginesRun (s : State) : Bool :=
  !s.power.feedFail && !s.power.ttrip && s.rst.trigger.isNone &&
  decide (s.rst.phase = .none ∨ s.rst.phase = .recovering ∨ s.rst.phase = .rejoining)

/-- Whether writes stop: between a feed failure, a trip or the trigger of a device reset and the reset of the domains (R32, R356, R357,
R387). -/
def State.writesStop (s : State) : Bool :=
  s.power.taper || s.rst.trigger.isSome || decide (s.rst.phase = .dump ∨ s.rst.phase = .hold ∨ s.rst.phase = .failed)

/-- Whether a context has a command issued before serial n that has not completed, on any engine (R142). -/
def Tile.earlier (x : Tile) (c : CtxId) (n : Nat) : Bool :=
  x.queues.toList.any (fun q => q.any (fun k => decide (k.ctx = c ∧ k.serial < n))) ||
  x.active.toList.any (fun q => q.any (fun a => decide (a.cmd.ctx = c ∧ a.cmd.serial < n)))

/-- Whether the tile's present decision is the one that a gated command waits for: a command that its context issued after
its `done` or rewind belongs to the next step or attempt (R149). -/
def State.ownDecision (s : State) (t : TileId) (k : EngCmd) : Bool :=
  decide (k.ctx.val ∉ s.stepSet t ∨ k.epoch ≤ (s.tile t).bounds)

/-- The gates of a command at its queue's head. A command of the next step waits until its tile has passed its boundary, with its
buffers clear and its shadow written (R256, R402; log 135). While the device has stopped its attempt no engine accepts anything until
its tile's boundary (R375). In a hang search the engines take the replayed context's commands
alone, and its commit-gated ones are removed (R383). -/
def State.gate (s : State) (t : TileId) (e : Fin 6) (k : EngCmd) : Gate :=
  let x := s.tile t
  let replay := x.replayed
  if !s.enginesRun || !s.ownDecision t k || (s.step.stopped && !x.passed) || decide (e.val ∈ x.engStop) || (x.search.isSome && decide (replay ≠ some k.ctx)) then .shut
  else
    let gated : Gate :=
      if cmdCmt k.word then
        match x.search, x.decision with
        | some _, _ => .drop
        | none, some .commit => .run
        | none, some .skip => .drop
        | none, some .discard => .drop
        | none, _ => .shut
      else .run
    match gated with
    | .run =>
      if s.runLevel t < engineNeed e.val then .shut
      else if cmdFen k.word && x.earlier k.ctx k.serial then .shut
      else .run
    | g => g

/-- Removes the head of a queue. -/
def State.popHead (s : State) (t : TileId) (e : Fin 6) : State :=
  s.updTile t (fun x => x.setQueue e (x.queue e).tail)

/-- The progress counter of an engine for a context advances (R379). -/
def State.engProgress (s : State) (l : Loc) (e : Fin 6) : State :=
  s.updCtx l (fun c => c.progress ⟨e.val + 1, Nat.succ_lt_succ e.isLt⟩)

/-- Its data then has advanced the counter too, once in every 1,024 fast cycles in which it moved (R379, log 147). -/
def State.dataProgress (s : State) (l : Loc) (e : Fin 6) (moved : Nat) : State :=
  s.updCtx l (fun c =>
    { c with prog := c.prog.set (e.val + 1) (c.prog[e.val + 1]'(Nat.succ_lt_succ e.isLt) + moved / 1024) (Nat.succ_lt_succ e.isLt) })

/-- The token of a command increments unless NT is 1 (R140, R141). -/
def State.bumpToken (s : State) (l : Loc) (w : BitVec 128) : State :=
  if cmdNt w then s else s.updCtx l (fun c => c.wt (cmdTok w) (c.t[cmdTok w] + 1))

/-- The context of a command on a tile. -/
def EngCmd.loc (k : EngCmd) (t : TileId) : Loc := ⟨t, k.ctx⟩

/-- A rejected command leaves its queue and faults its context: cause 0x05 with the row of the rejection table, or
0x08 for a write to committed state without CMT (R143, R153, R154). -/
def State.rejectCmd (s : State) (t : TileId) (e : Fin 6) (k : EngCmd) (cause row : Nat) : State :=
  (s.popHead t e).ctxFault (k.loc t) cause row e.val (cmdOp k.word) k.addr

/-- An accepted command leaves its queue, joins the active ones, and advances the progress counter (R138, R379). -/
def State.accept (s : State) (t : TileId) (e : Fin 6) (a : Active) : State :=
  ((s.popHead t e).updTile t (fun x => x.setAct e (x.act e ++ [a]))).engProgress (a.cmd.loc t) e

/-- A command removed without work under a decision other than commit: its token increments (R143). -/
def State.dropHead (s : State) (t : TileId) (e : Fin 6) (k : EngCmd) : State :=
  (s.popHead t e).bumpToken (k.loc t) k.word

/-- The command at the head of an engine's queue, when its OP is one that the row takes. -/
def State.headFor (s : State) (t : TileId) (e : Fin 6) (mine : Nat → Bool) : Option EngCmd :=
  match (s.tile t).queue e with
  | k :: _ => if mine (cmdOp k.word) then some k else none
  | [] => none

/-- What an engine's row does: with no such command at the head, or its gates shut, or no room in the engine, nothing
(log 18); removed when the decision says so; otherwise the row's own work. -/
def State.atHead (s : State) (t : TileId) (e : Fin 6) (mine : Nat → Bool) (work : EngCmd → State → State) : State :=
  match s.headFor t e mine with
  | none => s
  | some k =>
    match s.gate t e k with
    | .shut => s
    | .drop => s.dropHead t e k
    | .run => work k s

/-- An accepted command with nothing set but its nominal cycles. -/
def Active.of (k : EngCmd) (cycles : Nat) : Active := ⟨k, [], [], [], [], cycles, 0, none, false, true, 0, []⟩

/-- Marks the newest accepted command of an engine as stopped by an error. -/
def State.stopLast (s : State) (t : TileId) (e : Fin 6) : State :=
  s.updTile t (fun x => x.setAct e ((x.act e).dropLast ++ ((x.act e).getLast?.map (fun a => { a with stopped := true })).toList))

end Sys2Proof.Machine
end

