-- ==== Sys2Proof/Machine/Wire.lean ====
section
/-! DEFINITION. Messages and flits on the wire: types and classes, the message header with its type fields and bodies, the Eotumos and
Birov flits with their CRC (R293, R296, R299, R300, R309, R310, R333, R400, R415). -/
namespace Sys2Proof

/-- The MTYPE of a body (R300). -/
def MsgBody.mtype : MsgBody → Nat
  | .stepReport _ => 0x01 | .stepDecision _ => 0x02 | .tally _ _ => 0x03 | .normPartial _ _ _ => 0x04 | .rejoin => 0x05
  | .decisionQuery => 0x06 | .redShard _ _ _ => 0x10 | .redResult _ _ _ => 0x11 | .treeValue _ _ _ _ => 0x12
  | .qmsg _ _ _ => 0x20 | .rowUpdate _ _ _ _ _ => 0x21 | .pinReq _ _ _ => 0x22 | .belay _ => 0x24
  | .rowImage _ _ _ _ => 0x30 | .qack _ _ _ => 0x31 | .reserved m => m

/-- The traffic class of a body: 0 CTL, 1 RED, 2 QREQ, 3 QRSP (R296, R300); none for a reserved type. -/
def MsgBody.cls (b : MsgBody) : Option Nat :=
  match b with
  | .reserved _ => none
  | _ =>
    let m := b.mtype
    some (if m < 0x10 then 0 else if m < 0x20 then 1 else if m < 0x30 then 2 else 3)

/-- Whether a message is step traffic, whose loss keeps its step from committing (R300, R310, R373). -/
def MsgBody.stepTraffic (b : MsgBody) : Bool :=
  decide (b.mtype = 0x03 ∨ b.mtype = 0x04 ∨ b.mtype = 0x01 ∨ b.mtype = 0x02 ∨ b.mtype = 0x10 ∨ b.mtype = 0x11 ∨
    b.mtype = 0x12 ∨ b.mtype = 0x21 ∨ b.mtype = 0x22 ∨ b.mtype = 0x30)

/-- Body bytes of a message (R299, R300, R333). BELAY bodies carry what R400 gives. -/
def MsgBody.len : MsgBody → Nat
  | .normPartial _ _ _ => 32
  | .redShard _ _ sums => 16 * sums.length
  | .redResult _ _ v => 4 * v.length
  | .treeValue _ _ _ v => 4 * v.length
  | .qmsg _ _ e => e.length
  | .rowUpdate _ _ _ _ sums => 12 * sums.length
  | .rowImage _ _ _ row => row.length
  | .belay (.rowcopy _ _ _ row) => row.length
  | .belay (.shadow _ _ bs _) => bs.length
  | .belay (.rtbrec r _) => 32 + 64 * ceilDiv r.body.length 8
  | .belay (.gather _ _ _ row) => row.length
  | .belay (.fill _ _ _ _ row) => row.length
  | _ => 0

/-! ### Type fields and bodies -/

/-- The code of a decision (R277, R300). -/
def Decision.code : Decision → Nat
  | .commit => 1 | .skip => 2 | .discard => 3 | .halt => 4

/-- The decision of a code; the others are reserved. -/
def decisionOf (n : Nat) : Option Decision :=
  match n with
  | 1 => some .commit
  | 2 => some .skip
  | 3 => some .discard
  | 4 => some .halt
  | _ => none

/-- Numbers of k bytes each, the least significant byte first (R4). -/
def numBytes (k : Nat) (l : List Nat) : List Byte := (l.map (leBytes k)).flatten

/-- Bytes as numbers of k bytes each. -/
def bytesNums (k : Nat) (bs : List Byte) : List Nat := (chunks k bs.length bs).map leVal

/-- A route-book record as bytes (R415): its 32-byte header and its body in 64-byte units. The manual gives the attempt no place in the
header: bits [47:32] (log 139). -/
def RtbRec.bytes (r : RtbRec) : List Byte :=
  let n := ceilDiv r.body.length 8
  leBytes 32 (r.type % 2 ^ 8 * 2 ^ 248 + r.tile % 2 ^ 10 * 2 ^ 238 + r.ctx % 4 * 2 ^ 236 + r.step % 2 ^ 64 * 2 ^ 128 +
    r.att % 2 ^ 16 * 2 ^ 32 + n) ++
  numBytes 8 (r.body ++ List.replicate (8 * n - r.body.length) 0)

/-- The record that bytes hold. -/
def recOf (bs : List Byte) : RtbRec :=
  let w := leVal (bs.take 32)
  ⟨fld w 255 248, fld w 247 238, fld w 237 236, fld w 191 128, fld w 47 32, bytesNums 8 (bs.drop 32)⟩

/-- The fields of a table, a version slot and a global index in a BELAY message. -/
def belayRow (t v x : Nat) : Nat := t % 64 * 2 ^ 114 + v % 4 * 2 ^ 112 + x % 2 ^ 40 * 2 ^ 72

/-- The fields of a part of a shadow: the tile in [81:72], and the offset, to which the manual gives no place, in [111:82] (log 139). -/
def belayShadow (tile off : Nat) : Nat := tile % 2 ^ 10 * 2 ^ 72 + off % 2 ^ 30 * 2 ^ 82

/-- The field COUNT of a BELAY message. -/
def belayCount (n : Nat) : Nat := n % 2 ^ 32 * 2 ^ 40

/-- The type fields of BELAY (R400). -/
def BelayBody.fields (b : BelayBody) : Nat :=
  let sub := fun (n v : Nat) => n * 2 ^ 120 + v
  match b with
  | .rowcopy t v x _ => sub 0x01 (belayRow t v x)
  | .shadow t o _ n => sub 0x02 (belayShadow t o + belayCount n)
  | .rtbrec _ n => sub 0x03 (belayCount n)
  | .sealOf n => sub 0x04 (belayCount n)
  | .sealedOf n => sub 0x05 (belayCount n)
  | .call => sub 0x06 0
  | .callack => sub 0x07 0
  | .done => sub 0x08 0
  | .complete => sub 0x09 0
  | .ask => sub 0x0A 0
  | .gather t v x _ => sub 0x0B (belayRow t v x)
  | .feed c => sub 0x0C (belayCount (c % 16))
  | .fill n t v x _ => sub 0x0D (belayRow t v x + belayCount n)
  | .fillreq t v x => sub 0x0E (belayRow t v x)
  | .reserved n => sub (n % 256) 0

/-- The body of BELAY. -/
def BelayBody.bytes : BelayBody → List Byte
  | .rowcopy _ _ _ row => row
  | .shadow _ _ bs _ => bs
  | .rtbrec r _ => r.bytes
  | .gather _ _ _ row => row
  | .fill _ _ _ _ row => row
  | _ => []

/-- The BELAY message of type fields and a body. -/
def belayOf (w : Nat) (bs : List Byte) : BelayBody :=
  let t := fld w 119 114
  let v := fld w 113 112
  let x := fld w 111 72
  let n := fld w 71 40
  match fld w 127 120 with
  | 0x01 => .rowcopy t v x bs
  | 0x02 => .shadow (fld w 81 72) (fld w 111 82) bs n
  | 0x03 => .rtbrec (recOf bs) n
  | 0x04 => .sealOf n
  | 0x05 => .sealedOf n
  | 0x06 => .call
  | 0x07 => .callack
  | 0x08 => .done
  | 0x09 => .complete
  | 0x0A => .ask
  | 0x0B => .gather t v x bs
  | 0x0C => .feed (n % 16)
  | 0x0D => .fill n t v x bs
  | 0x0E => .fillreq t v x
  | k => .reserved k

/-- The fields that RED messages share: buffer, first element and count. -/
def redFields (buf first n : Nat) : Nat := buf % 2 ^ 10 * 2 ^ 118 + first % 2 ^ 18 * 2 ^ 100 + n % 2 ^ 13 * 2 ^ 87

/-- The fields of PIN_REQ and ROW_IMAGE. -/
def rowFields (t v x : Nat) : Nat := t % 64 * 2 ^ 122 + v % 4 * 2 ^ 120 + x % 2 ^ 40 * 2 ^ 80

/-- The second 16 bytes of a message's header: its type fields (R300, R333, R400). -/
def MsgBody.fields : MsgBody → Nat
  | .stepReport d => d.toNat
  | .stepDecision d => d.code
  | .tally t n => t % 64 * 2 ^ 122 + n % 2 ^ 64
  | .redShard b f s => redFields b f s.length
  | .redResult b f v => redFields b f v.length
  | .treeValue b f d v => redFields b f v.length + d % 2 ^ 7 * 2 ^ 80
  | .qmsg q i _ => q % 2 ^ 20 * 2 ^ 108 + i % 2 ^ 32 * 2 ^ 76
  | .qack q i st => q % 2 ^ 20 * 2 ^ 108 + i % 2 ^ 32 * 2 ^ 76 + st % 4 * 2 ^ 74
  | .rowUpdate t x n nf _ => t % 64 * 2 ^ 122 + x % 2 ^ 40 * 2 ^ 82 + n % 2 ^ 25 * 2 ^ 57 + if nf then 2 ^ 56 else 0
  | .pinReq t v x => rowFields t v x
  | .rowImage t v x _ => rowFields t v x
  | .belay b => b.fields
  | _ => 0

/-- The body as bytes: wide sums of 16 bytes, FX96 sums of 12, FP32 values of 4 (R300). -/
def MsgBody.bytes : MsgBody → List Byte
  | .normPartial q nf c => leBytes 16 (ofSigned 128 q) ++ leBytes 8 nf ++ leBytes 8 c
  | .redShard _ _ s => numBytes 16 (s.map (ofSigned 128))
  | .redResult _ _ v => numBytes 4 v
  | .treeValue _ _ _ v => numBytes 4 v
  | .qmsg _ _ e => e
  | .rowUpdate _ _ _ _ s => numBytes 12 (s.map (ofSigned 96))
  | .rowImage _ _ _ row => row
  | .belay b => b.bytes
  | _ => []

/-- The body that MTYPE, type fields and bytes spell; a code that the manual reserves makes it reserved. The second part is whether the
count of a RED message agrees with its bytes (R300). -/
def bodyOfWire (mtype w : Nat) (bs : List Byte) : MsgBody × Bool :=
  let count := fun (k : Nat) => decide (k * fld w 99 87 = bs.length ∧ 1 ≤ fld w 99 87 ∧ fld w 99 87 ≤ 4096)
  match mtype with
  | 0x01 => (.stepReport (BitVec.ofNat 64 w), true)
  | 0x02 => match decisionOf (fld w 2 0) with
    | some d => (.stepDecision d, true)
    | none => (.reserved 0x02, true)
  | 0x03 => (.tally (fld w 127 122) (fld w 63 0), true)
  | 0x04 => (.normPartial (toSigned 128 (leVal (bs.take 16))) (leVal ((bs.drop 16).take 8)) (leVal ((bs.drop 24).take 8)), true)
  | 0x05 => (.rejoin, true)
  | 0x06 => (.decisionQuery, true)
  | 0x10 => (.redShard (fld w 127 118) (fld w 117 100) ((bytesNums 16 bs).map (toSigned 128)), count 16)
  | 0x11 => (.redResult (fld w 127 118) (fld w 117 100) (bytesNums 4 bs), count 4)
  | 0x12 => (.treeValue (fld w 127 118) (fld w 117 100) (fld w 86 80) (bytesNums 4 bs), count 4)
  | 0x20 => (.qmsg (fld w 127 108) (fld w 107 76) bs, decide (bs.length = 64))
  | 0x21 => (.rowUpdate (fld w 127 122) (fld w 121 82) (fld w 81 57) (bitOf w 56) ((bytesNums 12 bs).map (toSigned 96)),
      decide (bs.length % 12 = 0))
  | 0x22 => (.pinReq (fld w 127 122) (fld w 121 120) (fld w 119 80), true)
  | 0x24 => (.belay (belayOf w bs), true)
  | 0x30 => (.rowImage (fld w 127 122) (fld w 121 120) (fld w 119 80) bs, decide (bs.length % 64 = 0))
  | 0x31 => (.qack (fld w 127 108) (fld w 107 76) (fld w 75 74), true)
  | m => (.reserved m, true)

/-! ### Messages -/

/-- The type code on a link of a mode: MTYPE, or the Birov code (R310). -/
def wireType (mode mtype : Nat) : Nat :=
  if mode = 0 then mtype
  else match mtype with
    | 0x01 => 0x41
    | 0x02 => 0x42
    | 0x05 => 0x43
    | 0x06 => 0x44
    | 0x12 => 0x51
    | 0x20 => 0x60
    | m => m

/-- The MTYPE of a type code; a code that a Birov link does not know stands for no type. -/
def typeOfWire (mode code : Nat) : Nat :=
  if mode = 0 then code
  else match code with
    | 0x41 => 0x01
    | 0x42 => 0x02
    | 0x43 => 0x05
    | 0x44 => 0x06
    | 0x51 => 0x12
    | 0x60 => 0x20
    | _ => 0

/-- The payload of a message (R299): its 32-byte header and its body. -/
def Msg.bytes (mode : Nat) (m : Msg) : List Byte :=
  leBytes 16 (m.step % 2 ^ 64 * 2 ^ 64 + m.att % 2 ^ 16 * 2 ^ 48 + m.dst2 % 2 ^ 12 * 2 ^ 36 + wireType mode m.body.mtype % 2 ^ 8 * 2 ^ 28 +
    m.body.len % 2 ^ 19) ++
  leBytes 16 m.body.fields ++ m.body.bytes

/-- Payload bytes of a flit (R293, R309). -/
def flitPayload (mode : Nat) : Nat := if mode = 0 then 240 else 112

/-- The largest body (R299). -/
def maxBody : Nat := 262144

/-- The message whose flits, n of them, held the bytes as their payload; `src` to `hops` are the fields of the flit headers. `lenOk`
says that BLEN agrees with the flits and the type, and is no more than R299 allows. -/
def msgOf (mode src dst : Nat) (mc : Bool) (vc hops n : Nat) (bs : List Byte) : Msg :=
  let w := leVal (bs.take 16)
  let body := bs.drop 32
  let blen := fld w 18 0
  let x := bodyOfWire (typeOfWire mode (fld w 35 28)) (leVal ((bs.drop 16).take 16)) body
  { src := src, dst := dst, mc := mc, dst2 := fld w 47 36, vc := vc, hops := hops, step := fld w 127 64, att := fld w 63 48,
    lenOk := decide (32 ≤ bs.length ∧ blen = body.length ∧ blen ≤ maxBody ∧ n = ceilDiv (32 + blen) (flitPayload mode) ∧ blen = x.1.len) && x.2,
    body := x.1 }

/-! ### Flits -/

/-- The fields of a flit as R293 and R309 lay them out. -/
structure WireFlit where
  ftype : Nat
  vc : Nat
  dst : Nat
  src : Nat
  mc : Bool
  som : Bool
  eom : Bool
  plen : Nat
  hops : Nat
  payload : List Byte
  seq : Nat
  ack : Nat
  crvc : Nat
  crn : Nat
  deriving DecidableEq, Repr

/-- 1 for a set bit. -/
def bitNo (b : Bool) : Nat := if b then 1 else 0

/-- The 64-bit header of a flit. -/
def WireFlit.header (mode : Nat) (f : WireFlit) : Nat :=
  if mode = 0 then
    f.ftype % 16 * 2 ^ 60 + f.vc % 8 * 2 ^ 57 + f.dst % 2 ^ 12 * 2 ^ 45 + f.src % 2 ^ 12 * 2 ^ 33 + bitNo f.mc * 2 ^ 32 +
    bitNo f.som * 2 ^ 31 + bitNo f.eom * 2 ^ 30 + f.plen % 2 ^ 8 * 2 ^ 22 + f.hops % 2 ^ 6 * 2 ^ 16
  else
    f.ftype % 16 * 2 ^ 60 + f.vc % 2 * 2 ^ 59 + f.dst % 2 ^ 12 * 2 ^ 47 + f.src % 2 ^ 12 * 2 ^ 35 + bitNo f.som * 2 ^ 34 +
    bitNo f.eom * 2 ^ 33 + f.plen % 2 ^ 7 * 2 ^ 26

/-- The trailer's fields below CRC. -/
def WireFlit.trailer (mode : Nat) (f : WireFlit) : Nat :=
  if mode = 0 then f.seq % 2 ^ 12 * 2 ^ 20 + f.ack % 2 ^ 12 * 2 ^ 8 + f.crvc % 8 * 2 ^ 5 + f.crn % 2 ^ 5
  else f.seq % 2 ^ 10 * 2 ^ 22 + f.ack % 2 ^ 10 * 2 ^ 12 + f.crvc % 2 * 2 ^ 11 + f.crn % 2 ^ 6 * 2 ^ 5

/-- The bytes of a flit: payload bytes beyond PLEN are 0, and CRC is CRC-32C over header and payload. -/
def WireFlit.bytes (mode : Nat) (f : WireFlit) : List Byte :=
  let front := leBytes 8 (f.header mode) ++ f.payload ++ List.replicate (flitPayload mode - f.payload.length) 0
  front ++ leBytes 8 (crc32c front * 2 ^ 32 + f.trailer mode)

/-- Whether a flit's CRC fails. -/
def crcFails (mode : Nat) (bs : List Byte) : Bool :=
  let n := 8 + flitPayload mode
  decide (bs.length ≠ n + 8 ∨ crc32c (bs.take n) ≠ fld (leVal (bs.drop n)) 63 32)

/-- The fields of a flit's bytes. -/
def wireFlitOf (mode : Nat) (bs : List Byte) : WireFlit :=
  let h := leVal (bs.take 8)
  let t := leVal (bs.drop (8 + flitPayload mode))
  let load := (bs.drop 8).take (flitPayload mode)
  if mode = 0 then
    { ftype := fld h 63 60, vc := fld h 59 57, dst := fld h 56 45, src := fld h 44 33, mc := bitOf h 32, som := bitOf h 31,
      eom := bitOf h 30, plen := fld h 29 22, hops := fld h 21 16, payload := load.take (fld h 29 22),
      seq := fld t 31 20, ack := fld t 19 8, crvc := fld t 7 5, crn := fld t 4 0 }
  else
    { ftype := fld h 63 60, vc := fld h 59 59, dst := fld h 58 47, src := fld h 46 35, mc := false, som := bitOf h 34,
      eom := bitOf h 33, plen := fld h 32 26, hops := 0, payload := load.take (fld h 32 26),
      seq := fld t 31 22, ack := fld t 21 12, crvc := fld t 11 11, crn := fld t 10 5 }

end Sys2Proof
end

