-- ==== Sys2Proof/Machine/Net.lean ====
section
/-! DEFINITION. How messages travel: virtual channels and credits, the transmitter of a link, routing, multicast, the staging rings of
class 3, and this device's inbox (R290 to R310, R340, R462). -/
namespace Sys2Proof.Machine

/-! ### Links -/

/-- The state of a logical port. -/
def State.link (s : State) (l : Nat) : Link := s.links.get (fun _ => Link.reset) l

/-- Changes the state of a logical port. -/
def State.updLink (s : State) (l : Nat) (f : Link → Link) : State :=
  { s with links := s.links.upd (fun _ => Link.reset) l f }

/-- LNK_CFG of the port of a logical port. -/
def State.lnkCfg (s : State) (l : Nat) : Nat := (s.reg (rLnkCfg (l / 2))).toNat

/-- MODE of a link: 0 Eotumos, 1 Birov 3, 2 Birov 2 (R312). -/
def State.lnkMode (s : State) (l : Nat) : Nat := fld (s.lnkCfg l) 7 6

/-- Whether LNK_CFG enables the link: half 1 exists when SPLIT is 1 (R290, R312). -/
def State.lnkEnabled (s : State) (l : Nat) : Bool :=
  if l % 2 = 0 then bitOf (s.lnkCfg l) 3 else bitOf (s.lnkCfg l) 5 && bitOf (s.lnkCfg l) 4

/-- The retry buffer: 512 flits on a ×8 link, 256 on a half or in a Birov mode (R294, R309). -/
def State.retrySize (s : State) (l : Nat) : Nat :=
  if s.lnkMode l ≠ 0 ∨ bitOf (s.lnkCfg l) 5 then 256 else 512

/-- SEQ counts modulo 4,096, or 1,024 in a Birov mode (R294, R309). -/
def State.seqMod (s : State) (l : Nat) : Nat := if s.lnkMode l = 0 then 4096 else 1024

/-- Flits of a message on a link (R299, R309). -/
def State.flitsOf (s : State) (l : Nat) (m : Msg) : Nat := ceilDiv (32 + m.body.len) (flitPayload (s.lnkMode l))

/-- The VC of a message on a link: its own, or 0 and 1 for control and data on a Birov-mode link (R310). -/
def State.wireVc (s : State) (l : Nat) (m : Msg) : Nat :=
  if s.lnkMode l = 0 then m.vc else if m.body.cls = some 0 then 0 else 1

/-- The flits of a message, not yet numbered. -/
def State.flitList (s : State) (l : Nat) (m : Msg) : List TxFlit :=
  let n := s.flitsOf l m
  (List.range n).map (fun i => ⟨0, s.wireVc l m, i, decide (i = 0), decide (i + 1 = n), m⟩)

/-- Takes a credit for a VC: a dedicated one first (R297). -/
def Link.takeCredit (k : Link) (vc : Nat) : Option Link :=
  if h : vc < 8 then
    if 0 < k.credits[vc] then some { k with credits := k.credits.set vc (k.credits[vc] - 1) }
    else if 0 < k.shared then some { k with shared := k.shared - 1 }
    else none
  else none

/-- Returns n credits for a VC: the dedicated buffers, of which there are ded, first; sh buffers are shared (R297). -/
def Link.giveCredits (k : Link) (ded sh vc n : Nat) : Link :=
  if h : vc < 8 then
    let d := min n (ded - k.credits[vc])
    { k with credits := k.credits.set vc (k.credits[vc] + d), shared := min sh (k.shared + (n - d)) }
  else k

/-- Dedicated and shared buffers of a link's receiver: 32 for each VC and 256, or 16 and 64 in a Birov mode (R297, R309). -/
def State.bufferCounts (s : State) (l : Nat) : Nat × Nat := if s.lnkMode l = 0 then (32, 256) else (16, 64)

/-- The VC of the next new flit: 0 and 1 first, then round-robin among 2 to 7 that hold a flit and a credit (R298). -/
def Link.nextVc (k : Link) : Option Nat :=
  let can := fun v => k.queue.any (fun f => decide (f.vc = v)) && (k.takeCredit v).isSome
  ([0, 1] ++ (List.range 6).map (fun i => 2 + (k.turn - 2 + i) % 6)).find? can

/-- Sends new flits while there is one with a credit and the retry buffer has room; n bounds the flits. Returns those
that were sent. -/
def Link.pump (size modulus : Nat) : Nat → Link → Link × List TxFlit
  | 0, k => (k, [])
  | n + 1, k =>
    if size ≤ k.retry.length then (k, [])
    else
      match k.nextVc with
      | none => (k, [])
      | some v =>
        match k.queue.find? (fun f => decide (f.vc = v)), k.takeCredit v with
        | some f, some k' =>
          let f' := { f with seq := k'.seq }
          let k'' := { k' with
            queue := k'.queue.erase f, seq := (k'.seq + 1) % modulus,
            retry := k'.retry ++ [f'], turn := if v < 2 then k'.turn else 2 + (v - 1) % 6 }
          let r := Link.pump size modulus n k''
          (r.1, f' :: r.2)
        | _, _ => (k, [])

/-- The credits that the next flit returns: the lowest VC that owes some, and how many fit CRN (R293, R309). -/
def Link.nextCredit (k : Link) (most : Nat) : Nat × Nat :=
  match (List.finRange 8).find? (fun v => decide (0 < k.owed[v])) with
  | some v => (v.val, min most k.owed[v])
  | none => (0, 0)

/-- The trailer of a flit that link l sends now, with the credits that it returns (R293). -/
def State.stamp (s : State) (l : Nat) (f : WireFlit) : WireFlit :=
  let k := s.link l
  let c := k.nextCredit (if s.lnkMode l = 0 then 31 else 63)
  { f with ack := (k.rxSeq + s.seqMod l - 1) % s.seqMod l, crvc := c.1, crn := c.2 }

/-- Puts a flit on the wire (R293). -/
def State.emit (s : State) (l : Nat) (f : WireFlit) : State :=
  let f := s.stamp l f
  let s := { s with out := s.out ++ [Sent.flit l (f.bytes (s.lnkMode l))] }
  s.updLink l (fun k => if h : f.crvc < 8 then { k with owed := k.owed.set f.crvc (k.owed[f.crvc] - f.crn) } else k)

/-- Sends a message flit (R293, R299). -/
def State.emitFlit (s : State) (l : Nat) (f : TxFlit) : State :=
  let mode := s.lnkMode l
  let n := flitPayload mode
  let load := ((f.msg.bytes mode).drop (n * f.idx)).take n
  s.emit l { ftype := 1, vc := f.vc, dst := f.msg.dst, src := f.msg.src, mc := f.msg.mc, som := f.som, eom := f.eom, plen := load.length,
             hops := f.msg.hops, payload := load, seq := f.seq, ack := 0, crvc := 0, crn := 0 }

/-- A flit without a payload: idle (FTYPE 0), link control (2) or reset notice (3). It carries the next SEQ (R293). -/
def State.plainFlit (s : State) (l ftype : Nat) : WireFlit :=
  { ftype := ftype, vc := 0, dst := (s.link l).peer, src := s.devId, mc := false, som := false, eom := false, plen := 0, hops := 0, payload := [],
    seq := (s.link l).seq, ack := 0, crvc := 0, crn := 0 }

/-- Sends an idle flit: it carries the acknowledgement and credits (R293). -/
def State.emitIdle (s : State) (l : Nat) : State := s.emit l (s.plainFlit l 0)

/-- Sends a NAK: a link-control flit. Its ACK is the SEQ before the expected one, which it names in no other place (R294; DESIGN CHOICE, log
140). -/
def State.emitNak (s : State) (l : Nat) : State := s.emit l (s.plainFlit l 2)

/-- Sends reset notices on links (R306). -/
def State.emitNotices (s : State) (ls : List Nat) : State := ls.foldl (fun s l => s.emit l (s.plainFlit l 3)) s

/-- Returns the credits owed in idle flits, n at most. -/
def State.payCredits (s : State) (l : Nat) : Nat → State
  | 0 => s
  | n + 1 => if (s.link l).owed.toList.any (fun x => decide (0 < x)) then (s.emitIdle l).payCredits l n else s

/-- A link that is UP sends what it can (R298); sent flits count in LNK_CNT_FTX (R316). A link sends idle flits all the time that it has
nothing else; the model lists those that return credits, and one after each flit taken (log 140). -/
def State.pumpLink (s : State) (l : Nat) : State :=
  let k := s.link l
  if k.state ≠ 2 then s
  else
    let r := Link.pump (s.retrySize l) (s.seqMod l) k.queue.length k
    let s := (s.updLink l (fun _ => r.1)).count (rLnkCnt (l / 2) 0x040) r.2.length
    (r.2.foldl (fun s f => s.emitFlit l f) s).payCredits l 100

/-- Queues a whole message on a link and sends what it can. -/
def State.queueOn (s : State) (l : Nat) (m : Msg) : State :=
  (s.updLink l (fun k => { k with queue := k.queue ++ s.flitList l m })).pumpLink l

/-- A LINK entry for a discarded message (R373): logical port, peer and MTYPE. The step of step traffic does not commit (R300, R310). -/
def State.discardEntry (s : State) (l : Nat) (m : Msg) : State :=
  (if m.body.stepTraffic then s.barCommit (m.step, m.att) else s).logError 5 3 (0x500 + l / 2) 0 0xF (l % 32 + (s.link l).peer % 4096 * 2 ^ 16 + m.body.mtype % 256 * 2 ^ 32) 0 0

/-- Whether a Birov-mode link of a mode carries the message (R310). -/
def birovCarries (mode : Nat) (m : Msg) : Bool :=
  match m.body with
  | .stepReport _ => true
  | .stepDecision d => if mode = 2 then decide (d = .commit ∨ d = .discard) else true
  | .rejoin => decide (mode = 1)
  | .decisionQuery => decide (mode = 1)
  | .treeValue _ _ _ _ => true
  | .qmsg _ _ _ => true
  | _ => false

/-- Whether a message that passes a Birov-mode port goes from one end of the link to the other, alone: such a link neither multicasts nor
forwards (R303, R309). -/
def State.birovDirect (s : State) (l : Nat) (m : Msg) : Bool :=
  !m.mc && decide ((m.src = s.devId ∧ m.dst = (s.link l).peer) ∨ (m.src = (s.link l).peer ∧ m.dst = s.devId))

/-- A HALT to a Birov 2 member is not sent, and no discard either (R310). -/
def State.birovSilent (s : State) (l : Nat) (m : Msg) : Bool :=
  decide (s.lnkMode l = 2 ∧ m.body = .stepDecision .halt) && s.birovDirect l m

/-- Sends a message on a chosen link: with the dateline to the upper VC of its class when it is being forwarded, and
dropped at a Birov-mode port that does not carry it (R302, R303, R310). -/
def State.sendOn (s : State) (l : Nat) (dateline : Bool) (m : Msg) : State :=
  let mode := s.lnkMode l
  if mode = 0 then s.queueOn l (if dateline && decide (0 < m.hops) && decide (m.vc % 2 = 0) then { m with vc := m.vc + 1 } else m)
  else if s.birovSilent l m then s
  else if birovCarries mode m && s.birovDirect l m then s.queueOn l m
  else (s.count (rLnkCnt (l / 2) 0x098) 1).discardEntry l m

/-- The route entry of a device (R315): valid, DLP, DLA, ALT, PRI. -/
def State.route (s : State) (d : Nat) : Nat := (s.reg (rRoute d)).toNat

/-- The link that a message for device d takes now: the primary if UP, else the alternate if UP (R301), with its
dateline bit. -/
def State.linkFor (s : State) (d : Nat) : Option (Nat × Bool) :=
  let r := s.route d
  if (s.link (fld r 4 0)).state = 2 then some (fld r 4 0, bitOf r 14)
  else if (s.link (fld r 12 8)).state = 2 then some (fld r 12 8, bitOf r 13)
  else none

/-! ### The staging rings of class 3 (R340) -/

/-- The table of a message that a PEERROW ring holds: a row update, a pin request or a row image. -/
def rowTable : MsgBody → Option Nat
  | .rowUpdate t _ _ _ _ => some t
  | .pinReq t _ _ => some t
  | .rowImage t _ _ _ => some t
  | _ => none

/-- The class-3 queues that the job image configures, in its order. -/
def State.rowQueues (s : State) : List Nat :=
  match s.job.img with
  | some i => (i.queues.filter (fun q => decide ((QDesc.ofWords (fun j => q.2.getD j 0)).cls = 3))).map (·.1)
  | none => []

/-- The ring of a message for a direction, 0 inbound and 1 outbound. The descriptor names no table: the image's class-3 queues serve
tables 0, 1, 2, … in pairs, the inbound one first; without one a message waits in the hub alone (log 141). -/
def State.rowRing (s : State) (m : Msg) (dir : Nat) : Option Nat := (rowTable m.body).bind (fun t => s.rowQueues[2 * t + dir]?)

/-- Entries of a message (R340). -/
def rowEntries (m : Msg) : Nat := ceilDiv (32 + m.body.len) 64

/-- The messages that a ring holds, oldest first: those that wait in the inbox, or those of this device that wait for a link. -/
def State.inRing (s : State) (q dir : Nat) : List Msg :=
  if dir = 0 then s.inbox.filter (fun m => decide (s.rowRing m 0 = some q))
  else s.netWait.filter (fun m => decide (m.src = s.devId ∧ s.rowRing m 1 = some q))

/-- The entries in use. -/
def State.ringUsed (s : State) (q dir : Nat) : Nat := ((s.inRing q dir).map rowEntries).sum

/-- Whether a message that a full ring held back waits for the ring. -/
def State.heldBack (s : State) (q dir : Nat) : Bool :=
  s.qm.backlog.any (fun m => decide (s.rowRing m dir = some q ∧ (m.dst = s.devId ↔ dir = 0)))

/-- Whether a message's ring cannot be reached: it lies in T2, and the host link serves none now (R318). -/
def State.ringFar (s : State) (m : Msg) (dir : Nat) : Bool :=
  match s.rowRing m dir with
  | some q => s.farWaits (s.desc q).ring
  | none => false

/-- Whether a ring takes a message: there is room and none waits for it, or there is no ring. -/
def State.ringFits (s : State) (m : Msg) (dir : Nat) : Bool :=
  !s.ringFar m dir && match s.rowRing m dir with
  | some q => decide (s.ringUsed q dir + rowEntries m ≤ 2 ^ (s.desc q).log2n) && !s.heldBack q dir
  | none => true

/-- The entries that a ring has taken since the load; HEAD and TAIL of its descriptor follow (R328). -/
def State.ringTail (s : State) (q : Nat) : Nat := s.qm.rows.get (fun _ => 0) q

/-- Writes a message into its ring, entry by entry. -/
def State.stage' (s : State) (m : Msg) (dir : Nat) : State :=
  match s.rowRing m dir with
  | none => s
  | some q =>
    let d := s.desc q
    let n := rowEntries m
    let bs := m.bytes 0 ++ List.replicate (64 * n - (32 + m.body.len)) 0
    let s := (List.range n).foldl (fun (s : State) i => (s.writeMem (d.entryAt (d.tail + s.ringTail q + i)) ((bs.drop (64 * i)).take 64)).1) (s.useQueue q)
    { s with qm := { s.qm with rows := s.qm.rows.put (fun _ => 0) q (s.ringTail q + n) } }

/-- Reads n entries of a ring from position i on; none when one cannot be read. -/
def State.readEntries (s : State) (d : QDesc) (i : Nat) : Nat → State × Bool
  | 0 => (s, true)
  | n + 1 =>
    let y := s.readEntries d i n
    let z := y.1.readMem (d.entryAt (i + n)) 64
    (z.1, y.2 && z.2.isSome)

/-- The oldest message of a ring is read as it leaves; an entry that cannot be read is an error of its step (R462). -/
def State.unstage (s : State) (m : Msg) (dir : Nat) : State × Bool :=
  match s.rowRing m dir with
  | none => (s, true)
  | some q =>
    let d := s.desc q
    let at' := d.tail + s.ringTail q - s.ringUsed q dir
    let y := (s.useQueue q).readEntries d at' (rowEntries m)
    if y.2 then y
    else ((y.1.barCommit (m.step, m.att)).memError noUnit 0 0xF (d.entryAt at'), false)

/-! ### Routing (R301 to R305) -/

/-- Whether a link takes a message of a ring at once: nothing waits on it before. -/
def State.linkFree (s : State) (l : Nat) : Bool := (s.link l).queue.isEmpty

/-- Whether two messages are of one class from one source and share a destination: the later one does not overtake the other (R304). -/
def sameFlow (a b : Msg) : Bool :=
  decide (a.src = b.src ∧ a.body.cls = b.body.cls) &&
  (decide (a.dst = b.dst) || (a.mc && decide (a.dst2 = b.dst)) || (b.mc && (decide (a.dst = b.dst2) || (a.mc && decide (a.dst2 = b.dst2)))))

/-- Whether an earlier message of the same flow waits for a link, or behind a full ring. -/
def State.behind (s : State) (m : Msg) : Bool := s.netWait.any (sameFlow m) || s.qm.backlog.any (sameFlow m)

/-- Whether a message must wait: an earlier one of its flow, or of its outbound ring, does, or its link cannot take one of a ring at
once. -/
def State.mustStage (s : State) (m : Msg) : Bool :=
  s.behind m || decide (m.src = s.devId) && (match s.rowRing m 1 with
    | none => false
    | some q => !(s.inRing q 1).isEmpty || (match s.linkFor m.dst with | some (l, _) => !s.linkFree l | none => true))

/-- A message waits for a link: in its ring where it has one, which may hold its producer back, and behind those of its flow. -/
def State.waitForLink (s : State) (m : Msg) : State :=
  if m.src ≠ s.devId then { s with netWait := s.netWait ++ [m] }
  else if s.ringFits m 1 && !s.qm.backlog.any (sameFlow m) then let s := s.stage' m 1; { s with netWait := s.netWait ++ [m] }
  else { s with qm := { s.qm with backlog := s.qm.backlog ++ [m] } }

/-- Routes a message to a remote device: sent, waiting without loss, or discarded and counted when the entry is not
valid (R301). `port` is the port whose counters a discard uses; `now` sends it past its ring. -/
def State.routeBy (s : State) (now : Bool) (port : Nat) (m : Msg) : State :=
  if !bitOf (s.route m.dst) 15 then (s.count (rLnkCnt (port / 2) 0x080) 1).discardEntry port m
  else if !now && s.mustStage m then s.waitForLink m
  else
    match s.linkFor m.dst with
    | some (l, dl) => s.sendOn l dl m
    | none => s.waitForLink m

/-- Routes a message as it comes. -/
def State.routeMsg (s : State) (port : Nat) (m : Msg) : State := s.routeBy false port m

/-- Delivers a message to this device's consumers: it waits in the inbox for its own command (log 21), a row message in its table's
inbound ring; a full ring holds back its producer (R340). -/
def State.intoInbox (s : State) (m : Msg) : State :=
  if s.ringFits m 0 then let s := s.stage' m 0; { s with inbox := s.inbox ++ [m] }
  else { s with qm := { s.qm with backlog := s.qm.backlog ++ [m] } }

/-- Sends one copy: to this device itself, or on its route (R301). -/
def State.sendCopy (s : State) (now : Bool) (port : Nat) (m : Msg) : State :=
  if m.dst = s.devId then s.intoInbox m else s.routeBy now port m

/-- Handles a message that this device sends or forwards, multicast ones split where their routes part (R305). One whose two routes both
exist waits whole while either has no link that is UP, since the route that it will choose is not known. -/
def State.dispatchBy (s : State) (now : Bool) (port : Nat) (m : Msg) : State :=
  if !m.mc then s.sendCopy now port m
  else
    let one := { m with mc := false, dst2 := 0 }
    let two := { m with dst := m.dst2, mc := false, dst2 := 0 }
    let split := fun (s : State) => ((s.sendCopy now port one).sendCopy now port two).count (rLnkCnt (port / 2) 0x078) 1
    if decide (m.dst = s.devId ∨ m.dst2 = s.devId) || !bitOf (s.route m.dst) 15 || !bitOf (s.route m.dst2) 15 then split s
    else
      match s.linkFor m.dst, s.linkFor m.dst2 with
      | some (a, dl), some (b, _) =>
        if a ≠ b then split s else if !now && s.mustStage m then s.waitForLink m else s.sendOn a dl m
      | _, _ => s.waitForLink m

/-- Handles a message as it comes. -/
def State.dispatchMsg (s : State) (port : Nat) (m : Msg) : State := s.dispatchBy false port m

/-- Sends a message of this device on the lower VC of its class (R296). -/
def State.send (s : State) (dst step att : Nat) (body : MsgBody) : State :=
  s.dispatchMsg 0 ⟨s.devId, dst, false, 0, 2 * (body.cls.getD 0), 0, step, att, true, body⟩

/-- Sends a multicast to two devices (R305). -/
def State.sendBoth (s : State) (dst dst2 step att : Nat) (body : MsgBody) : State :=
  s.dispatchMsg 0 ⟨s.devId, dst, true, dst2, 2 * (body.cls.getD 0), 0, step, att, true, body⟩

/-- Sends one body to each of a list of devices. -/
def State.sendAll (s : State) (ds : List Nat) (step att : Nat) (body : MsgBody) : State :=
  ds.foldl (fun s d => s.send d step att body) s

/-- Whether a message that waits for a link can go now: it is the oldest of its ring and of its flow, and its link takes it, or its entry has
lost VALID. -/
def State.canGo (s : State) (m : Msg) : Bool :=
  let ring := if m.src = s.devId then s.rowRing m 1 else none
  let free := fun (d : Nat) => !bitOf (s.route d) 15 || (match s.linkFor d with
    | some (l, _) => ring.isNone || s.linkFree l
    | none => false)
  (match ring with
    | some q => decide ((s.inRing q 1).head? = some m) && !s.farWaits (s.desc q).ring
    | none => true) && decide (s.netWait.find? (sameFlow m) = some m) && free m.dst && (!m.mc || free m.dst2)

/-- A message that waited leaves: it is read from its ring, and lost when that read fails (R462). -/
def State.depart (s : State) (m : Msg) : State :=
  let y := if m.src = s.devId then s.unstage m 1 else (s, true)
  let s := { y.1 with netWait := y.1.netWait.erase m }
  if y.2 then s.dispatchBy true 0 m else s

/-- Messages that a full ring held back go on in order, while they fit (R340). -/
def State.release (s : State) : State :=
  s.qm.backlog.foldl (fun s m =>
    let dir := if m.dst = s.devId then 0 else 1
    if s.ringFits m dir && !s.qm.backlog.any (sameFlow m) then s.dispatchMsg 0 m else { s with qm := { s.qm with backlog := s.qm.backlog ++ [m] } })
    { s with qm := { s.qm with backlog := [] } }

/-- Routes again every message that waits for a link (R301). -/
def State.reroute (s : State) : State :=
  let s := s.netWait.foldl (fun s m => if s.canGo m then s.depart m else s) s
  if s.qm.backlog.isEmpty then s else s.release

/-- The messages of a link's queue of which no flit has been sent; they fail over when the link leaves UP (R307). -/
def Link.unsent (k : Link) : List Msg := (k.queue.filter (·.som)).map (·.msg)

/-- The part of a queue that belongs to a message already begun. -/
def Link.begun (k : Link) : List TxFlit :=
  k.queue.filter (fun f => !(k.queue.any (fun h => h.som && decide (h.msg = f.msg ∧ h.vc = f.vc))))

/-- The link leaves UP: whole waiting messages fail over or wait (R301, R307). -/
def State.failOver (s : State) (l : Nat) : State :=
  let k := s.link l
  let s := s.updLink l (fun k => { k with queue := k.begun })
  k.unsent.foldl (fun s m => s.dispatchMsg l m) s

/-- The other members of the job. -/
def State.others (s : State) : List Nat := (s.job.members.map (·.id)).filter (fun d => decide (d ≠ s.devId))

/-- The leader: the member with the lowest device ID (R264). -/
def State.leader (s : State) : Nat := (s.job.members.map (·.id)).foldl min 4095

/-- Whether a message is the next of its ring to leave: messages leave in arrival order (R340). -/
def State.nextInRing (s : State) (m : Msg) : Bool :=
  !s.ringFar m 0 && match s.rowRing m 0 with
  | some q => decide ((s.inRing q 0).head? = some m)
  | none => true

/-- Takes a message from the inbox; its place in a ring is free for one that a full ring held back. -/
def State.takeMsg (s : State) (m : Msg) : State :=
  let s := { s with inbox := s.inbox.erase m }
  if s.qm.backlog.isEmpty then s else s.release

/-- Takes a row message: it is read from its ring, and lost when that read fails (R462). -/
def State.takeRow (s : State) (m : Msg) : State × Bool :=
  let y := s.unstage m 0
  (y.1.takeMsg m, y.2)

end Sys2Proof.Machine
end

