-- ==== Sys2Proof/Machine/Book.lean ====
section
/-! DEFINITION. The route book, save records, and what a device does with a whole step: record a decision, stop an
attempt, abandon, finish and halt it (R150, R262 to R273, R375 to R378, R411 to R416). -/
namespace Sys2Proof.Machine

/-! ### The route book (R411, R413, R415) -/

/-- The bytes of a record: its header, and its body of 64-bit words in 64-byte units. -/
def recSize (r : RtbRec) : Nat := 32 + 64 * ceilDiv r.body.length 8

/-- The bytes of the route book's records. -/
def State.bookUsed (s : State) : Nat := (s.book.recs.map recSize).sum

/-- The route book's share of the staging reserve in bytes (R424). -/
def State.bookShare (s : State) : Nat := (s.stage).2 / 16 * ((s.reg rRtbCfg).toNat % 16)

/-- This device's belay partner, if the membership gives it one (R399). -/
def State.partner (s : State) : Option Nat :=
  (s.job.members.find? (fun m => decide (m.id = s.devId))).bind (·.partner)

/-- The members whose partner is this device. -/
def State.wards (s : State) : List Nat :=
  (s.job.members.filter (fun m => decide (m.partner = some s.devId))).map (·.id)

/-- Sends a BELAY message; its cairn or step is in STEP (R400). -/
def State.sendBelay (s : State) (dst step : Nat) (b : BelayBody) : State := s.send dst step 0 (.belay b)

/-- At 7/8 of its share the device asks the leader for a cairn, once; a share filled whole holds every context at its
next arrive (R411). -/
def State.bookCheck (s : State) : State :=
  let used := s.bookUsed
  let share := s.bookShare
  if s.job.baseRun then s else
  let s := if share ≤ used then { s with book := { s.book with full := true } } else s
  if decide (7 * share ≤ 8 * used ∧ s.job.st = .running) && !s.book.asked then
    ({ s with book := { s.book with asked := true } } : State).sendBelay s.leader s.step.no .ask
  else s

/-- BLY_EXPORT. -/
def State.exportCtl (s : State) : Nat := (s.reg (hubReg 9 0x028)).toNat

/-- The start of the export region. -/
def State.exportAddr (s : State) : Nat := s.exportCtl / 4096 * 4096

/-- Whether every FEED has come that tells whether a pair is correlated: the partner's, and each E640 ward's (R399). -/
def State.fedAll (s : State) : Bool :=
  (s.partner.toList ++ (s.job.members.filter (fun m => decide (m.partner = some s.devId ∧ m.kind = 0))).map (·.id)).all
    (fun d => decide (d ∈ s.belay.fed))

/-- Whether the device exports its cairns: EN, and ALL or a correlated pair, or one that may yet turn out to be (R399, R414). -/
def State.exporting (s : State) : Bool := bitOf s.exportCtl 0 && (bitOf s.exportCtl 1 || s.belay.corr || !s.fedAll)

/-- Whether two items name the same row or shadow; records are all kept (R413). -/
def BelayItem.same : BelayItem → BelayItem → Bool
  | .row t v x _, .row t' v' x' _ => decide (t = t' ∧ v = v' ∧ x = x')
  | .shadow t o _, .shadow t' o' _ => decide (t = t' ∧ o = o')
  | _, _ => false

/-- Puts an item into the export copy of the cairn in progress. -/
def State.exportItem (s : State) (i : BelayItem) : State :=
  if s.exporting then { s with belay := { s.belay with expOpen := s.belay.expOpen.filter (fun e => !e.same i) ++ [i] } } else s

/-- Adds a record; one of a mirrored type also goes to the partner (R413, R415). A base camp job keeps decisions alone (R447,
R448). -/
def State.record (s : State) (type tile ctx step att : Nat) (body : List Nat) : State :=
  let r : RtbRec := ⟨type, tile, ctx, step, att, body⟩
  if s.job.baseRun && decide (type ≠ 4) then s else
  let s := { s with book := { s.book with recs := s.book.recs ++ [r] } }
  let s := if type ≤ 7 then (match s.partner with | some p => s.sendBelay p step (.rtbrec r 0) | none => s) else s
  let s := if type ≤ 7 ∧ bitOf s.exportCtl 0 = true ∧ bitOf s.exportCtl 1 = true then
    { s with belay := { s.belay with expBook := s.belay.expBook ++ [(s.exportAddr, r)] } } else s
  s.bookCheck

/-- Bytes as 64-bit words of a record's body. -/
def bodyOf (bs : List Byte) : List Nat := (chunks 8 bs.length bs).map leVal

/-- Records entry i of a TILEIN queue that the host has produced (R415): from T2 once the host link serves it again (R318); one that cannot be
read is logged. -/
def State.recordEntry (s : State) (e : Nat × Nat) : State :=
  let d := s.desc e.1
  let a := d.entryAt e.2
  if s.farWaits a then { s with qm := { s.qm with rung := s.qm.rung ++ [e] } }
  else
    let y := s.readMem a 64
    match y.2 with
    | some bs => y.1.record 2 d.tile d.ctx y.1.step.no y.1.step.att (e.1 :: bodyOf bs)
    | none => y.1.noteError (farClass a) 1 a

/-- Records n entries of a TILEIN queue from number i up. -/
def State.recordEntries (s : State) (q i n : Nat) : State :=
  (List.range n).foldl (fun s k => s.recordEntry (q, (i + k) % 2 ^ 32)) s

/-- Records what stands in the host-produced TILEIN queues as a job starts: its contexts will take it (R415). -/
def State.recordRings (s : State) : State :=
  s.queueIds.foldl (fun s q =>
    let d := s.desc q
    if d.valid && decide (d.cls = 1) && !d.rsend then s.recordEntries q d.head d.used else s) s

/-! ### The digest (R416) -/

/-- Adds h(old) XOR h(new) of an item to the step's part of the digest. -/
def State.hashChange (s : State) (old new : List Byte) : State :=
  { s with book := { s.book with part := (s.book.part ^^^ sm3Low old) ^^^ sm3Low new } }

/-! ### Steps and attempts (R251, R262) -/

/-- Whether a message is of a later step or attempt than its receiver's: it waits (R251). -/
def State.later (s : State) (t : Option Nat) (m : Msg) : Bool :=
  let p := s.pairAt t
  decide (p.1 < m.step ∨ (p.1 = m.step ∧ p.2 < m.att))

/-- Whether a message is of an earlier step or attempt: it is dropped (R251). -/
def State.stale (s : State) (t : Option Nat) (m : Msg) : Bool :=
  let p := s.pairAt t
  decide (m.step < p.1 ∨ (m.step = p.1 ∧ m.att < p.2))

/-! ### Save records (R150) -/

/-- What a save record holds of a context, with the PC of its restart point. -/
def Ctx.saved (c : Ctx) (l : Loc) (pc : BitVec 24) : SavedCtx :=
  { loc := l, g := c.g, s := c.s, tag := c.tag, t := c.t, p := c.p, pc := pc }

/-- The kind tags of s0 to s15 as one number. -/
def tagsVal (tags : List (BitVec 2)) : Nat :=
  match tags with
  | [] => 0
  | x :: r => x.toNat + 4 * tagsVal r

/-- The 1,024 bytes of a save record. -/
def SavedCtx.bytes (v : SavedCtx) : List Byte :=
  let words := fun (l : List Word) => (l.map (fun w => leBytes 8 w.toNat)).flatten
  words v.g.toList ++ words v.s.toList ++ words v.t.toList ++ leBytes 8 v.pc.toNat ++ leBytes 1 v.p.toNat ++
  List.replicate 7 0 ++ leBytes 4 (tagsVal v.tag.toList) ++ List.replicate 364 0

/-- What the 1,024 bytes of a save record hold. -/
def SavedCtx.ofBytes (l : Loc) (bs : List Byte) : SavedCtx :=
  let w := fun (i : Nat) => BitVec.ofNat 64 (leVal ((bs.drop (8 * i)).take 8))
  let tags := leVal ((bs.drop 0x290).take 4)
  { loc := l, g := Vector.ofFn (fun i : Fin 32 => w i.val), s := Vector.ofFn (fun i : Fin 16 => w (32 + i.val)),
    tag := Vector.ofFn (fun i : Fin 16 => BitVec.ofNat 2 (tags / 4 ^ i.val)),
    t := Vector.ofFn (fun i : Fin 32 => w (48 + i.val)), p := BitVec.ofNat 8 (leVal ((bs.drop 0x288).take 1)),
    pc := BitVec.ofNat 24 (leVal ((bs.drop 0x280).take 8)) }

/-- The context with what a record holds: semaphores, flags and the rest stay. -/
def Ctx.restore (c : Ctx) (v : SavedCtx) : Ctx :=
  { c with g := v.g, s := v.s, tag := v.tag, t := v.t, p := v.p, pc := v.pc, clist := none, wait := .none, mode := .run }

/-- Where a context's save record lies. -/
def State.saveAddr (s : State) (l : Loc) : Nat := sram l.tile (1024 * wfld (s.reg (rCsave l.tile l.ctx)) 12 0)

/-- Writes a context's save record with a restart PC: false when a word of it is uncorrectable. -/
def State.writeSave (s : State) (l : Loc) (pc : BitVec 24) : State × Bool :=
  s.writeT0 (s.saveAddr l) (((s.ctx l).saved l pc).bytes)

/-- A context's registers and PC as its save record holds them, at the start of a step; an uncorrectable word holds it
(R155). Its progress counters are again those of its restart point (log 74). One that the step does not run waits at the decision. -/
def State.loadSave (s : State) (l : Loc) : State :=
  let x := s.readT0 (s.saveAddr l) 1024
  match x.2 with
  | some bs =>
    (x.1.updCtx l (fun c => { c.restore (SavedCtx.ofBytes l bs) with step := .start, prog := c.progStart })).sitOut l (s.pairAt (some l.tile)).1
  | none => x.1.ctxMemError l 1

/-- A context is rewound, which ends its part in the attempt (R149, R150). -/
def State.rewindCtx (s : State) (l : Loc) : State :=
  (s.loadSave l).updCtx l (fun c => { c with epoch := c.epoch + 1 })

/-! ### Sets of contexts -/

/-- The step-set contexts of a tile. -/
def State.stepCtxs (s : State) (t : Nat) : List CtxId := allCtxs.filter (fun c => decide (c.val ∈ s.stepSet t))

/-- Every step-set context of the device. -/
def State.allStepCtxs (s : State) : List Loc :=
  (allTiles.filterMap (fun t => if h : t < 640 then some ((s.stepCtxs t).map (fun c => (⟨⟨t, h⟩, c⟩ : Loc))) else none)).flatten

/-- Whether a context takes part in holding and rewinding: not FAULTED or PARKED. -/
def Ctx.alive (c : Ctx) : Bool := decide (c.mode ≠ .faulted ∧ c.mode ≠ .parked)

/-- A context enters HELD unless it is FAULTED or PARKED (R375). -/
def Ctx.hold (c : Ctx) : Ctx := if c.alive then { c with mode := .held, wait := .none } else c

/-- A context's commands leave the tile: the queued ones without work, the accepted ones stopped (R375). -/
def Tile.dropAll (x : Tile) (c : CtxId) : Tile :=
  { x.dropQueued c with active := x.active.map (fun q => q.filter (fun a => decide (a.cmd.ctx ≠ c))) }

/-- Requests of commands that are no longer active are forgotten; NVMe commands complete on their drives all the same. -/
def State.forgetRequests (s : State) : State :=
  let live := fun (r : Request) => match r.tile with
    | none => true
    | some t => ((s.tile t).active[3]).any (fun a => decide (a.cmd.serial = r.serial))
  { s with host := { s.host with waiting := s.host.waiting.filter live },
           qm := { s.qm with nvme := s.qm.nvme.filter (fun r => !r.held || live r) } }

/-- A context is held and its commands are removed. -/
def State.holdCtx (s : State) (l : Loc) : State :=
  s.updTile l.tile (fun x => (x.dropAll l.ctx).setCtx l.ctx (x.ctxs[l.ctx]).hold)

/-! ### Step-scoped state (R205, R256) -/

/-- Clears the buffers whose home tile satisfies p: the storage and the counts. -/
def State.clearBuffers (s : State) (p : Nat → Bool) : State :=
  (List.range s.buffers.length).foldl (fun s i =>
    match s.bufDesc i with
    | some b => if p b.tile then
        (s.updBuf i (fun _ => .fresh)).wipe (sram b.tile b.store) (16 * b.nelem)
      else s
    | none => s) s

/-- Clears the coalescer of the tiles that satisfy p: accumulators, gradients and the counts of the step. -/
def State.clearCoalescer (s : State) (p : Nat → Bool) : State :=
  { s with emb := { s.emb with
      accs := s.emb.accs.filter (fun a => !p a.tile), grads := s.emb.grads.filter (fun g => !p g.tile),
      sent := s.emb.sent.filter (fun e => !p e.1), taken := s.emb.taken.filter (fun e => !p (e.1 / 64)),
      got := s.emb.got.filter (fun e => !p (e.1 / 64)) } }

/-- Clears what the device has gathered for its step's reductions. -/
def State.clearReductions (s : State) : State :=
  { s with
    emb := { s.emb with tallies := [], talliesOut := false, reduced := [], squares := 0,
                        nonfin := 0, clamps := 0 },
    step := { s.step with partials := [], partialSent := false, spoilt := false, jobRec := none, reported := false,
                          reports := [], rejoined := false, commit := none } }

/-- The device stops its attempt: steps 1 to 3 of R375. -/
def State.stopAttempt (s : State) : State :=
  let s := { s with step := { s.step with stopped := true } }
  let s := (s.allStepCtxs).foldl State.holdCtx s
  ((s.forgetRequests).clearBuffers (fun _ => true)).clearCoalescer (fun _ => true)

/-- A host command's completion event, counted (R334, R335, R345). -/
def State.hostDone (s : State) (q tag status result : Nat) : State :=
  (s.count (hubReg 5 0x120) 1).post (some (s.desc q).evq) 1 status tag q result

/-! ### Stopping a job (R338) -/

/-- A context enters HALTED; a FAULTED or PARKED one stays so (R153, R385). -/
def Ctx.stop (c : Ctx) : Ctx := if c.alive then { c with mode := .halted, wait := .none, clist := none } else c

/-- Every context of the job enters HALTED; queued commands are removed and accepted ones stopped; version pins go. -/
def State.haltContexts (s : State) : State :=
  allTiles.foldl (fun s t => if h : t < 640 then
      allCtxs.foldl (fun s c =>
        let l : Loc := ⟨⟨t, h⟩, c⟩
        if (s.ctx l).mode = .idle then s else (s.updTile t (fun x => (x.dropAll c).setCtx c (x.ctxs[c]).stop)).dropPins l) s
    else s) s

/-- The hang searches end with the job. -/
def State.endSearches (s : State) : State :=
  s.tiles.foldl (fun (s : State) (e : Nat × Tile) => match e.2.search with
    | some k => ((s.endEntry k.seq).endEntry k.dseq).updTile e.1 (fun x => { x with search := none, engStop := [] })
    | none => s.updTile e.1 (fun x => { x with expired := [] })) s

/-- The job stops: LOADED again, a cairn in progress given up with the BELAY messages of the job, and with the job the suspensions of its steps
ended: pins, an early cairn, a halt, a discard (R29, R336, R338, R374). -/
def State.endJob (s : State) : State :=
  let s := ((s.haltContexts).endSearches).forgetRequests
  let s := { s with
    job := { s.job with st := .loaded, stopReq := none, baseRun := false },
    step := { s.step with halted := none, decision := none, stopped := false, phase := 0, queried := false },
    rst := { s.rst with levelOne := false },
    inbox := s.inbox.filter (fun m => match m.body with | .belay _ => false | _ => true),
    cairn := { s.cairn with next := 0, st := 0, frozen := [], listed := [], early := false },
    emb := { s.emb with waiting := [], asked := [], plans := [], poolAsked := [] },
    belay := { s.belay with fill := 0, fillLeft := [], expOpen := [] },
    book := { s.book with target := none, replay := [], field := false, full := false, asked := false } }
  [5, 7, 8, 0xA].foldl State.endDeferrals s

/-- The job ends with a recorded event, for want of a resource that its recovery needs (R27); a START that has not completed does, as aborted. -/
def State.failJob (s : State) : State :=
  let e := ({ s.endJob with job := { s.endJob.job with startReq := none } } : State).draw
  let u := e.2.post none 7 0 0 0 e.1.toNat
  match s.job.startReq with
  | some (q, tag) => u.hostDone q tag 0xA 0
  | none => u

/-- A STOP that waited for the boundary completes. -/
def State.finishStop (s : State) : State :=
  match s.job.stopReq with
  | some (q, tag) => (s.endJob).hostDone q tag 0 0
  | none => s

/-! ### Halting, abandoning, finishing (R375 to R378) -/

/-- The device halts the job, naming an error log entry; a STOP that waits completes (R338, R378). -/
def State.haltJob (s : State) (seq : Nat) : State :=
  let s := (s.allStepCtxs).foldl (fun s l => s.updCtx l Ctx.hold) s
  let s := { s with step := { s.step with halted := some seq, phase := 4 } }
  (s.post none 7 0 0 0 seq).finishStop

/-- Every member's ID. -/
def State.memberIds (s : State) : List Nat := s.job.members.map (·.id)

/-- The last attempt of step n that the device knew: of a step that it has not entered it knows none (R376). -/
def State.knownAtt (s : State) (n : Nat) : Nat :=
  match s.step.decision with
  | some (_, m, a) => if n = m then a else 0
  | none => if n = s.step.no then s.step.att else 0

/-- The device announces "rejoin at step n" to every member (R376). -/
def State.announce (s : State) (n : Nat) : State := s.sendAll s.memberIds n (s.knownAtt n) .rejoin

/-- The device abandons its attempt for an error of a CLASS and CAUSE; in the fifth attempt in a row it halts instead (R375,
R378). -/
def State.abandon (s : State) (seq cls cause : Nat) : State :=
  let n := s.curStep
  let k := match s.rst.abandons with
    | some (n', a, c, d, k) => if n' = n ∧ s.step.att = a + 1 ∧ c = cls ∧ d = cause then k + 1 else 1
    | none => 1
  if 5 ≤ k then s.haltJob seq
  else
    let s := ({ s with rst := { s.rst with abandons := some (n, s.step.att, cls, cause, k) } } : State).count (hubReg 4 0x060) 1
    let told := s.step.reported
    let s := s.stopAttempt
    let keep := s.step.reports
    if told && decide (s.leader ≠ s.devId) then s.send s.leader n s.step.att .decisionQuery
    else ({ s with step := { s.step with reports := keep } } : State).announce n

/-- The commit point has passed for the step that tile t is in (R269). -/
def State.committedStep (s : State) (t : Nat) : Bool :=
  match s.step.decision with
  | some (d, _, _) => Decision.advances d && !(s.tile t).passed
  | none => false

/-- Writes a list of byte runs into a tile's window: false when a word of one is uncorrectable. -/
def State.writeRuns (s : State) (t : Nat) : List (Nat × List Byte) → State × Bool
  | [] => (s, true)
  | r :: rest =>
    let x := s.writeT0 (sram t r.1) r.2
    let y := x.1.writeRuns t rest
    (y.1, x.2 && y.2)

/-- Restores byte runs of a tile; one that meets an uncorrectable word is a TMEM error of the tile (R373). -/
def State.putRuns (s : State) (t : Nat) (runs : List (Nat × List Byte)) : State :=
  let x := s.writeRuns t runs
  if x.2 then x.1 else x.1.tmemError 4 t 0 0xF

/-- The save records of a section's contexts. -/
def State.saveRanges (s : State) (x : TileSection) : List (Nat × Nat) :=
  x.entries.map (fun e => (1024 * wfld (s.reg (rCsave x.tile e.1)) 12 0, 1024))

/-- The ranges that a tile's shadow holds: its committed state (R402), and its contexts' save records, which a device reset takes with
T0 and R389 needs (R173, log 70). -/
def State.shadowRanges (s : State) (x : TileSection) : List (Nat × Nat) := x.committed ++ s.saveRanges x

/-- A tile's shadowed ranges take their bytes from its shadow (R402). -/
def State.tileShadow (s : State) (t : Nat) : State :=
  match s.sectionOf t with
  | none => s
  | some x => s.putRuns t ((s.shadowRanges x).map (fun r =>
      (r.1, (List.range r.2).map (fun b => s.book.shadow.get (fun _ => 0) (sram t (r.1 + b))))))

/-- Restores a tile from the commit set: commit inputs, row gradients, and step-set contexts from their arrival records (R273). The tile's
other memory stands: what an abandonment or an error has left, or what a reset's reload has put there (R377, R389). -/
def State.restoreTile (s : State) (t : Nat) : State :=
  match s.step.commit with
  | none => s
  | some k =>
    let s := s.putRuns t ((k.inputs.filter (fun i => decide (i.1 = t))).map (·.2))
    let s := { s with emb := { s.emb with
      grads := s.emb.grads.filter (fun g => decide (g.tile ≠ t)) ++ k.grads.filter (fun g => decide (g.tile = t)) } }
    let s := (k.arrivals.filter (fun v => decide (v.loc.tile.val = t))).foldl (fun s v =>
      s.updCtx v.loc (fun c => if c.alive then { c.restore v with step := .arrived, epoch := (s.tile t).bounds } else c)) s
    if h : t < 640 then (s.stepCtxs t).foldl (fun s c =>
      let l : Loc := ⟨⟨t, h⟩, c⟩
      if (s.ctx l).alive then s.sitOut l s.curStep else s) s else s

/-- A tile finishes the step alone; a second error on it in the step escalates (R377). -/
def State.finishTile (s : State) (seq t : Nat) : State :=
  if t ∈ s.step.finished then s.escalate 1 seq
  else
    let s := { s with step := { s.step with finished := s.step.finished ++ [t] } }
    let s := if h : t < 640 then (s.stepCtxs t).foldl (fun s c => s.holdCtx ⟨⟨t, h⟩, c⟩) s else s
    ((s.forgetRequests).restoreTile t).count (hubReg 4 0x068) 1

/-- Abandon or finish, by whether the commit point has passed (R373). -/
def State.abandonOrFinish (s : State) (seq cls cause : Nat) (t : Nat) : State :=
  if s.committedStep t then s.finishTile seq t else s.abandon seq cls cause

/-! ### Decisions (R268, R269) -/

/-- The event of a decision: SKIP, DISCARD and HALT always, COMMIT every 2^EVLOG2 commits (R269, R276). -/
def State.decisionEvent (s : State) (d : Decision) (a : Nat) : State :=
  let say := match d with
    | .commit => decide (s.step.commits % 2 ^ wfld (s.reg rStepCtl) 23 20 = 0)
    | _ => true
  if say then s.post none 2 0 0 0 (Decision.code d + a * 2 ^ 48) else s

/-- Whether the job record counts a non-finite value; a device that reset after its report has it in the commit set alone (R265, R374). -/
def State.nonfinite (s : State) : Bool :=
  match s.step.jobRec, s.step.commit with
  | some r, _ => decide (0 < r.nonfin)
  | none, some k => decide (0 < k.job.nonfin)
  | none, none => false

/-- The device records the decision of step n, attempt a: its commit point for COMMIT and SKIP (R269). Each DISCARD opens an entry of its
own, with WIN 1 after a feed failure or trip that reset this device in the step (R374). -/
def State.recordDecision (s : State) (d : Decision) (n a : Nat) : State :=
  let s := s.record 4 0 0 n a [Decision.code d]
  let set := fun (s : State) (f : StepState → StepState) => { s with step := f s.step }
  let s := set s (fun p => { p with lastDec := Decision.code d, halted := (match d with | .halt => some 0 | _ => p.halted) })
  let s := match d with
    | .commit =>
      let s := set s (fun p => { p with no := n + 1, phase := 3, skipRun := 0, commits := p.commits + 1 })
      (set s (fun p => { p with decision := some (d, n, a) })).count (hubReg 8 0x040) 1
    | .skip =>
      let s := set s (fun p => { p with no := n + 1, phase := 3, skipRun := p.skipRun + 1 })
      ((set s (fun p => { p with decision := some (d, n, a) })).count (hubReg 8 0x048) 1).ensureDeferral 8 2 16 noUnit 0
    | .discard =>
      (((set s (fun p => { p with decision := some (d, n, a) })).count (hubReg 8 0x050) 1).closeDeferral 0xA none).openDeferral 0xA
        (if s.rst.levelOne then 1 else 2) 4 noUnit 0
    | .halt =>
      let s := set s (fun p => { p with phase := 4 })
      if s.nonfinite then s.ensureDeferral 8 2 16 noUnit 0 else s
  let s := if Decision.advances d then
      s.hashChange (4 :: leBytes 8 n) (4 :: leBytes 8 (n + 1)) else s
  let s := s.decisionEvent d a
  if d = .halt then s.finishStop else s

/-- The commit-gated commands that a decision other than COMMIT removes from a tile's queues, their tokens incremented
(R143). -/
def State.dropGated (s : State) (t : TileId) : State :=
  let gone := fun (k : EngCmd) => cmdCmt k.word && s.ownDecision t k
  let ks := ((s.tile t).queues.toList.map (fun q => q.filter gone)).flatten
  let s' := s.updTile t (fun x => { x with queues := x.queues.map (fun q => q.filter (fun k => !gone k)) })
  ks.foldl (fun s k => s.bumpToken (k.loc t) k.word) s'

/-- Every tile of a step set satisfies p. -/
def State.everyStepTile (s : State) (p : Tile → Bool) : Bool := s.stepTiles.all (fun t => p (s.tile t))

end Sys2Proof.Machine
end

