-- ==== Sys2Proof/Machine/Dma.lean ====
section
/-! DEFINITION. The DMA engine: descriptors, the rejection table, COPY, TRANSPOSE and FILL, and the host-link and NVMe
requests that rows in T2 and T3 need (R174 to R181, R239, R339). -/
namespace Sys2Proof.Machine

open Host (Outcome)

/-- A DMA descriptor (R176). `resv`: a reserved bit is set. -/
structure DmaDesc where
  src : Nat
  dst : Nat
  len : Nat
  rows : Nat
  planes : Nat
  esz : Nat
  srs : Nat
  drs : Nat
  sps : Nat
  dps : Nat
  pat : Nat
  resv : Bool
  deriving DecidableEq, Repr

/-- The fields of the eight words. -/
def DmaDesc.ofWords (w : List Nat) : DmaDesc :=
  let q := fun i => w.getD i 0
  { src := q 0, dst := q 1, len := fld (q 2) 63 40, rows := fld (q 2) 39 20, planes := fld (q 2) 19 8,
    esz := fld (q 2) 7 5, srs := fld (q 3) 63 24, drs := fld (q 4) 63 24, sps := fld (q 5) 63 24,
    dps := fld (q 6) 63 24, pat := q 7,
    resv := decide (fld (q 2) 4 0 ≠ 0 ∨ fld (q 3) 23 0 ≠ 0 ∨ fld (q 4) 23 0 ≠ 0 ∨ fld (q 5) 23 0 ≠ 0 ∨
      fld (q 6) 23 0 ≠ 0) }

/-- An own-tile alias address as the issuing tile's window address (R159). -/
def unalias (t a : Nat) : Nat := if aliasBase ≤ a ∧ a < aliasBase + tileSpan then t * tileSpan + (a - aliasBase) else a

/-- Whether an own-tile alias range stays inside the alias. -/
def aliasOk (a n : Nat) : Bool := if aliasBase ≤ a ∧ a < aliasBase + tileSpan then decide (a + n ≤ aliasBase + tileSpan) else true

/-- Whether the operation reads a source. -/
def dmaReads (op : Nat) : Bool := decide (op ≠ 3)

/-- Elements of a source row for TRANSPOSE (R177): nibbles count two to a byte. -/
def DmaDesc.elems (d : DmaDesc) : Nat := if d.esz = 4 then 2 * d.len else d.len / 2 ^ d.esz

/-- Bytes of a destination row: LEN, or for TRANSPOSE one element of every source row. -/
def DmaDesc.dstLen (d : DmaDesc) (op : Nat) : Nat :=
  if op = 2 then (if d.esz = 4 then d.rows / 2 else d.rows * 2 ^ d.esz) else d.len

/-- Destination rows per plane. -/
def DmaDesc.dstRows (d : DmaDesc) (op : Nat) : Nat := if op = 2 then d.elems else d.rows

/-- The length of the bounding range of the reads (R178). -/
def DmaDesc.readSpan (d : DmaDesc) : Nat := (d.planes - 1) * d.sps + (d.rows - 1) * d.srs + d.len

/-- The length of the bounding range of the writes. -/
def DmaDesc.writeSpan (d : DmaDesc) (op : Nat) : Nat :=
  (d.planes - 1) * d.dps + (d.dstRows op - 1) * d.drs + d.dstLen op

/-- The bytes that the command writes (R179). -/
def DmaDesc.total (d : DmaDesc) (op : Nat) : Nat := d.planes * d.dstRows op * d.dstLen op

/-- Whether a range lies wholly in one range of R157 and in no register block, reserved part or buffer storage. -/
def State.mapped (s : State) (a n : Nat) : Bool :=
  match tierOf a with
  | .t0 => decide (a % tileSpan + n ≤ 0x640000) && !s.inStorage (a / tileSpan) (a % tileSpan) n
  | .t1 => decide (a + n ≤ t1End)
  | .t2 => decide (a + n ≤ t2End)
  | .t3 => decide (a + n ≤ t3End)
  | .none => false

/-- Whether a range touches an accumulator store. -/
def touchesAcc (a n : Nat) : Bool :=
  decide (a < t0End) && overlaps (a % tileSpan) n sramSize 0x40000

/-- Whether the part of a range that lies in an accumulator store is whole entries: its offset there and its length (R168). -/
def entriesOk (a n : Nat) : Bool :=
  let o := a % tileSpan
  !touchesAcc a n || decide ((max o sramSize - sramSize) % 8 = 0 ∧ (min (o + n) (sramSize + 0x40000) - max o sramSize) % 8 = 0)

/-- Whether every row of a strided access takes whole entries of an accumulator store. -/
def rowsOk (a len rows planes rs ps : Nat) : Bool :=
  (List.range planes).all (fun p => (List.range rows).all (fun r => entriesOk (a + p * ps + r * rs) len))

/-- The logical block size of a handle (R240). -/
def State.blockSize (s : State) (h : Nat) : Nat := if bitOf (s.reg (rNvns h)).toNat 26 then 4096 else 512

/-- Whether a range of T3 lies in one namespace that the NVMe host engine has, as whole blocks (R174, R240, R241). -/
def State.blocksFit (s : State) (a len : Nat) : Bool :=
  let h := t3Handle a
  bitOf (s.reg (rNvns h)).toNat 0 && decide (a % s.blockSize h = 0 ∧ len % s.blockSize h = 0 ∧ a % 2 ^ 48 + len ≤ 2 ^ 48)

/-- Whether a T3 side breaks the tier rules: a row in an unknown handle, one that is no whole blocks of its namespace, or one that runs into
the next handle (R174, R180). -/
def State.t3Bad (s : State) (a len rows planes rs ps : Nat) : Bool :=
  decide (tierOf a = .t3) &&
  (List.range planes).any (fun p => (List.range rows).any (fun r => !s.blocksFit (a + p * ps + r * rs) len))

/-- The first row of the rejection table of R180 that applies once the descriptor is read: (cause, row). -/
def State.dmaReject (s : State) (t : TileId) (k : EngCmd) (d : DmaDesc) : Option (Nat × Nat) :=
  let op := cmdOp k.word
  let a := unalias t d.src
  let b := unalias t d.dst
  let rd := dmaReads op
  let wn := d.writeSpan op
  if d.resv || (if op = 2 then decide (4 < d.esz) else decide (d.esz ≠ 0)) || decide (op = 3 ∧ d.src ≠ 0) ||
     decide (op ≠ 3 ∧ d.pat ≠ 0) then some (5, 1)
  else if d.len = 0 ∨ d.rows = 0 ∨ d.planes = 0 then some (5, 2)
  else if (rd && !(aliasOk d.src d.readSpan && s.mapped a d.readSpan)) || !(aliasOk d.dst wn && s.mapped b wn) then
    some (5, 3)
  else if (rd && s.touchesReserve a d.readSpan) || s.touchesReserve b wn then some (5, 4)
  else if decide (op = 2) && (!inside b wn (sram t 0) sramSize || decide (d.esz < 4 ∧ d.len % 2 ^ d.esz ≠ 0) ||
     decide (d.esz = 4 ∧ d.rows % 2 ≠ 0) || decide (d.drs < d.dstLen op)) then some (5, 5)
  else if (rd && touchesAcc a d.readSpan && !rowsOk a d.len d.rows d.planes d.srs d.sps) ||
     (touchesAcc b wn && !rowsOk b (d.dstLen op) (d.dstRows op) d.planes d.drs d.dps) then some (5, 6)
  else if (rd && decide (tierOf a = .t3 ∧ tierOf b = .t3)) ||
     (rd && s.t3Bad a d.len d.rows d.planes d.srs d.sps) || s.t3Bad b d.len d.rows d.planes d.drs d.dps then some (5, 7)
  else if rd && overlaps a d.readSpan b wn then some (5, 8)
  else if !cmdCmt k.word && s.committedAt b wn then some (8, 0)
  else none

/-- Bytes as the accumulator store keeps them: bits [35:0] of each 8-byte word (R168). -/
def accBytes (a : Nat) (bs : List Byte) : List Byte :=
  if touchesAcc a bs.length then
    (List.range bs.length).zipWith (fun i b =>
      let w := (a + i) % tileSpan
      if w < sramSize then b
      else if w % 8 < 4 then b else if w % 8 = 4 then b &&& 0x0F else 0) bs
  else bs

/-- A write of a DMA row. -/
def State.dmaWrite (s : State) (a : Nat) (bs : List Byte) : State × Bool := s.writeMem a (accBytes a bs)

/-- The error entry of a DMA access that met an uncorrectable word or burst (R181, R373): `a` is the row's first address, which QW5 of a DMEM
entry shows and whose memory gives the cause of a TMEM entry. A TMEM entry's unit is the tile whose memory it is, which QW5 speaks of,
also where another tile's command made the access (DESIGN CHOICE, log 157). -/
def State.dmaError (s : State) (t : TileId) (k : EngCmd) (a : Nat) (partialWrite : Bool) : State :=
  match tierOf a with
  | .t0 =>
    let owner := a / tileSpan
    let cause := if partialWrite then 4 else if touchesAcc a 1 then 2 else 1
    s.logError 3 cause owner k.ctx 3 (s.reg (rEccLast owner)).toNat 0 0
  | _ => s.dmemError t k.ctx 3 a

/-- Whether a source lies in an input range that the job image declares (R415 type 0x03). -/
def State.inputRange (s : State) (a n : Nat) : Bool :=
  decide (tierOf a = .t2 ∨ tierOf a = .t3) &&
  (match s.job.img with
    | some i => i.inputRanges.any (fun r => overlaps a n r.1 r.2)
    | none => false)

/-- A read of a DMA source; what lies beyond the device has arrived by then. One of an input range is recorded, and a run that replays the record takes the recorded bytes
(R415, R418, R421). -/
def State.readSource (s : State) (t : TileId) (k : EngCmd) (a n : Nat) : State × Option (List Byte) :=
  let far := decide (tierOf a = .t2 ∨ tierOf a = .t3)
  if !s.inputRange a n || s.replaying ⟨t, k.ctx⟩ then (if far then (s, some (s.bytes a n)) else s.readMem a n)
  else
    let mine := fun (r : RtbRec) => decide (r.type = 3 ∧ r.tile = t.val ∧ r.ctx = k.ctx.val ∧ r.body.take 2 = [a, n])
    match s.book.replay.find? mine with
    | some r => ({ s with book := { s.book with replay := s.book.replay.erase r } },
        some (((r.body.drop 2).map (leBytes 8)).flatten.take n))
    | none =>
      let bs := s.bytes a n
      let p := s.pairAt (some t)
      (s.record 3 t k.ctx p.1 p.2 (a :: n :: bodyOf bs), some bs)

/-- One row of COPY or FILL: false when an error stops the command. -/
def State.dmaRow (s : State) (t : TileId) (k : EngCmd) (d : DmaDesc) (p r : Nat) : State × Bool :=
  let op := cmdOp k.word
  let b := unalias t d.dst + p * d.dps + r * d.drs
  let src := unalias t d.src + p * d.sps + r * d.srs
  let x : State × Option (List Byte) :=
    if op = 3 then (s, some ((List.range d.len).map (fun i => BitVec.ofNat 8 (d.pat >>> (8 * (i % 8))))))
    else s.readSource t k src d.len
  match x.2 with
  | none => (x.1.dmaError t k src false, false)
  | some bs =>
    let y := x.1.dmaWrite b bs
    if y.2 then (y.1, true) else (y.1.dmaError t k b true, false)

/-- Runs a list of row moves until one stops. -/
def runRows (f : State → Nat × Nat → State × Bool) (s : State) : List (Nat × Nat) → State × Bool
  | [] => (s, true)
  | x :: r =>
    let y := f s x
    if y.2 then runRows f y.1 r else (y.1, false)

/-- Reads every source row of a plane, in order; the error is the row's address. -/
def readRows (t : TileId) (k : EngCmd) (base rs len : Nat) (s : State) : List Nat → State × Except Nat (List (List Byte))
  | [] => (s, .ok [])
  | r :: rest =>
    let x := s.readSource t k (base + r * rs) len
    match x.2 with
    | none => (x.1, .error (base + r * rs))
    | some bs =>
      let y := readRows t k base rs len x.1 rest
      (y.1, y.2.map (fun l => bs :: l))

/-- Element c of a row, as a number. -/
def elemOf (esz : Nat) (row : List Byte) (c : Nat) : Nat :=
  if esz = 4 then (let b := (row.getD (c / 2) 0).toNat; if c % 2 = 0 then b % 16 else b / 16)
  else leVal ((row.drop (c * 2 ^ esz)).take (2 ^ esz))

/-- Packs nibbles two to a byte, the first in the low half (R33). -/
def packNibbles : List Nat → List Byte
  | a :: b :: r => BitVec.ofNat 8 (a % 16 + 16 * (b % 16)) :: packNibbles r
  | [a] => [BitVec.ofNat 8 (a % 16)]
  | [] => []

/-- Destination row c of a transposed plane: element c of every source row (R177). -/
def transposedRow (esz : Nat) (rows : List (List Byte)) (c : Nat) : List Byte :=
  if esz = 4 then packNibbles (rows.map (fun r => elemOf esz r c))
  else (rows.map (fun r => leBytes (2 ^ esz) (elemOf esz r c))).flatten

/-- One plane of TRANSPOSE. -/
def State.dmaPlane (s : State) (t : TileId) (k : EngCmd) (d : DmaDesc) (p : Nat) : State × Bool :=
  let base := unalias t d.src + p * d.sps
  let x := readRows t k base d.srs d.len s (List.range d.rows)
  match x.2 with
  | .error a => (x.1.dmaError t k a false, false)
  | .ok rows =>
    runRows (fun s pr =>
      let b := unalias t d.dst + pr.1 * d.dps + pr.2 * d.drs
      let y := s.dmaWrite b (transposedRow d.esz rows pr.2)
      if y.2 then (y.1, true) else (y.1.dmaError t k b true, false)) x.1
      ((List.range d.elems).map (fun c => (p, c)))

/-- Every row of a command as (plane, row). -/
def DmaDesc.allRows (d : DmaDesc) : List (Nat × Nat) :=
  ((List.range d.planes).map (fun p => (List.range d.rows).map (fun r => (p, r)))).flatten

/-- The nominal fast cycles of R179. -/
def dmaCycles (op bytes : Nat) : Nat := 12 + ceilDiv bytes (if op = 2 then 128 else 256)

/-! ### Requests on the host link and to NVMe drives -/

/-- Whether a T2 address lies in a range that is reached by unordered I/O, by the lowest range that holds it (R324, R343). -/
def State.uio (s : State) (a : Nat) : Bool :=
  let w := fun (i : Nat) => (s.reg (hubReg 6 (0x040 + 8 * i))).toNat
  match (List.range 8).find? (fun i => inside (a - t2Base) 1 (fld (w i) 63 36 * 2 ^ 30) (fld (w i) 35 8 * 2 ^ 30)) with
  | some i => bitOf (w i) 1
  | none => false

/-- A request whose `len` bytes are all still to be asked for, cut to what one request moves. -/
def Request.piece (r : Request) (tag most : Nat) (held : Bool) : Request :=
  { r with tag := tag, len := min most r.len, left := r.len - min most r.len, held := held }

/-- The rest of a request that has completed. -/
def Request.rest (r : Request) : Request := { r with addr := r.addr + r.len, len := r.left }

/-- What the host port supports, and advertises in its DVSECs (R317): device type, the widths and rates (1: 32 GT/s, 2: 64 GT/s), the bytes of a flit,
functions, MPS and MRRS in bytes, the bits of a tag and the outstanding non-posted requests, HDM ranges and decoders with their interleave
ways, back-invalidate and HDM-DB, unordered I/O, IDE, the bits of a PBR ID, the DOE protocols in the manual's order (discovery, CMA/SPDM,
secured CMA/SPDM, CDAT), and SR-IOV. -/
structure HostCaps where
  deviceType : Nat
  widths : List Nat
  rates : List Nat
  flitBytes : Nat
  latencyFlits : Bool
  functions : Nat
  maxPayload : Nat
  tagBits : Nat
  outstanding : Nat
  hdmDecoders : Nat
  hdmWays : Nat
  backInvalidate : Bool
  uio : Bool
  ide : Bool
  pbrBits : Nat
  doe : List String
  srIov : Bool
  deriving DecidableEq, Repr

/-- The capabilities of R317. -/
def hostCaps : HostCaps :=
  { deviceType := 2, widths := [16, 8, 4], rates := [1, 2], flitBytes := 256, latencyFlits := false, functions := 1, maxPayload := 512, tagBits := 14,
    outstanding := 1024, hdmDecoders := 1, hdmWays := 1, backInvalidate := false, uio := true, ide := true, pbrBits := 12,
    doe := ["discovery", "CMA/SPDM", "secured CMA/SPDM", "CDAT"], srIov := false }

/-- A host-link request of at most 512 bytes (R317, R324); a posted write goes whole, and is held here while the link serves no T2 access. -/
def State.hostRequest (s : State) (r : Request) : State × Nat :=
  let tag := s.host.nextTag
  let posted := r.write && !s.uio r.addr
  ({ s with host := { s.host with
      nextTag := tag + 1, waiting := s.host.waiting ++ [r.piece tag (if posted then r.len else hostCaps.maxPayload) posted] } }, tag)

/-- The NVMESQ of a controller: the lowest queue of class 4 that names it (R339). -/
def State.nvmeSq (s : State) (ctl : Nat) : Option Nat :=
  s.queueIds.find? (fun q => let d := s.desc q; d.valid && decide (d.cls = 4 ∧ d.ctl = ctl))

/-- The controller of a T3 address. -/
def State.nvmeCtl (s : State) (a : Nat) : Nat := fld (s.reg (rNvns (t3Handle a))).toNat 31 27

/-- The submission queue that can take a command for a T3 address now: the link serves it, and one entry stays free, by which a full
queue is told from an empty one. -/
def State.nvmeOpen (s : State) (a : Nat) : Option Nat :=
  match s.nvmeSq (s.nvmeCtl a) with
  | some q => if !s.memWaits a && decide (1 < (s.desc q).room) then some q else none
  | none => none

/-- The submission entry of a command in the ring, the new TAIL and the doorbell write (R239, R339). The data buffers lie in T1, where the
drive reaches them by the window's bus addresses, which the manual does not give: the data pointers are free values (R239, log 20). -/
def State.nvmeSubmit (s : State) (q : Nat) (r : Request) : State :=
  let h := t3Handle r.addr
  let ns := (s.reg (rNvns h)).toNat
  let prp1 := s.draw
  let prp2 := prp1.2.draw
  let s := prp2.2
  let entry := leBytes 4 ((if r.write then 1 else 2) + r.tag % 2 ^ 16 * 2 ^ 16) ++ leBytes 4 (fld ns 63 32) ++
    List.replicate 16 0 ++ leBytes 8 prp1.1.toNat ++ leBytes 8 prp2.1.toNat ++ leBytes 8 (r.addr % 2 ^ 48 / s.blockSize h) ++
    leBytes 4 (r.len / s.blockSize h - 1) ++ List.replicate 12 0
  let s := (s.useQueue q).append q entry
  let d := s.desc q
  let cfg := (s.reg (rNvctl (s.nvmeCtl r.addr))).toNat
  let at' := fld cfg 63 12 * 4096 + (2 * d.nvqid) * (4 * 2 ^ fld cfg 11 8)
  { s with out := s.out ++ [Sent.busWrite at' (leBytes 4 (d.tail % 2 ^ d.log2n))] }

/-- An NVMe I/O command of at most 128 KiB: it goes now, or is held (R239). -/
def State.nvmeRequest (s : State) (r : Request) : State × Nat :=
  let cid := s.host.nextTag
  let sq := s.nvmeOpen r.addr
  let r := r.piece cid 131072 sq.isNone
  let s := { s with host := { s.host with nextTag := cid + 1 }, qm := { s.qm with nvme := s.qm.nvme ++ [r] } }
  (match sq with | some q => s.nvmeSubmit q r | none => s, cid)

/-- The NVMe commands that are held go, in their order, as far as they can. -/
def State.nvmeFlush (s : State) : State :=
  (s.qm.nvme.filter (·.held)).foldl (fun s r => match s.nvmeOpen r.addr with
    | some q =>
      ({ s with qm := { s.qm with nvme := s.qm.nvme.map (fun x => if x.tag = r.tag then { x with held := false } else x) } } : State).nvmeSubmit q r
    | none => s) s

/-- A request of a row, or of a move: on the host link, or to a drive. -/
def State.farRequest (s : State) (r : Request) : State × Nat := if tierOf r.addr = .t3 then s.nvmeRequest r else s.hostRequest r

/-- Changes the accepted DMA command of a serial number. -/
def State.updDma (s : State) (t : TileId) (serial : Nat) (f : Active → Active) : State :=
  s.updTile t (fun x => x.setAct 3 ((x.act 3).map (fun a => if a.cmd.serial = serial then f a else a)))

/-- A row's request, on which its command then waits. -/
def State.rowRequest (s : State) (t : TileId) (serial : Nat) (r : Request) : State :=
  let y := s.farRequest r
  y.1.updDma t serial (fun a => { a with waits := a.waits ++ [y.2] })

/-- Whether a command reaches beyond T0 and T1. -/
def DmaDesc.outside (d : DmaDesc) (t : TileId) (op : Nat) : Bool :=
  let far := fun a => decide (tierOf a = .t2 ∨ tierOf a = .t3)
  (dmaReads op && far (unalias t d.src)) || far (unalias t d.dst)

/-- The work of an accepted command whose ranges lie in T0 and T1: all of it, row by row. -/
def State.dmaNear (s : State) (t : TileId) (k : EngCmd) (d : DmaDesc) : State × Bool :=
  if cmdOp k.word = 2 then runRows (fun s p => s.dmaPlane t k d p.1) s ((List.range d.planes).map (fun p => (p, 0)))
  else runRows (fun s pr => s.dmaRow t k d pr.1 pr.2) s d.allRows

/-- A row moves: for TRANSPOSE every plane, once no row is waited for. An error stops the command. -/
def State.finishRow (s : State) (t : TileId) (k : EngCmd) (d : DmaDesc) (p r : Nat) : State :=
  let idle := ((s.tile t).act 3).any (fun a => decide (a.cmd.serial = k.serial) && a.waits.isEmpty)
  let y := if cmdOp k.word ≠ 2 then s.dmaRow t k d p r
    else if idle then s.dmaNear t k d else (s, true)
  if y.2 then y.1 else y.1.updDma t k.serial (fun a => { a with stopped := true, waits := [] })

/-- A row whose bytes are at hand: it moves, or its write goes to a drive or over the host link first. A posted write needs no completion
(R324). -/
def State.writeStage (s : State) (t : TileId) (k : EngCmd) (d : DmaDesc) (p r : Nat) : State :=
  let b := unalias t d.dst + p * d.dps + r * d.drs
  let q : Request := ⟨0, some t, k.serial, p, r, b, d.dstLen (cmdOp k.word), 0, true, false⟩
  match tierOf b with
  | .t3 => s.rowRequest t k.serial q
  | .t2 => if s.uio b || !s.hostUp then s.rowRequest t k.serial q else s.finishRow t k d p r
  | _ => s.finishRow t k d p r

/-- Starts a row: its read from beyond the device, or what follows it. A command that an error has stopped starts no more. -/
def State.startRow (s : State) (t : TileId) (k : EngCmd) (d : DmaDesc) (pr : Nat × Nat) : State :=
  let a := unalias t d.src + pr.1 * d.sps + pr.2 * d.srs
  if ((s.tile t).act 3).any (fun a => decide (a.cmd.serial = k.serial) && a.stopped) then s
  else if dmaReads (cmdOp k.word) && decide (tierOf a = .t2 ∨ tierOf a = .t3) then
    s.rowRequest t k.serial ⟨0, some t, k.serial, pr.1, pr.2, a, d.len, 0, false, false⟩
  else s.writeStage t k d pr.1 pr.2

/-- Whether a hang search's replay suppresses the write: one outside its own tile window (R383). -/
def State.replayHides (s : State) (l : Loc) (b : Nat) : Bool :=
  s.replaying l && decide (¬ (sram l.tile 0 ≤ b ∧ b < sram l.tile 0 + tileSpan))

/-- In base camp mode the engines do not reach T1 or T3: a command that names either waits (R445). -/
def State.baseWaits (s : State) (rs : List (Nat × Nat)) : Bool :=
  s.mgmt.base && rs.any (fun r => decide (tierOf r.1 = .t1 ∨ tierOf r.1 = .t3))

/-- What the DMA engine does with the command at the head of its queue: with four active, or a range conflict with an
active one, it waits; it rejects by R180; otherwise it runs (R178). -/
def State.dmaWork (t : TileId) (k : EngCmd) (s : State) : State :=
  let e : Fin 6 := 3
  let op := cmdOp k.word
  let off := 64 * cmdFld k.word 127 111
  if 4 ≤ ((s.tile t).act e).length then s
  else if op = 0 ∨ 3 < op ∨ cmdFld k.word 110 32 ≠ 0 then s.rejectCmd t e k 5 1
  else if !s.sramOk t off 64 then s.rejectCmd t e k 5 3
  else
    let x := s.readT0 (sram t off) 64
    match x.2 with
    | none => (((x.1.accept t e (Active.of k 0)).stopLast t e).dmaError t k (sram t off) false)
    | some bs =>
      let words := (chunks 8 8 bs).map leVal
      let d := DmaDesc.ofWords words
      let s := x.1
      match s.dmaReject t k d with
      | some (c, row) => s.rejectCmd t e k c row
      | none =>
        let a := unalias t d.src
        let b := unalias t d.dst
        let rd : List (Nat × Nat) := if dmaReads op then [(a, d.readSpan)] else []
        let wr := [(b, d.writeSpan op)]
        let clash := ((s.tile t).act e).any (fun o =>
          wr.any (fun w => (o.reads ++ o.writes).any (fun y => overlaps w.1 w.2 y.1 y.2)) ||
          rd.any (fun w => o.writes.any (fun y => overlaps w.1 w.2 y.1 y.2)))
        if clash || s.baseWaits (rd ++ wr) then s
        else
          let act : Active := { Active.of k (dmaCycles op (d.total op)) with
            desc := words, reads := rd, writes := wr, bytes := d.total op }
          if s.replayHides (k.loc t) b then s.accept t e { act with bytes := 0 }
          else if d.outside t op then
            d.allRows.foldl (fun s pr => s.startRow t k d pr) (s.accept t e act)
          else
            let y := (s.accept t e act).dmaNear t k d
            if y.2 then y.1 else y.1.stopLast t e

/-- COPY (R177); the row also rejects a reserved operation code at the head of the queue. -/
def execCopy (t : TileId) (s : State) : Outcome State Fault Refusal :=
  .next (s.atHead t 3 (fun op => decide (op ≠ 2 ∧ op ≠ 3)) (State.dmaWork t))

/-- TRANSPOSE. -/
def execTranspose (t : TileId) (s : State) : Outcome State Fault Refusal :=
  .next (s.atHead t 3 (fun op => decide (op = 2)) (State.dmaWork t))

/-- FILL. -/
def execFill (t : TileId) (s : State) : Outcome State Fault Refusal :=
  .next (s.atHead t 3 (fun op => decide (op = 3)) (State.dmaWork t))

/-! ### Completions of requests (R181, R241, R324) -/

/-- The accepted DMA command that a request belongs to. -/
def State.dmaOf (s : State) (r : Request) : Option (TileId × Active) :=
  match r.tile with
  | none => none
  | some t => ((s.tile t).act 3).find? (fun a => decide (a.cmd.serial = r.serial)) |>.map (fun a => (t, a))

/-- A row's request has completed: the rest of the row is asked for, or its write follows its read, or it moves. While writes stop nothing
moves (R32). -/
def State.rowArrived (s : State) (r : Request) : State :=
  match s.dmaOf r with
  | none => s
  | some (t, a) =>
    if a.stopped || s.writesStop then s
    else
      let k := a.cmd
      let d := DmaDesc.ofWords a.desc
      let s := s.updDma t k.serial (fun a => { a with waits := a.waits.filter (fun x => decide (x ≠ r.tag)) })
      if 0 < r.left then s.rowRequest t k.serial r.rest
      else if r.write then s.finishRow t k d r.plane r.row
      else s.writeStage t k d r.plane r.row

/-- A request that failed stops its command; rows already written stay (R181). -/
def State.rowFailed (s : State) (r : Request) (cause status : Nat) : State :=
  match s.dmaOf r with
  | none => s
  | some (t, a) =>
    (s.updDma t a.cmd.serial (fun a => { a with stopped := true, waits := [] })).logError 6 cause t a.cmd.ctx 3 r.addr status 0

/-- The requests that the host port has out: the first 1,024 that want a completion (R317). -/
def State.hostOut (s : State) : List Request := (s.host.waiting.filter (fun r => !r.held)).take hostCaps.outstanding

/-- The outstanding host-link request of a tag. -/
def State.hostReq (s : State) (tag : Nat) : Option Request := s.hostOut.find? (fun r => decide (r.tag = tag))

/-- Forgets a host-link request. -/
def State.dropHostReq (s : State) (tag : Nat) : State :=
  { s with host := { s.host with waiting := s.host.waiting.filter (fun r => decide (r.tag ≠ tag)) } }

end Sys2Proof.Machine
end

