-- ==== Sys2Proof/Machine/Buffer.lean ====
section
/-! DEFINITION. Additions into the storage of reduction buffers (R249 to R251, R254). The storage holds one 16-byte wide
sum for each element. -/
namespace Sys2Proof.Machine

/-- Where the wide sum of element i lies. -/
def BufDesc.elemAt (b : BufDesc) (i : Nat) : Nat := sram b.tile (b.store + 16 * i)

/-- The wide sum of element i of a buffer (R243). -/
def State.wideSum (s : State) (b : BufDesc) (i : Nat) : Int := toSigned 128 (s.peek (b.elemAt i) 16)

/-- Adds an integer into element i: false when a word of the sum is uncorrectable. Counted in RU_CNT_BADD (R261). -/
def State.addWide (s : State) (b : BufDesc) (i : Nat) (v : Int) : State × Bool :=
  let x := s.readT0 (b.elemAt i) 16
  match x.2 with
  | none => (x.1, false)
  | some bs =>
    let w := ofSigned 128 (toSigned 128 (leVal bs) + v)
    (((x.1.writeT0 (b.elemAt i) (leBytes 16 w)).1).count (tileReg b.tile 3 0x048) 1, true)

/-- Whether the sums of n elements from `first` on can be read; with an uncorrectable word among them the step does not commit (R165). -/
def State.sumsRead (s : State) (b : BufDesc) (first n : Nat) : State × Bool :=
  let y := s.readT0 (b.elemAt first) (16 * n)
  match y.2 with
  | some _ => (y.1, true)
  | none => ((y.1.barCommit (y.1.pairAt (some b.tile))).tmemError 1 b.tile 0 0xF, false)

/-- The number of the buffer on a tile whose input window holds a range of SRAM offsets whole (R249). -/
def State.windowOf (s : State) (t off n : Nat) : Option Nat :=
  (List.range s.buffers.length).find? (fun i => match s.bufDesc i with
    | some b => decide (b.tile = t) && inside off n b.store (8 * b.nelem)
    | none => false)

/-- A value drained into element i of buffer n (R249, R250): converted, counted and added; false when the buffer's
storage has an uncorrectable word. -/
def State.drainInto (s : State) (n : Nat) (b : BufDesc) (i : Nat) (v : Val) : State × Bool :=
  let r := toFx96 v b.lsbe
  let s := s.updBuf n (fun k => { k with
    nonfin := k.nonfin + (if r.2.1 then 1 else 0), clamps := k.clamps + (if r.2.2 then 1 else 0) })
  let s := if r.2.2 then s.count (tileReg b.tile 3 0x060) 1 else s
  s.addWide b i r.1

end Sys2Proof.Machine
end

