-- ==== Sys2Proof/Machine/Tables.lean ====
section
/-! DEFINITION. Embedding tables: descriptors, rows, owners, home tiles, the row directory and the hot sets (R183 to R190,
R220 to R227). -/
namespace Sys2Proof.Machine

/-- A table descriptor (R184), `stride` in bytes. -/
structure TableDesc where
  d : Nat
  fmt : Nat
  stride : Nat
  m1 : Bool
  res : Bool
  urnd : Nat
  opt : Nat
  hash : Bool
  vcnt : Nat
  place : Nat
  lsbe : Int
  nrows : Nat
  nsh : Nat
  shrows : Nat
  tbase : Nat
  nt : Nat
  shmap : Nat
  vbase : List Nat
  deriving DecidableEq, Repr

/-- The fields of a descriptor's words. -/
def TableDesc.ofWords (w : List Nat) : TableDesc :=
  let q := fun i => w.getD i 0
  { d := 4 * (fld (q 0) 63 56 + 1), fmt := fld (q 0) 55 52, stride := 64 * fld (q 0) 51 40, m1 := bitOf (q 0) 39,
    res := bitOf (q 0) 38, urnd := fld (q 0) 37 35, opt := fld (q 0) 34 31, hash := bitOf (q 0) 30,
    vcnt := fld (q 0) 29 28 + 1, place := fld (q 0) 27 24, lsbe := toSigned 16 (fld (q 0) 23 8),
    nrows := fld (q 1) 63 24, nsh := fld (q 1) 23 12 + 1, shrows := fld (q 2) 63 24, tbase := fld (q 2) 23 14,
    nt := fld (q 2) 13 4 + 1, shmap := q 3, vbase := [q 4, q 5, q 6, q 7] }

/-- A tier descriptor (R222). -/
structure TierDesc where
  dirLog : Nat
  prom : Nat
  dirBase : List Nat
  poolBase : Nat
  poolRows : Nat
  mirBase : Nat
  mirSets : Nat
  deriving DecidableEq, Repr

/-- The fields of a tier descriptor's words. -/
def TierDesc.ofWords (w : List Nat) : TierDesc :=
  let q := fun i => w.getD i 0
  { dirLog := fld (q 0) 63 58, prom := fld (q 0) 57 50, dirBase := [q 1, q 2, q 3, q 4], poolBase := q 5,
    poolRows := fld (q 6) 63 24, mirBase := fld (q 7) 63 44 * unit16M, mirSets := fld (q 7) 43 20 }

/-- Table n of the job. -/
def State.table (s : State) (n : Nat) : Option TableDesc :=
  s.job.img.bind (fun i => (i.tables[n]?).map TableDesc.ofWords)

/-- The number of tables. -/
def State.nTables (s : State) : Nat := match s.job.img with | some i => i.tables.length | none => 0

/-- The tier descriptor of table n. -/
def State.tierDesc (s : State) (n : Nat) : TierDesc :=
  .ofWords ((s.job.img.bind (fun i => i.tiers[n]?)).getD [])

/-! ### Rows (R186 to R188) -/

/-- Bytes of a vector element. -/
def TableDesc.width (d : TableDesc) : Nat := if d.fmt = 1 then 4 else if d.fmt = 2 then 2 else 1

/-- n rounded up to a multiple of 16. -/
def ru16 (n : Nat) : Nat := 16 * ceilDiv n 16

/-- The offset of the first moment. -/
def TableDesc.o1 (d : TableDesc) : Nat := 16 + ru16 (d.d * d.width)

/-- The offset of the residue. -/
def TableDesc.o2 (d : TableDesc) : Nat := if d.m1 then d.o1 + ru16 (4 + d.d) else d.o1

/-- The row size: the end of the last present segment. -/
def TableDesc.rowSize (d : TableDesc) : Nat :=
  if d.res then d.o2 + 2 * d.d else if d.m1 then d.o1 + 4 + d.d else 16 + d.d * d.width

/-- The header of a row as a number. -/
def headerOf (row : List Byte) : Nat := leVal (row.take 16)

/-- LIVE. -/
def rowLive (row : List Byte) : Bool := bitOf (headerOf row) 40

/-- DIRTY. -/
def rowDirty (row : List Byte) : Bool := bitOf (headerOf row) 41

/-- CPEND. -/
def rowCpend (row : List Byte) : Bool := bitOf (headerOf row) 42

/-- VER. -/
def rowVer (row : List Byte) : Nat := fld (headerOf row) 39 0

/-- The row with another header. -/
def withHeader (row : List Byte) (h : Nat) : List Byte := leBytes 16 h ++ row.drop 16

/-- The value of element e of a row's vector (R188). -/
def TableDesc.elem (d : TableDesc) (row : List Byte) (e : Nat) : Val :=
  let h := headerOf row
  let x := leVal ((row.drop (16 + e * d.width)).take d.width)
  match d.fmt with
  | 1 => decodeFmt .fp32 x
  | 2 => decodeFmt .fs16 x
  | 0xB => q8Val x (decodeFmt .fp32 (fld h 95 64)) (decodeFmt .fp32 (fld h 127 96))
  | 0xC => mulVal (decodeFmt .fs8e4 x) (decodeFmt .fs16 (fld h 79 64))
  | _ => mulVal (decodeFmt .fs8e5 x) (decodeFmt .fs16 (fld h 79 64))

/-! ### Owners and home tiles (R189, R190) -/

/-- The shard of a global index. -/
def TableDesc.shard (d : TableDesc) (x : Nat) : Nat :=
  if d.hash then (x * 0x9E3779B97F4A7C15 % 2 ^ 64 / 2 ^ 32) % d.nsh else x / d.shrows

/-- The owner device of an index. -/
def State.ownerOf (s : State) (d : TableDesc) (x : Nat) : Nat := s.peek (d.shmap + 2 * d.shard x) 2 % 4096

/-- The owner devices of a table. -/
def State.owners (s : State) (d : TableDesc) : List Nat :=
  ((List.range d.nsh).map (fun i => s.peek (d.shmap + 2 * i) 2 % 4096)).eraseDups

/-- The home tile of an index. -/
def TableDesc.home (d : TableDesc) (x : Nat) : Nat := d.tbase + x % d.nt

/-- The direct location of a row of version slot v, under range sharding. -/
def TableDesc.direct (d : TableDesc) (v x : Nat) : Nat := d.vbase.getD v 0 + x % d.shrows * d.stride

/-! ### Version slots (R210, R213) -/

/-- The states of a table's slots; with no job started slot 0 is CURRENT and the others are unused. -/
def State.slotStates (s : State) (t : Nat) : List Nat := s.emb.slots.get (fun _ => [0, 3, 3, 3]) t

/-- The state of a slot. -/
def State.slotState (s : State) (t v : Nat) : Nat := (s.slotStates t).getD v 3

/-- Sets the state of a slot. -/
def State.setSlotState (s : State) (t v x : Nat) : State :=
  { s with emb := { s.emb with slots := s.emb.slots.put (fun _ => [0, 3, 3, 3]) t ((s.slotStates t).set v x) } }

/-- The CURRENT slot as it stands. -/
def State.currentNow (s : State) (t : Nat) : Nat := (s.slotStates t).findIdx (· = 0)

/-- Whether a step is being skipped: its switches wait for the next step (R213). -/
def State.skipping (s : State) (n : Nat) : Bool :=
  match s.step.decision with
  | some (d, m, _) => decide (d = .skip ∧ m = n)
  | none => false

/-- The slot that is CURRENT in step n: switches of earlier steps count (R213). -/
def State.currentAt (s : State) (t n : Nat) : Nat :=
  match (s.emb.switches.filter (fun (w : Nat × Nat × Nat) => decide (w.1 = t ∧ w.2.2 < n) && !s.skipping w.2.2)).getLast? with
  | some w => w.2.1
  | none => s.currentNow t

/-! ### The row directory (R223, R224) -/

/-- h of R224. -/
def rowHash (t x : Nat) : Nat := (x + t * 2 ^ 40) * 0xC2B2AE3D27D4EB4F % 2 ^ 64

/-- The addresses of the 32 entries that a lookup probes, in order. -/
def TierDesc.probes (k : TierDesc) (t v x : Nat) : List Nat :=
  if k.dirLog = 0 ∨ k.dirBase.getD v 0 = 0 then []
  else
    let b0 := rowHash t x / 2 ^ (64 - k.dirLog)
    ((List.range 16).map (fun i =>
      let b := k.dirBase.getD v 0 + 64 * ((b0 + i) % 2 ^ k.dirLog)
      [b, b + 32])).flatten

/-- The entry at an address, as a number. -/
def State.dirEntry (s : State) (a : Nat) : Nat := s.peek a 32

/-- The address of the directory entry of a row, if it has one. A base camp job looks in none: its rows are read from their direct locations
(R447). -/
def State.findEntry (s : State) (t v x : Nat) : Option Nat :=
  if s.job.baseRun then none
  else ((s.tierDesc t).probes t v x).find? (fun a => let e := s.dirEntry a; bitOf e 0 && decide (fld e 127 88 = x))

/-- An entry's number from its fields. -/
def mkEntry (loc back x age hits : Nat) (moving : Bool) : Nat :=
  loc * 2 ^ 192 + back * 2 ^ 128 + x * 2 ^ 88 + age % 2 ^ 16 * 2 ^ 72 + min hits 255 * 2 ^ 64 +
  (if moving then 2 else 0) + 1

/-- Writes an entry; a burst that cannot be read for it is an error of the home tile (R171). -/
def State.putEntry (s : State) (h a e : Nat) : State := s.storeMem h a (leBytes 32 e)

/-- Where a row of a version slot lies, T0 replicas aside: by its directory entry, or direct; none when a hash-sharded
row has no entry (R220, R224). -/
def State.rowLoc (s : State) (t v x : Nat) : Option Nat :=
  match s.table t with
  | none => none
  | some d =>
    match s.findEntry t v x with
    | some a => some (fld (s.dirEntry a) 255 192)
    | none => if d.hash then none else some (d.direct v x)

/-! ### Hot sets (R226, R227) -/

/-- EMB_HOT_CFG of a tile. -/
def State.hotCfg (s : State) (h : Nat) : Nat := (s.reg (tileReg h 6 0x010)).toNat

/-- The offset of way w of the set of a row. -/
def hotWayAt (cfg t x w : Nat) : Nat :=
  64 * fld cfg 63 47 + 64 * (rowHash t x / 2 ^ 16 % 2 ^ fld cfg 46 43) + 16 * w

/-- The offset of the row slot of way w of the set of a row. -/
def hotRowAt (cfg t x w : Nat) : Nat :=
  64 * (fld cfg 41 25 + (4 * (rowHash t x / 2 ^ 16 % 2 ^ fld cfg 46 43) + w) * fld cfg 24 13)

/-- A hot-set entry's number. -/
def mkHot (t v x hits : Nat) : Nat := x * 2 ^ 88 + t * 2 ^ 82 + v * 2 ^ 80 + min hits 255 * 2 ^ 72 + 1

/-- The way of a home tile's hot set that holds a row. -/
def State.hotWay (s : State) (h t v x : Nat) : Option Nat :=
  let cfg := s.hotCfg h
  if !bitOf cfg 42 then none
  else [0, 1, 2, 3].find? (fun w =>
    let e := s.peek (sram h (hotWayAt cfg t x w)) 16
    bitOf e 0 && decide (fld e 127 88 = x ∧ fld e 87 82 = t ∧ fld e 81 80 = v))

/-- The address of a row's T0 replica. -/
def State.hotRow (s : State) (h t v x : Nat) : Option Nat :=
  (s.hotWay h t v x).map (fun w => sram h (hotRowAt (s.hotCfg h) t x w))

/-- The T0 replica of a row that reads and updates use: readers of a slot that is READY go to the directory or the direct address, where
an entry of a slot that was CURRENT may be left over (R238). -/
def State.replica (s : State) (d : TableDesc) (t v x : Nat) : Option Nat :=
  if s.slotState t v = 0 then s.hotRow (d.home x) t v x else none

/-- The address that a row is read and updated at now: its T0 replica, or its location (R195, R206). -/
def State.rowAt (s : State) (t v x : Nat) : Option Nat :=
  match s.table t with
  | none => none
  | some d =>
    match s.replica d t v x with
    | some a => some a
    | none => s.rowLoc t v x

/-- A list up to the first member that satisfies p, that one with it. -/
def upTo (p : Nat → Bool) : List Nat → List Nat
  | [] => []
  | a :: r => if p a then [a] else a :: upTo p r

/-- What a lookup in the row directory reads: the entries up to the row's own (R224). -/
def State.dirReads (s : State) (t v x : Nat) : List (Nat × Nat) :=
  if s.job.baseRun then []
  else (upTo (fun a => let e := s.dirEntry a; bitOf e 0 && decide (fld e 127 88 = x)) ((s.tierDesc t).probes t v x)).map (fun a => (a, 32))

/-- What a lookup in a hot set reads: the granule of the row's set (R226). -/
def State.hotReads (s : State) (d : TableDesc) (t x : Nat) : List (Nat × Nat) :=
  let h := d.home x
  if bitOf (s.hotCfg h) 42 then [(sram h (hotWayAt (s.hotCfg h) t x 0), 64)] else []

/-- What a lookup of a row on its own device reads: its hot set, and, without a replica, the directory. -/
def State.lookupReads (s : State) (d : TableDesc) (t v x : Nat) : List (Nat × Nat) :=
  s.hotReads d t x ++ (if (s.replica d t v x).isSome then [] else s.dirReads t v x)

/-- What a lookup of both images of a row reads. -/
def State.imageReads (s : State) (d : TableDesc) (t v x : Nat) : List (Nat × Nat) := s.hotReads d t x ++ s.dirReads t v x

/-- What a lookup of any row reads: its entry in the shard map, and on its owner what finds it and its header (R189, R193). -/
def State.rowReads (s : State) (d : TableDesc) (t v x : Nat) : List (Nat × Nat) :=
  (d.shmap + 2 * d.shard x, 2) ::
  (if s.ownerOf d x = s.devId then s.lookupReads d t v x ++ ((s.rowAt t v x).map (fun a => (a, 16))).toList else [])

/-- The home tile of a row as a unit of the device, for counters of its EMB_ block. -/
def embCnt (h off : Nat) : Nat := tileReg h 6 off

end Sys2Proof.Machine
end

