-- ==== Sys2Proof/Machine/Reduce.lean ====
section
/-! DEFINITION. Order-free sums across devices: buffers close, shards and trees complete, the coalescer reduces, tallies and
norm partials are exchanged, and the job record forms (R199 to R204, R251 to R260). -/
namespace Sys2Proof.Machine

open Host (Outcome)

/-! ### Ranks and shards (R252) -/

/-- Inserts a number in ascending order. -/
def insNat (x : Nat) : List Nat → List Nat
  | [] => [x]
  | y :: r => if x ≤ y then x :: y :: r else y :: insNat x r

/-- The numbers in ascending order. -/
def sortNat (l : List Nat) : List Nat := l.foldr insNat []

/-- The members in rank order. -/
def State.ranked (s : State) : List Nat := sortNat s.memberIds

/-- The elements of shard j of n elements over p members: first and count. -/
def shardOf (n p j : Nat) : Nat × Nat := (j * n / p, (j + 1) * n / p - j * n / p)

/-- This device's shard of a buffer. -/
def State.ownShard (s : State) (b : BufDesc) : Nat × Nat :=
  shardOf b.nelem s.job.members.length ((s.ranked).findIdx (· = s.devId))

/-- Cuts a range into pieces of at most 4,096 elements, the most one message carries (R300). -/
def pieces (first n : Nat) : List (Nat × Nat) :=
  (List.range (ceilDiv n 4096)).map (fun i => (first + 4096 * i, min 4096 (n - 4096 * i)))

/-- The sums of a range of elements. -/
def State.sums (s : State) (b : BufDesc) (first n : Nat) : List Int :=
  (List.range n).map (fun i => s.wideSum b (first + i))

/-! ### Writes that the hub makes into tile SRAM -/

/-- A write of the hub into a tile's SRAM; one that meets an uncorrectable word is a TMEM error of that tile (R373). -/
def State.hubWrite (s : State) (t off : Nat) (bs : List Byte) : State :=
  let x := s.writeT0 (sram t off) bs
  if x.2 then x.1 else x.1.tmemError 4 t 0 0xF

/-! ### Completion of buffers (R255, R258, R259) -/

/-- The reduction header (R257): NLSBE, EMBNORM and the offset of the job record. -/
def State.redHeader (s : State) : Int × Bool × Nat :=
  let q := ((s.job.img.map (·.redHeader)).getD []).getD 0 0
  (toSigned 16 (fld q 63 48), bitOf q 47, 64 * fld q 46 30)

/-- Adds a value to the squares of the device's norm partial: non-finite ones count instead (R257). -/
def State.addSquare (s : State) (g : Val) : State :=
  let r := toFx96 (mulVal g g) (s.redHeader).1
  let n := fun (p : Bool) => if p then 1 else 0
  { s with emb := { s.emb with
      squares := s.emb.squares + r.1, nonfin := s.emb.nonfin + n (!g.isFin),
      clamps := s.emb.clamps + n (r.2.2 || (g.isFin && r.2.1)) } }

/-- Whether a buffer's reduction is complete on this device. -/
def State.bufDone (s : State) (n : Nat) : Bool := (s.buf n).complete

/-- Writes a completed buffer's record (R255). -/
def State.writeRecord (s : State) (n : Nat) (b : BufDesc) : State :=
  let k := s.buf n
  let sh := if b.mode = 0 then s.ownShard b else (0, 0)
  s.hubWrite b.tile b.rrec (leBytes 8 k.clamps ++ leBytes 8 (k.nonfin + k.infs) ++ leBytes 4 sh.2 ++ leBytes 4 sh.1 ++
    List.replicate 40 0)

/-- The tables of which this device owns rows. -/
def State.ownTables (s : State) : List Nat :=
  (List.range s.nTables).filter (fun t => match s.table t with
    | some d => decide (s.devId ∈ s.owners d)
    | none => false)

/-- The device's norm partial (R257). -/
def State.partialRec (s : State) : JobRec :=
  let bs := (List.range s.buffers.length).map s.buf
  { squares := s.emb.squares, nonfin := s.emb.nonfin + (bs.map (·.nonfin)).sum,
    clamps := s.emb.clamps + (bs.map (·.clamps)).sum, step := s.curStep }

/-- Every reduction of the step is complete on this device. -/
def State.reductionsDone (s : State) : Bool :=
  (List.range s.buffers.length).all s.bufDone && (s.ownTables).all (fun t => decide (t ∈ s.emb.reduced))

/-- The bytes of a job record (R258). -/
def State.jobRecBytes (s : State) (r : JobRec) : List Byte :=
  leBytes 8 (fxTo .fp64 r.squares (s.redHeader).1) ++ leBytes 8 r.nonfin ++ leBytes 8 r.clamps ++
  leBytes 16 (ofSigned 128 r.squares) ++ leBytes 8 r.step ++ List.replicate 16 0

/-- Writes the job record into every tile of every step set (R258). -/
def State.setJobRec (s : State) (r : JobRec) : State :=
  let bs := s.jobRecBytes r
  let s := { s with step := { s.step with jobRec := some r } }
  (s.stepTiles).foldl (fun s t => s.hubWrite t (s.redHeader).2.2 bs) s

/-- Forms the job record once every member's partial is there, unless a second partial spoilt it (R258). -/
def State.formJobRec (s : State) : State :=
  let ps := s.step.partials
  if s.step.spoilt || s.step.jobRec.isSome || !(s.memberIds.all (fun d => ps.any (fun p => decide (p.1 = d)))) then s
  else
    s.setJobRec (ps.foldl (fun a p =>
      { a with squares := a.squares + p.2.squares, nonfin := a.nonfin + p.2.nonfin, clamps := a.clamps + p.2.clamps })
      ⟨0, 0, 0, s.curStep⟩)

/-- Sends the norm partial to every member once every reduction is complete (R258). -/
def State.maybePartial (s : State) : State :=
  if s.step.partialSent || s.step.stopped || s.step.decision.isSome || !s.learning s.curStep || !s.everyStepTile (·.arrived) || !s.reductionsDone then s
  else
    let r := s.partialRec
    let s := s.sendAll s.others s.curStep s.step.att (.normPartial r.squares r.nonfin r.clamps)
    ({ s with step := { s.step with partialSent := true, partials := s.step.partials ++ [(s.devId, r)] } } : State).formJobRec

/-- Whether every element of a buffer's OUT has been written, however the ranges that came overlap (R255). -/
def BufState.outFull (k : BufState) (nelem : Nat) : Bool :=
  (List.range nelem).all (fun i => k.outCov.any (fun r => decide (r.2.1 ≤ i ∧ i < r.2.1 + r.2.2)))

/-- Marks a buffer complete when all of its result stands in OUT, or its own shard under RS. -/
def State.finishBuffer (s : State) (n : Nat) (b : BufDesc) : State :=
  let k := s.buf n
  let ready := k.shardDone && (decide (b.kind = 0) || k.outFull b.nelem)
  if ready && !k.complete then ((s.updBuf n (fun k => { k with complete := true })).writeRecord n b).maybePartial else s

/-- Writes FP32 results into OUT from element `first` on, and counts them as covered. -/
def State.writeResults (s : State) (n : Nat) (b : BufDesc) (src first : Nat) (vals : List Nat) : State :=
  let s := s.hubWrite b.tile (b.out + 4 * first) ((vals.map (leBytes 4)).flatten)
  s.updBuf n (fun k => { k with outCov := k.outCov ++ [(src, first, vals.length)] })

/-- Whether the own shard of a closed buffer has every element of every other member (R254). -/
def State.shardCovered (s : State) (n : Nat) (b : BufDesc) : Bool :=
  let k := s.buf n
  let sh := s.ownShard b
  k.closed && (s.others).all (fun d =>
    decide (((k.covered.filter (fun r => decide (r.1 = d))).map (·.2.2)).sum = sh.2))

/-- The owner's shard completes: results into OUT, squares, and under AR to every member (R255). -/
def State.completeShard (s : State) (n : Nat) (b : BufDesc) : State :=
  let sh := s.ownShard b
  let y := s.sumsRead b sh.1 sh.2
  if (s.buf n).shardDone || s.step.decision.isSome || !s.shardCovered n b then s
  else if !y.2 then y.1
  else
    let s := y.1
    let vals := (s.sums b sh.1 sh.2).map (fun v => fxTo .fp32 v b.lsbe)
    let s := s.writeResults n b s.devId sh.1 vals
    let infs := (vals.filter (fun v => (v32 v).isInf)).length
    let s := s.updBuf n (fun k => { k with shardDone := true, infs := k.infs + infs })
    let s := if b.norm then vals.foldl (fun s v => s.addSquare (v32 v)) s else s
    let s := if b.kind = 1 then (pieces sh.1 sh.2).foldl (fun s p =>
        s.sendAll s.others s.curStep s.step.att (.redResult n p.1 ((vals.drop (p.1 - sh.1)).take p.2))) s else s
    s.finishBuffer n b

/-! ### The fixed tree (R259) -/

/-- The device of a rank in membership order. -/
def State.treeDev (s : State) (r : Nat) : Nat := s.memberIds.getD r 0

/-- This device's rank in membership order. -/
def State.treeRank (s : State) : Nat := s.memberIds.findIdx (· = s.devId)

/-- Whether this device is the E640 member of lowest rank in membership order. -/
def State.lowestE640 (s : State) : Bool :=
  match s.job.members.find? (fun m => decide (m.kind = 0)) with
  | some m => decide (m.id = s.devId)
  | none => false

/-- Sends FP32 values of a MODE 1 buffer with a tree distance. -/
def State.sendTree (s : State) (n dst dist : Nat) (vals : List Nat) : State :=
  (pieces 0 vals.length).foldl (fun s p =>
    s.send dst s.curStep s.step.att (.treeValue n p.1 dist ((vals.drop p.1).take p.2))) s

/-- The final values of a MODE 1 buffer arrive, or are formed at rank 0; an element counts when it comes first. -/
def State.treeResult (s : State) (n : Nat) (b : BufDesc) (first : Nat) (vals : List Nat) : State :=
  let cov := (s.buf n).outCov
  let fresh := (vals.zip (List.range vals.length)).filterMap (fun v =>
    if cov.any (fun r => decide (r.2.1 ≤ first + v.2 ∧ first + v.2 < r.2.1 + r.2.2)) then none else some v.1)
  let s := s.writeResults n b 0 first vals
  let low := s.lowestE640
  let bad := (fresh.filter (fun v => !(v32 v).isFin)).length
  let s := if low then s.updBuf n (fun k => { k with infs := k.infs + bad }) else s
  let s := if low && b.norm then fresh.foldl (fun s v => s.addSquare (v32 v)) s else s
  let full := (s.buf n).outFull b.nelem
  (s.updBuf n (fun k => { k with shardDone := full })).finishBuffer n b

/-- The values of a distance that have all arrived, in element order. -/
def BufState.treeAt (k : BufState) (dist nelem : Nat) : Option (List Nat) :=
  let ps := k.tree.filter (fun e => decide (e.1 = dist))
  if (ps.map (fun e => e.2.2.length)).sum = nelem then
    some ((List.range nelem).map (fun i =>
      match ps.find? (fun e => decide (e.2.1 ≤ i ∧ i < e.2.1 + e.2.2.length)) with
      | some e => e.2.2.getD (i - e.2.1) 0
      | none => 0))
  else none

/-- Works up the tree as far as the arrived values allow; `fuel` bounds its levels. No context issues the additions of R259, so they raise no
flag (DESIGN CHOICE, log 149). -/
def State.climb (n : Nat) (b : BufDesc) : Nat → State → State
  | 0, s => s
  | fuel + 1, s =>
    let k := s.buf n
    let r := s.treeRank
    let p := s.job.members.length
    let d := k.treeDist
    if p ≤ d then
      let s := (List.range p).foldl (fun s q => if q = r then s else s.sendTree n (s.treeDev q) 0 k.vals) s
      s.treeResult n b 0 k.vals
    else if r % (2 * d) = d then s.sendTree n (s.treeDev (r - d)) d k.vals
    else if r + d < p then
      match k.treeAt d b.nelem with
      | some vs => State.climb n b fuel (s.updBuf n (fun k => { k with vals := k.vals.zipWith add32 vs, treeDist := 2 * d }))
      | none => s
    else State.climb n b fuel (s.updBuf n (fun k => { k with treeDist := 2 * d }))

/-! ### Closing (R251, R253) -/

/-- A buffer closes: the other members' shards go to their owners, or the tree starts. -/
def State.closeBuffer (s : State) (n : Nat) (b : BufDesc) : State :=
  let s := s.updBuf n (fun k => { k with closed := true })
  if b.mode = 0 then
    let rs := s.ranked
    let p := rs.length
    let s := (List.range p).foldl (fun s j =>
      let dst := rs.getD j 0
      let sh := shardOf b.nelem p j
      let y := s.sumsRead b sh.1 sh.2
      if dst = s.devId then s
      else if !y.2 then y.1
      else (pieces sh.1 sh.2).foldl (fun s x =>
        s.send dst s.curStep s.step.att (.redShard n x.1 (s.sums b x.1 x.2))) y.1) s
    s.completeShard n b
  else
    let y := s.sumsRead b 0 b.nelem
    let vals := (y.1.sums b 0 b.nelem).map (fun v => fxTo .fp32 v b.lsbe)
    if y.2 then State.climb n b 14 (y.1.updBuf n (fun k => { k with vals := vals })) else y.1

/-- Closes every buffer of a home tile. A tile that arrives before its device has passed the boundary of the step before only
marks them; their shards go at that boundary. -/
def State.closeBuffers (s : State) (t : Nat) : State :=
  (List.range s.buffers.length).foldl (fun s n => match s.bufDesc n with
    | some b =>
      if b.tile ≠ t then s
      else if s.step.decision.isSome then s.updBuf n (fun k => { k with closed := true })
      else s.closeBuffer n b
    | none => s) s

/-! ### Receiving RED messages (R251, R254) -/

/-- A reduction message of a tile counts in RU_CNT_BMSG as it is received, a stale one too (R261). -/
def State.countRed (s : State) (m : Msg) (t : Nat) : State := if (rowTable m.body).isSome then s else s.count (tileReg t 3 0x050) 1

/-- What a message for a tile does: it waits when it is of a later step or attempt, is dropped and counted when of an
earlier one, and is consumed otherwise. -/
def State.atTile (s : State) (m : Msg) (t : Nat) (act : State → State) : State :=
  if m ∉ s.inbox || !s.nextInRing m || s.later (some t) m || s.writesStop then s
  else
    let y := s.takeRow m
    if !y.2 then y.1
    else
      let u := y.1.countRed m t
      if s.stale (some t) m then u.count (tileReg t 3 0x058) 1 else act u

/-- The same for a message that the hub consumes. -/
def State.atHub (s : State) (m : Msg) (act : State → State) : State :=
  if m ∉ s.inbox || s.later none m || s.writesStop then s
  else
    let s' := s.takeMsg m
    if s.stale none m then s'.count (hubReg 8 0x080) 1 else act s'

/-- A STEP error of the step that a tile, or the hub (none), is in: buffer or table, and index (R373). That step does not commit
(R201, R204, R254, R258). -/
def State.stepError (s : State) (t : Option Nat) (cause obj index : Nat) : State :=
  (s.barCommit (s.pairAt t)).logError 7 cause noUnit 0 0xF (obj % 2 ^ 16 + index % 2 ^ 40 * 2 ^ 16) 0 0

/-- A RED message for buffer n in the home tile's hands; one for no buffer, or of the other mode, is a protocol error. -/
def State.redMessage (s : State) (m : Msg) (n first : Nat) (mode : Nat) (act : BufDesc → State → State) : State :=
  match s.bufDesc n with
  | none => s.atHub m (fun s => s.stepError none 2 n first)
  | some b =>
    s.atTile m b.tile (fun s =>
      if b.mode = mode then act b s else s.stepError (some b.tile) 2 n first)

/-- RED_SHARD: wide sums into the owner's shard; an element outside it, or covered before by the sender, is a protocol
error that discards the message whole (R254). -/
def execRedShard (m : Msg) (s : State) : Outcome State Fault Refusal :=
  .next (match m.body with
    | .redShard n first sums =>
      s.redMessage m n first 0 (fun b s =>
        let sh := s.ownShard b
        let k := s.buf n
        let twice := k.covered.any (fun r => decide (r.1 = m.src) && overlaps first sums.length r.2.1 r.2.2)
        if !inside first sums.length sh.1 sh.2 || twice then s.stepError (some b.tile) 2 n first
        else
          let s := s.updBuf n (fun k => { k with covered := k.covered ++ [(m.src, first, sums.length)] })
          let s := (List.range sums.length).foldl (fun s i =>
            let x := s.addWide b (first + i) (sums.getD i 0)
            if x.2 then x.1 else x.1.tmemError 1 b.tile 0 0xF) s
          s.completeShard n b)
    | _ => s)

/-- RED_RESULT: another owner's results into OUT (R255). -/
def execRedResult (m : Msg) (s : State) : Outcome State Fault Refusal :=
  .next (match m.body with
    | .redResult n first vals =>
      s.redMessage m n first 0 (fun b s =>
        if b.kind ≠ 1 ∨ b.nelem < first + vals.length then s.stepError (some b.tile) 2 n first
        else (s.writeResults n b m.src first vals).finishBuffer n b)
    | _ => s)

/-- TREE_VALUE: values of a tree distance, or the final ones (R259). -/
def execTreeValue (m : Msg) (s : State) : Outcome State Fault Refusal :=
  .next (match m.body with
    | .treeValue n first dist vals =>
      s.redMessage m n first 1 (fun b s =>
        if b.nelem < first + vals.length then s.stepError (some b.tile) 2 n first
        else if dist = 0 then s.treeResult n b first vals
        else
          let s := s.updBuf n (fun k => { k with tree := k.tree ++ [(dist, first, vals)] })
          if (s.buf n).closed && s.step.decision.isNone && !(s.buf n).shardDone && !(decide ((s.treeRank) % (2 * (s.buf n).treeDist) = (s.buf n).treeDist)) then
            State.climb n b 14 s
          else s)
    | _ => s)

/-- NORM_PARTIAL: a second one of one member is a protocol error (R258). -/
def execNormPartial (m : Msg) (s : State) : Outcome State Fault Refusal :=
  .next (match m.body with
    | .normPartial sq nf cl =>
      s.atHub m (fun s =>
        if s.step.partials.any (fun p => decide (p.1 = m.src)) then
          ({ s with step := { s.step with spoilt := true } } : State).stepError none 5 0 m.src
        else
          ({ s with step := { s.step with
              partials := s.step.partials ++ [(m.src, ⟨sq, nf, cl, s.curStep⟩)] } } : State).formJobRec)
    | _ => s)

/-! ### The coalescer (R200 to R204) -/

/-- TALLY: the count of a member's row-update messages for a table; a second one is a protocol error (R201). -/
def execTally (m : Msg) (s : State) : Outcome State Fault Refusal :=
  .next (match m.body with
    | .tally t n =>
      s.atHub m (fun s =>
        if s.emb.tallies.any (fun e => decide (e.1 = m.src ∧ e.2.1 = t)) then s.stepError none 5 t 0
        else { s with emb := { s.emb with tallies := s.emb.tallies ++ [(m.src, t, n)] } })
    | _ => s)

/-- The hub sends each owner of each table its tally once every tile has arrived in a learning step (R201). -/
def State.sendTallies (s : State) : State :=
  if s.emb.talliesOut || s.step.decision.isSome || !s.learning s.curStep || !s.everyStepTile (·.arrived) then s
  else
    let s := { s with emb := { s.emb with talliesOut := true } }
    (List.range s.nTables).foldl (fun s t => match s.table t with
      | none => s
      | some d => (s.owners d).foldl (fun s o =>
          let n := ((s.emb.sent.filter (fun e => decide (e.2.1 = t ∧ e.2.2.1 = o))).map (·.2.2.2)).sum
          s.send o s.curStep s.step.att (.tally t n)) s) s

/-- The bytes that the model gives an accumulator of a table: D FX96 values, the count and the mark, in whole granules
(log 25). -/
def accSize (d : Nat) : Nat := 64 * ceilDiv (12 * d + 8) 64

/-- The size of an accumulator of a table. -/
def State.accBytes (s : State) (t : Nat) : Nat := match s.table t with | some d => accSize d.d | none => 0

/-- Bytes of a tile's accumulators that lie in the coalescer region, or in the spill area. -/
def State.accUsed (s : State) (h : Nat) (spilled : Bool) : Nat :=
  ((s.emb.accs.filter (fun a => decide (a.tile = h) && a.spilled == spilled)).map (fun a => s.accBytes a.table)).sum

/-- The accumulators of a tile, as the ranges that a read of them checks: they fill the coalescer region, and the spill area, from the
start (log 25). -/
def State.accReads (s : State) (h : Nat) : List (Nat × Nat) :=
  [(sram h (64 * wfld (s.reg (tileReg h 6 0)) 63 47), s.accUsed h false),
   (unit16M * wfld (s.reg (tileReg h 6 8)) 35 16, s.accUsed h true)].filter (fun r => decide (r.2 ≠ 0))

/-- Reads the accumulators of tiles, up to one that meets an error. -/
def State.accsRead (s : State) : List Nat → State × Bool
  | [] => (s, true)
  | h :: r =>
    let y := s.checkReads (s.accReads h)
    match y.2 with
    | some a => (y.1.rowError h a, false)
    | none => y.1.accsRead r

/-- The size of the coalescer region of a tile (R217). -/
def State.coalSize (s : State) (h : Nat) : Nat := 64 * wfld (s.reg (tileReg h 6 0)) 46 30

/-- The size of the spill area of a tile. -/
def State.spillSize (s : State) (h : Nat) : Nat := unit16M * wfld (s.reg (tileReg h 6 8)) 15 0

/-- Frees room for one accumulator: the earliest opened ones move to the spill area; false when that is full (R204). -/
def State.spillOne (s : State) (h need : Nat) : Nat → State × Bool
  | 0 => (s, false)
  | n + 1 =>
    if s.accUsed h false + need ≤ s.coalSize h then (s, true)
    else
      match (s.emb.accs.filter (fun a => decide (a.tile = h) && !a.spilled)).head? with
      | none => (s, false)
      | some a =>
        if s.spillSize h < s.accUsed h true + s.accBytes a.table then (s, false)
        else
          let s := { s with emb := { s.emb with
            accs := s.emb.accs.map (fun (b : Accum) => if b.order = a.order then { b with spilled := true } else b) } }
          (s.count (embCnt h 0x070) 1).spillOne h need n

/-- Opens an accumulator with a first message: false when the coalescer is exhausted (R202, R204). -/
def State.openAcc (s : State) (h t x : Nat) (sums : List Int) (n : Nat) (nf : Bool) : State × Bool :=
  let y := s.spillOne h (s.accBytes t) (s.emb.accs.length + 1)
  if y.2 then
    let s := y.1
    ({ s with emb := { s.emb with
        accs := s.emb.accs ++ [⟨h, t, x, sums, n, nf, s.emb.opened, false⟩], opened := s.emb.opened + 1 } }, true)
  else (y.1, false)

/-- How many messages a row has taken in the step. -/
def State.taken (s : State) (h t x : Nat) : Nat :=
  match s.emb.taken.find? (fun (e : Nat × Nat × Nat) => decide (e.1 = 64 * h + t ∧ e.2.1 = x)) with
  | some e => e.2.2
  | none => 0

/-- The accumulator that takes a row's next message: one that the count keeps at or below 2^24; a hot row spreads over up
to 64 (R202, R203). -/
def State.pickAcc (s : State) (h t x n : Nat) : Option Accum :=
  let as := s.emb.accs.filter (fun a => decide (a.tile = h ∧ a.table = t ∧ a.index = x ∧ a.count + n ≤ 2 ^ 24))
  let k := s.taken h t x
  if k < 256 then as.head?
  else if as.length < 64 ∧ as.length ≤ k % 64 then none
  else as[k % 64 % as.length]?

/-- A row-update message is added into an accumulator of its row. -/
def State.coalesce (s : State) (h t x : Nat) (sums : List Int) (n : Nat) (nf : Bool) : State :=
  let pick := s.pickAcc h t x n
  let k := s.taken h t x + 1
  let s := { s with emb := { s.emb with
    taken := s.emb.taken.filter (fun (e : Nat × Nat × Nat) => !decide (e.1 = 64 * h + t ∧ e.2.1 = x)) ++ [(64 * h + t, x, k)],
    got := s.emb.got.upd (fun _ => 0) (64 * h + t) (· + 1) } }
  let s := if k = 256 then s.count (embCnt h 0x068) 1 else s
  match pick with
  | some a => { s with emb := { s.emb with accs := s.emb.accs.map (fun (b : Accum) =>
      if b.order = a.order then { b with sums := b.sums.zipWith (· + ·) sums, count := b.count + n, nonfin := b.nonfin || nf }
      else b) } }
  | none =>
    let y := s.openAcc h t x sums n nf
    if y.2 then y.1 else y.1.stepError (some h) 3 t x

/-- A row message that nothing takes leaves the inbox. -/
def State.dropRow (s : State) (m : Msg) : State := if m ∈ s.inbox && s.nextInRing m then (s.takeRow m).1 else s

/-- ROW_UPDATE reaches the row's home tile (R202). The copy that a multicast brings to the owner's belay partner has no effect that the manual
gives: it is dropped there (log 52). -/
def execRowUpdate (m : Msg) (s : State) : Outcome State Fault Refusal :=
  .next (match m.body with
    | .rowUpdate t x n nf sums =>
      match s.table t with
      | some d =>
        if s.ownerOf d x = s.devId then s.atTile m (d.home x) (fun s => s.coalesce (d.home x) t x sums n nf)
        else s.dropRow m
      | none => s.dropRow m
    | _ => s)

/-- A table's reduction can complete: a tally from every member, and as many messages as they say (R201). -/
def State.tallied (s : State) (t : Nat) : Bool :=
  let ts := s.emb.tallies.filter (fun (e : Nat × Nat × Nat) => decide (e.2.1 = t))
  s.memberIds.all (fun d => ts.any (fun (e : Nat × Nat × Nat) => decide (e.1 = d))) &&
  decide ((ts.map (·.2.2)).sum = ((s.emb.got.filter (fun e => decide (e.1 % 64 = t))).map (·.2)).sum)

/-- The row gradient from a row's accumulators (R202). -/
def State.rowGrad (s : State) (d : TableDesc) (t : Nat) (h x : Nat) : Grad :=
  let as := s.emb.accs.filter (fun a => decide (a.table = t ∧ a.index = x))
  ⟨h, t, x, (List.range d.d).map (fun e => fxTo .fp32 ((as.map (fun a => a.sums.getD e 0)).foldl (· + ·) 0) d.lsbe)⟩

/-- COALESCER_REDUCTION_COMPLETE: the gradients of a table's rows, and their part in the norm (R202, R257). -/
def execCoalescerReductionComplete (table : Fin 64) (s : State) : Outcome State Fault Refusal :=
  let t := table.val
  .next (match s.table t with
    | none => s
    | some d =>
      if t ∈ s.emb.reduced || t ∉ s.ownTables || s.step.stopped || !s.learning s.curStep || !s.tallied t then s
      else
        let rows := ((s.emb.accs.filter (fun a => decide (a.table = t))).map (fun a => (a.tile, a.index))).eraseDups
        let y := s.accsRead (rows.map (·.1)).eraseDups
        if !y.2 then y.1
        else
          let s := y.1
          let gs := rows.map (fun r => s.rowGrad d t r.1 r.2)
          let s := { s with emb := { s.emb with grads := s.emb.grads ++ gs, reduced := s.emb.reduced ++ [t] } }
          let s := if (s.redHeader).2.1 then
              gs.foldl (fun s g => g.vals.foldl (fun s v => s.addSquare (v32 v)) s) s else s
          s.maybePartial)

end Sys2Proof.Machine
end

