-- ==== Sys2Proof/Machine/Sluice.lean ====
section
/-! DEFINITION. The sluice: requests, payments, deferral episodes, the duty ceiling, and the 1 ms windows (R348 to R356). -/
namespace Sys2Proof.Machine

open Host (Outcome)

/-- Changes the sluice. -/
def State.updSluice (s : State) (f : Sluice → Sluice) : State := { s with sluice := f s.sluice }

/-! ### Targets and requests (R348, R350) -/

/-- The budget of a step of a rim block: 91 mA for a link port, 68 mA for an LPDDR5X controller; and its steps. -/
def rimStep (c : Nat) : Nat × Nat := if c < 652 then (16 * 91, 5) else (16 * 68, 2)

/-- Whether everything tapers: a feed failure or a trip up to the restart of the reset that it begins, or the part of a device reset
before its restart. A FAILED device keeps its links up (R390). -/
def State.tapering (s : State) : Bool := s.power.taper || decide (s.rst.phase = .dump ∨ s.rst.phase = .hold)

/-- Whether a rim block is to be powered: a link port while one of its links is enabled, an LPDDR5X controller always (R312, R350; log 161). -/
def State.rimOn (s : State) (c : Nat) : Bool :=
  decide (652 ≤ c) || s.lnkEnabled (2 * (c - 640)) || s.lnkEnabled (2 * (c - 640) + 1)

/-- A consumer's present target: a tile's by its level; a rim block's one step above its budget, or one step below it while everything
tapers or its port is disabled. -/
def State.targetOf (s : State) (c : Nat) : Nat :=
  if c < 640 then s.tileBudget (s.targetLevel c)
  else
    let k := rimStep c
    if s.tapering || !s.rimOn c then k.1 * ((s.budget c - 1) / k.1) else k.1 * min k.2 (s.budget c / k.1 + 1)

/-- Joins the tail of a queue: those that join in one aon cycle stand in consumer order. -/
def joinTail (fresh : List Nat) (c r : Nat) : List (Nat × Nat) → List (Nat × Nat)
  | [] => [(c, r)]
  | e :: l => if e.1 ∈ fresh ∧ c < e.1 then (c, r) :: e :: l else e :: joinTail fresh c r l

/-- A request in a queue: replaced in its place, or new at the tail. -/
def putRequest (fresh : List Nat) (c r : Nat) (q : List (Nat × Nat)) : List (Nat × Nat) :=
  if q.any (fun e => decide (e.1 = c)) then q.map (fun e => if e.1 = c then (c, r) else e) else joinTail fresh c r q

/-- A queue without a consumer. -/
def dropRequest (c : Nat) (q : List (Nat × Nat)) : List (Nat × Nat) := q.filter (fun e => decide (e.1 ≠ c))

/-- The sluice with the request of consumer c for target T, its budget being B. -/
def Sluice.request (k : Sluice) (c T B : Nat) : Sluice :=
  let k := { k with target := k.target.put (fun _ => 0) c T }
  if B < T then
    { k with fresh := if k.up.any (fun e => decide (e.1 = c)) then k.fresh else k.fresh ++ [c],
             up := putRequest k.fresh c (T - B) k.up, down := dropRequest c k.down }
  else if T < B then
    { k with fresh := if k.down.any (fun e => decide (e.1 = c)) then k.fresh else k.fresh ++ [c],
             down := putRequest k.fresh c (B - T) k.down, up := dropRequest c k.up }
  else { k with up := dropRequest c k.up, down := dropRequest c k.down }

/-- A consumer's target is accepted. -/
def State.joinLevel (s : State) (c : Nat) : State := s.updSluice (fun k => k.request c (s.targetOf c) (s.budget c))

/-- LEVEL_REQUEST_JOIN. -/
def execLevelRequestJoin (c : Fin 676) (s : State) : Outcome State Fault Refusal := .next (s.joinLevel c)

/-- The rim blocks as consumers, in the order of R14. -/
def rimBlocks : List Nat := (List.range 36).map (640 + ·)

/-- The consumers of a list whose targets differ from the accepted ones join, in its order. -/
def State.retargetOf (s : State) (l : List Nat) : State :=
  l.foldl (fun s c => if s.targetOf c = s.sluice.target.get (fun _ => 0) c then s else s.joinLevel c) s

/-- While everything tapers, a rim block that has come down one step lowers the next, and so does a disabled port's (R348, R350, R357). -/
def State.lowerRims (s : State) : State := s.retargetOf (rimBlocks.filter (fun c => s.tapering || !s.rimOn c))

/-- Every tile whose target differs from the accepted one joins, in tile ID order (R355); then the rim blocks that taper (R350). -/
def State.retarget (s : State) : State := (s.retargetOf allTiles).lowerRims

/-! ### The payout (R351) -/

/-- Adds to or takes from a consumer's budget. -/
def Sluice.pay (k : Sluice) (c : Nat) (up : Bool) (m : Nat) : Sluice :=
  { k with budget := k.budget.upd (fun _ => 0) c (fun b => if up then b + m else b - m) }

/-- The head of a queue after a payment of m: gone when nothing remains. -/
def payHead (m : Nat) : List (Nat × Nat) → List (Nat × Nat)
  | [] => []
  | e :: l => if e.2 ≤ m then l else (e.1, e.2 - m) :: l

/-- Step 1: lowerings fund raises. Returns the raises completed. -/
def Sluice.pair : Nat → Sluice → Sluice × Nat
  | 0, k => (k, 0)
  | n + 1, k =>
    match k.up, k.down with
    | u :: _, d :: _ =>
      let m := min u.2 d.2
      let k' := { (k.pay u.1 true m).pay d.1 false m with up := payHead m k.up, down := payHead m k.down }
      let r := k'.pair n
      (r.1, r.2 + if u.2 ≤ m then 1 else 0)
    | _, _ => (k, 0)

/-- The up queue draws its credit. Returns the raises completed. -/
def Sluice.payUp : Nat → Sluice → Sluice × Nat
  | 0, k => (k, 0)
  | n + 1, k =>
    match k.up with
    | u :: _ =>
      if k.cu = 0 then (k, 0)
      else
        let m := min u.2 k.cu
        let r := ({ k.pay u.1 true m with up := payHead m k.up, cu := k.cu - m } : Sluice).payUp n
        (r.1, r.2 + if u.2 ≤ m then 1 else 0)
    | [] => (k, 0)

/-- The down queue draws its credit. -/
def Sluice.payDown : Nat → Sluice → Sluice
  | 0, k => k
  | n + 1, k =>
    match k.down with
    | d :: _ =>
      if k.cd = 0 then k
      else
        let m := min d.2 k.cd
        ({ k.pay d.1 false m with down := payHead m k.down, cd := k.cd - m } : Sluice).payDown n
    | [] => k

/-- One aon cycle of R351 at rate r. Returns the raises completed. -/
def Sluice.payout (k : Sluice) (r : Nat) : Sluice × Nat :=
  let p := k.pair (k.up.length + k.down.length)
  let k := p.1
  let k := { k with cu := if k.up.isEmpty then 0 else k.cu + r, cd := if k.down.isEmpty then 0 else k.cd + r }
  let u := k.payUp k.up.length
  let d := u.1.payDown u.1.down.length
  ({ d with fresh := [] }, p.2 + u.2)

/-- r of R351 in units of 1/16 mA: 7/8 × SLEW × 40 ns. -/
def State.slewRate (s : State) : Nat := 35 * wfld (s.reg rSluCtrl) 12 8

/-! ### Deferral episodes (R353) -/

/-- An episode begins: it extends the last episode's entry within 25,000 aon cycles while the log still holds it. -/
def State.openEpisode (s : State) (cause defm : Nat) (last : Option (Nat × Nat)) : State :=
  match last with
  | some (seq, t) =>
    if decide (s.aon.toNat ≤ t + 25000) && (s.entry seq).isSome then s.updEntry seq (fun e => { e with state := 3, tend := 0 })
    else s.openDeferral cause 1 defm noUnit 0
  | none => s.openDeferral cause 1 defm noUnit 0

/-- An episode of a cause at the end of an aon cycle: whether it runs now, and the end of the last one. -/
def State.episode (s : State) (cause defm : Nat) (on : Bool) (last : Option (Nat × Nat)) : State × Option (Nat × Nat) :=
  match s.findDeferral cause none with
  | some e => if on then (s, last) else (s.endEntry e.seq, some (e.seq, s.aon.toNat))
  | none => (if on then s.openEpisode cause defm last else s, last)

/-- The ADMIT and BALLAST episodes. -/
def State.episodes (s : State) : State :=
  let a := s.episode 1 0x18 (!s.sluice.up.isEmpty) s.sluice.admitEnd
  let b := a.1.episode 2 0x10 (!s.sluice.down.isEmpty) s.sluice.ballastEnd
  b.1.updSluice (fun k => { k with admitEnd := a.2, ballastEnd := b.2 })

/-- The counters of R368 for one aon cycle in which n raises completed. -/
def State.sluiceCounts (s : State) (n : Nat) : State :=
  let one := fun (b : Bool) => if b then 1 else 0
  (((s.count (hubReg 3 0x040) n).count (hubReg 3 0x048) (one (!s.sluice.up.isEmpty))).count (hubReg 3 0x050)
    (one (!s.sluice.down.isEmpty))).count (hubReg 3 0x058) (one (decide (s.duty < 3)))

/-! ### The duty ceiling (R354, R355, R356) -/

/-- The deferral of the limit that holds the ceiling: CAP unless the thermal duty is the lower (R355). -/
def State.dutyEntry (s : State) : State :=
  let want := if s.duty = 3 then 0 else if s.sluice.capDuty ≤ s.sluice.thDuty then 3 else 4
  let s := if want = 3 then s else s.closeDeferral 3 none
  let s := if want = 4 then s else s.closeDeferral 4 none
  if want = 0 then s else s.ensureDeferral want 1 0x10 noUnit 0

/-- The duty ceiling has been set again: its entry, and the tiles' targets. -/
def State.dutyChange (s : State) : State := s.dutyEntry.retarget

/-- The capped duty of a cap: the largest duty at which 640 tiles fit (CAPW − 600 W) / 40 V (R354). -/
def cappedDuty (w : Nat) : Nat := if 3160 ≤ w then 3 else if 2111 ≤ w then 2 else 1

/-- CAP_WINDOW. -/
def execCapWindow (s : State) : Outcome State Fault Refusal :=
  let w := wfld (s.reg rSluCap) 11 0
  .next (s.updSluice (fun k => { k with capW := w, capDuty := cappedDuty w })).dutyChange

/-- A temperature of R369 in 1/16 °C. -/
def degrees (t : BitVec 16) : Int := t.toInt

/-- Whether some die reads at least n °C. -/
def Sluice.anyAtLeast (k : Sluice) (n : Int) : Bool := k.temps.toList.any (fun t => decide (16 * n ≤ degrees t))

/-- Whether some die reads above n °C. -/
def Sluice.anyAbove (k : Sluice) (n : Int) : Bool := k.temps.toList.any (fun t => decide (16 * n < degrees t))

/-- What the window has seen, with the present readings. -/
def Sluice.watch (k : Sluice) : Sluice := { k with hot := k.hot || k.anyAtLeast 95, warm := k.warm || k.anyAbove 90 }

/-- THERMAL_WINDOW: one step down after a reading of 95 °C, one up after a window at 90 °C or below. -/
def execThermalWindow (s : State) : Outcome State Fault Refusal :=
  .next (s.updSluice (fun k =>
    let k := k.watch
    let d := if k.hot then k.thDuty - 1 else if k.warm then k.thDuty else min 3 (k.thDuty + 1)
    { k with thDuty := d, hot := false, warm := false })).dutyChange

end Sys2Proof.Machine
end

