-- ==== Sys2Proof/Machine/Rejoin.lean ====
section
/-! DEFINITION. The end of a device reset: its RESET entry, the entries and commands that end with it, and the announcement of the rejoin
(R335, R371, R389, R390, R446). -/
namespace Sys2Proof.Machine

/-- Changes the recovery machinery. -/
def State.updRst (s : State) (f : Recovery → Recovery) : State := { s with rst := f s.rst }

/-- A device reset's RESET entry, at its completion or its failure; its duration counts from the trigger (R373, R387). The manual gives QW7's
regions no code: a free value, 0 with none. -/
def State.resetEntry (s : State) : State :=
  let d := if s.rst.bad.isEmpty then (0, s) else let w := s.draw; (w.1.toNat, w.2)
  d.2.logEntry ⟨0, 0xA, s.rst.cause, 2, 0, 0, 0, 0, 0, 0, noUnit, 0, 0xF, s.rst.trigSeq, s.aon.toNat - s.rst.trigAt.1, d.1⟩

/-- A host command that was running completes as aborted; with a START that had not completed the job ends. -/
def State.abortCommands (s : State) : State :=
  let j := s.job
  let s := if j.startReq.isSome then s.endJob else s
  let s := { s with job := { s.job with stopReq := none, startReq := none, readyReq := none } }
  let asks := j.stopReq.toList ++ j.startReq.toList ++ (j.readyReq.map (fun r => (r.1, r.2.1))).toList
  asks.foldl (fun s r => s.hostDone r.1 r.2 0xA 0) s

/-- The entries of a kind that are not done become done. -/
def State.endEntries (s : State) (p : LogEntry → Bool) : State :=
  { s with log := { s.log with slots := s.log.slots.map (fun e => match e.2 with
      | some x => (e.1, some (if x.state = 2 || !p x then x else { x with state := 2, tend := s.aon.toNat }))
      | none => e) } }

/-- The tiles and the memory are there again: base camp mode ends, and the engines may go on with a step that is to be finished before the
rejoin is announced (R273, R389, R446; log 164). -/
def State.openTiles (s : State) : State :=
  let s := { s with power := { s.power with feedFail := false, ttrip := false }, mgmt := { s.mgmt with base := false } }
  ((s.updRst (fun r => { r with phase := .recovering })).abortCommands).retarget

/-- The reset completes: its entries, and the RESET entry (R371, R373). -/
def State.completeReset (s : State) : State :=
  let s := s.endEntries (fun e => s.rst.ovf || decide (e.cls = 9 ∧ e.state = 1))
  let s := match s.rst.handling with | some q => s.endEntry q | none => s
  let s := match s.entry s.rst.trigSeq with | some e => if e.state = 1 then s.endEntry e.seq else s | none => s
  let s := (s.closeDeferral 0xB none).closeDeferral 0xC none
  let run := decide (s.job.st = .running)
  (s.resetEntry).updRst (fun r => { r with
    phase := if run then .rejoining else .none, failRun := if run then r.failRun else 0, handling := none, ovf := false })

/-- The device announces its rejoin at step n; with it a device reset completes (R389, R446). -/
def State.comeBack (s : State) (n : Nat) : State :=
  let s := s.announce n
  if s.rst.phase = .recovering then s.completeReset else s

end Sys2Proof.Machine
end

