-- ==== Sys2Proof/Machine/Scalar.lean ====
section
/-! DEFINITION. The scalar instructions that touch registers, predicates, the PC and tile SRAM (R128 to R134). -/
namespace Sys2Proof.Machine

open Host (Outcome)

/-- The ALU functions of R129; none for a reserved FN. -/
def aluFn (fn : BitVec 7) (a b : Word) : Option Word :=
  let sh := b.toNat % 64
  match fn.toNat with
  | 0x00 => some (a + b)
  | 0x01 => some (a - b)
  | 0x02 => some (a &&& b)
  | 0x03 => some (a ||| b)
  | 0x04 => some (a ^^^ b)
  | 0x05 => some (a <<< sh)
  | 0x06 => some (a >>> sh)
  | 0x07 => some (a.sshiftRight sh)
  | 0x08 => some (a * b)
  | 0x09 => some (BitVec.ofNat 64 (a.toNat * b.toNat / 2 ^ 64))
  | 0x0A => some (BitVec.ofInt 64 (a.toInt * b.toInt / 2 ^ 64))
  | 0x0B => some (if a.toNat ≤ b.toNat then a else b)
  | 0x0C => some (if a.toNat ≤ b.toNat then b else a)
  | 0x0D => some (if a.toInt ≤ b.toInt then a else b)
  | 0x0E => some (if a.toInt ≤ b.toInt then b else a)
  | 0x0F => some (BitVec.ofNat 64 (if a = 0 then 64 else 63 - a.toNat.log2))
  | 0x10 => some (BitVec.ofNat 64 (popGo a.toNat 64))
  | _ => none

/-- ALU group: gd ← FN(ga, gb) (R129). -/
def execAlu (l : Loc) (g : Guard) (rd ra rb : BitVec 5) (fn : BitVec 7) (s : State) : Outcome State Fault Refusal :=
  .next (s.slotCtx l g (aluFn fn 0 0).isSome (fun c => c.wg rd ((aluFn fn (c.rg ra) (c.rg rb)).getD 0)))

/-- `addi`: gd ← ga + sext(IMM12). -/
def execAddi (l : Loc) (g : Guard) (rd ra : BitVec 5) (imm : BitVec 12) (s : State) : Outcome State Fault Refusal :=
  .next (s.slotCtx l g true (fun c => c.wg rd (c.rg ra + sext12 imm)))

/-- `andi`. -/
def execAndi (l : Loc) (g : Guard) (rd ra : BitVec 5) (imm : BitVec 12) (s : State) : Outcome State Fault Refusal :=
  .next (s.slotCtx l g true (fun c => c.wg rd (c.rg ra &&& sext12 imm)))

/-- `ori`. -/
def execOri (l : Loc) (g : Guard) (rd ra : BitVec 5) (imm : BitVec 12) (s : State) : Outcome State Fault Refusal :=
  .next (s.slotCtx l g true (fun c => c.wg rd (c.rg ra ||| sext12 imm)))

/-- `xori`. -/
def execXori (l : Loc) (g : Guard) (rd ra : BitVec 5) (imm : BitVec 12) (s : State) : Outcome State Fault Refusal :=
  .next (s.slotCtx l g true (fun c => c.wg rd (c.rg ra ^^^ sext12 imm)))

/-- The result of `shi`: IMM12[7:6] the operation, IMM12[5:0] the amount. -/
def shiResult (imm : BitVec 12) (a : Word) : Word :=
  let n := imm.toNat % 64
  match fld imm.toNat 7 6 with
  | 0 => a <<< n
  | 1 => a >>> n
  | _ => a.sshiftRight n

/-- `shi`; IMM12[11:8] must be 0 and the operation 0b11 is none. -/
def execShi (l : Loc) (g : Guard) (rd ra : BitVec 5) (imm : BitVec 12) (s : State) : Outcome State Fault Refusal :=
  .next (s.slotCtx l g (decide (fld imm.toNat 11 8 = 0 ∧ fld imm.toNat 7 6 ≠ 3)) (fun c => c.wg rd (shiResult imm (c.rg ra))))

/-- The value that `movw` leaves: bits [16q + 15:16q] replaced, the others cleared when Z is 1. -/
def movwResult (q : BitVec 2) (z : Bool) (imm : BitVec 16) (old : Word) : Word :=
  let sh := 16 * q.toNat
  let keep : Word := if z then 0 else old &&& ~~~((0xFFFF : Word) <<< sh)
  keep ||| (imm.zeroExtend 64 <<< sh)

/-- `movw0` to `movw3`. -/
def execMovw (l : Loc) (g : Guard) (q : BitVec 2) (rd : BitVec 5) (z : Bool) (imm : BitVec 16) (s : State) :
    Outcome State Fault Refusal :=
  .next (s.slotCtx l g true (fun c => c.wg rd (movwResult q z imm (c.rg rd))))

/-- The byte address of a scalar access: ga + sext(IMM12), modulo 2^64. -/
def Ctx.addrOf (c : Ctx) (ra : BitVec 5) (imm : BitVec 12) : Nat := (c.rg ra + sext12 imm).toNat

/-- The fault of a scalar access of n bytes: misaligned 0x02, beyond 6 MiB 0x03 (R131); a buffer's storage counts as
beyond (R249). -/
def State.accessFault (s : State) (t a n : Nat) : Option Nat :=
  if a % n ≠ 0 then some 2 else if s.sramOk t a n then none else some 3

/-- A scalar load (R131). -/
def State.load (l : Loc) (n : Nat) (rd ra : BitVec 5) (imm : BitVec 12) (s : State) : State :=
  let a := (s.ctx l).addrOf ra imm
  match s.accessFault l.tile a n with
  | some cause => s.insnFault l cause
  | none =>
    match s.readT0 (sram l.tile a) n with
    | (s', some bs) => (s'.updCtx l (fun c => c.wg rd (BitVec.ofNat 64 (leVal bs)))).advance l
    | (s', none) => s'.ctxMemError l 1

/-- `ld8` to `ld64`: zero-extended load of 2^SZ bytes. -/
def execLd (l : Loc) (g : Guard) (sz : BitVec 2) (rd ra : BitVec 5) (imm : BitVec 12) (s : State) :
    Outcome State Fault Refusal :=
  .next (s.slot l g true (State.load l (2 ^ sz.toNat) rd ra imm))

/-- A scalar store (R131); one that covers part of an uncorrectable word is discarded there and holds the context
(R165, R155). -/
def State.store (l : Loc) (n : Nat) (rd ra : BitVec 5) (imm : BitVec 12) (s : State) : State :=
  let c := s.ctx l
  let a := c.addrOf ra imm
  match s.accessFault l.tile a n with
  | some cause => s.insnFault l cause
  | none =>
    match s.writeT0 (sram l.tile a) (leBytes n (c.rg rd).toNat) with
    | (s', true) => s'.advance l
    | (s', false) => s'.ctxMemError l 4

/-- `st8` to `st64`. -/
def execSt (l : Loc) (g : Guard) (sz : BitVec 2) (rd ra : BitVec 5) (imm : BitVec 12) (s : State) :
    Outcome State Fault Refusal :=
  .next (s.slot l g true (State.store l (2 ^ sz.toNat) rd ra imm))

/-- `cmp`: pd ← COND(ga, gb), KIND U or S (R134). -/
def execCmp (l : Loc) (g : Guard) (pd : BitVec 3) (a rb : BitVec 5) (cond : BitVec 3) (kind : BitVec 2)
    (low : BitVec 4) (s : State) : Outcome State Fault Refusal :=
  .next (s.slotCtx l g (condLegal false kind.toNat cond.toNat && decide (low = 0))
    (fun c => c.wp pd (condHolds kind.toNat cond.toNat (c.rg a) (c.rg rb))))

/-- The number of a 4-bit summary register field. -/
def sIdx (n : BitVec 5) : Fin 16 := ⟨n.toNat % 16, Nat.mod_lt _ (by decide)⟩

/-- `stest`: pd ← COND(sn, gb); A[4] must be 0 (R134). -/
def execStest (l : Loc) (g : Guard) (pd : BitVec 3) (a rb : BitVec 5) (cond : BitVec 3) (kind : BitVec 2)
    (low : BitVec 4) (s : State) : Outcome State Fault Refusal :=
  .next (s.slotCtx l g (condLegal true kind.toNat cond.toNat && decide (low = 0) && decide (a.toNat < 16))
    (fun c => c.wp pd (condHolds kind.toNat cond.toNat c.s[sIdx a] (c.rg rb))))

/-- The predicate operations of `plog`. -/
def plogFn (op : Nat) (a b : Bool) : Bool :=
  match op with
  | 0 => a && b | 1 => a || b | 2 => a != b | _ => a && !b

/-- The predicate number of a field's low three bits. -/
def pIdx (n : BitVec 5) : BitVec 3 := n.truncate 3

/-- `plog`: pd ← pa op pb. The bits its row gives no name are not checked (log 19). -/
def execPlog (l : Loc) (g : Guard) (pd : BitVec 3) (a rb : BitVec 5) (cond : BitVec 3) (_kind : BitVec 2)
    (low : BitVec 4) (s : State) : Outcome State Fault Refusal :=
  .next (s.slotCtx l g (decide (low = 0))
    (fun c => c.wp pd (plogFn (cond.toNat % 4) (c.rp (pIdx a)) (c.rp (pIdx rb)))))

/-- PC + 4 × OFF22. -/
def Ctx.branch (c : Ctx) (off : BitVec 22) : Ctx :=
  { c with pc := pcOf (c.pc.zeroExtend 64 + 4 * off.signExtend 64) }

/-- `br`. -/
def execBr (l : Loc) (g : Guard) (off : BitVec 22) (s : State) : Outcome State Fault Refusal :=
  .next (s.slot l g true (fun s => s.updCtx l (fun c => c.branch off)))

/-- `call`: g27 ← PC + 4, then the branch. -/
def execCall (l : Loc) (g : Guard) (off : BitVec 22) (s : State) : Outcome State Fault Refusal :=
  .next (s.slot l g true (fun s => s.updCtx l (fun c => (c.branch off).wg 27 (c.pc.zeroExtend 64 + 4))))

/-- `jr`: gd ← PC + 4 if RD ≠ 0, PC ← ga + 4 × sext(IMM12); a target that is no multiple of 4 is cause 0x02. -/
def State.jump (l : Loc) (rd ra : BitVec 5) (imm : BitVec 12) (s : State) : State :=
  let c := s.ctx l
  let target := c.rg ra + 4 * sext12 imm
  if target.toNat % 4 ≠ 0 then s.insnFault l 2
  else s.setCtx l { c.wg rd (c.pc.zeroExtend 64 + 4) with pc := pcOf target }

/-- `jr`. -/
def execJr (l : Loc) (g : Guard) (rd ra : BitVec 5) (imm : BitVec 12) (s : State) : Outcome State Fault Refusal :=
  .next (s.slot l g true (State.jump l rd ra imm))

/-- `movs`: gd ← sn, n = RA[3:0]. -/
def execMovs (l : Loc) (g : Guard) (rd ra _rb : BitVec 5) (_fn : BitVec 7) (s : State) : Outcome State Fault Refusal :=
  .next (s.slotCtx l g true (fun c => c.wg rd c.s[sIdx ra]))

/-- `swr`: sn ← ga, n = RD[3:0], with the kind tag raw of R116. -/
def execSwr (l : Loc) (g : Guard) (rd ra _rb : BitVec 5) (_fn : BitVec 7) (s : State) : Outcome State Fault Refusal :=
  .next (s.slotCtx l g true (fun c => c.ws (sIdx rd) (c.rg ra) 3))

/-- `trd`: gd ← tn. -/
def execTrd (l : Loc) (g : Guard) (rd ra _rb : BitVec 5) (_fn : BitVec 7) (s : State) : Outcome State Fault Refusal :=
  .next (s.slotCtx l g true (fun c => c.wg rd c.t[ra.toFin]))

/-- `tset`: tn ← ga, plus 1 when an increment lands in the same fast cycle (R141). -/
def execTset (l : Loc) (g : Guard) (rd ra _rb : BitVec 5) (_fn : BitVec 7) (inc : Bool) (s : State) :
    Outcome State Fault Refusal :=
  .next (s.slotCtx l g true (fun c => c.wt rd.toFin (c.rg ra + (if inc then 1 else 0))))

/-! ### Commands from SRAM (R137) -/

/-- A read of 16 bytes of the tile's SRAM for a command (R137): misaligned cause 0x02, beyond 6 MiB, or in a
buffer's storage (R249), cause 0x03, and an uncorrectable word holds the context (R155). `addr` is what R154's ADDR shows: the entry's
address where a list's entry is read (DESIGN CHOICE, log 152). -/
def State.readCmd (s : State) (l : Loc) (a : Nat) (addr : Nat) : State × Option (BitVec 128) :=
  if a % 16 ≠ 0 then (s.ctxFault l 2 0 0xE 0 addr, none)
  else if !s.sramOk l.tile a 16 then (s.ctxFault l 3 0 0xE 0 addr, none)
  else
    match s.readT0 (sram l.tile a) 16 with
    | (s', some bs) => (s', some (BitVec.ofNat 128 (leVal bs)))
    | (s', none) => (s'.ctxMemError l 1, none)

/-- A context in its list walk issues the next entry in its turn; after the last entry the next instruction issues in
the turn after (R137). -/
def State.listTurn (s : State) (l : Loc) : State :=
  match (s.ctx l).clist with
  | none => s
  | some (a, n) =>
    let x := s.readCmd l a a
    match x.2 with
    | none => x.1
    | some w =>
      match x.1.issueCmd l w a with
      | (s', .faulted) => s'
      | (s', .full) => s'.waitFull l w (.clistEntryIssue l)
      | (s', .entered) =>
        let s' := s'.updTile l.tile (fun x => { x with rr := l.ctx })
        s'.updCtx l (fun c => if n ≤ 1 then { c with clist := none } else { c with clist := some (a + 16, n - 1) })

/-- `issue`: the command in g[RA] and g[RA + 1]; RA even (R137). -/
def execIssue (l : Loc) (g : Guard) (rd ra rb : BitVec 5) (fn : BitVec 7) (s : State) : Outcome State Fault Refusal :=
  .next (s.slotRaw l g (decide (ra.toNat % 2 = 0)) (fun s =>
    let c := s.ctx l
    s.slotIssue l (.issue l g rd ra rb fn) (c.rg (ra + 1) ++ c.rg ra) (fun s => s.advance l)))

/-- The issue of a command that lies in SRAM at ga + sext(IMM12) (R137). -/
def State.issueMem (l : Loc) (g : Guard) (rd ra : BitVec 5) (imm : BitVec 12) (s : State) : State :=
  let x := s.readCmd l ((s.ctx l).addrOf ra imm) (s.pcAt l)
  match x.2 with
  | none => x.1.issued l
  | some w => x.1.slotIssue l (.issuem l g rd ra imm) w (fun s => s.advance l)

/-- `issuem`. -/
def execIssuem (l : Loc) (g : Guard) (rd ra : BitVec 5) (imm : BitVec 12) (s : State) : Outcome State Fault Refusal :=
  .next (s.slotRaw l g true (State.issueMem l g rd ra imm))

/-- `clist`: gb commands from ga; its own turn issues entry 0. A count of 0 or above 65,536 is cause 0x0B, a misaligned
list cause 0x02 (R137, R154). -/
def State.startList (l : Loc) (g : Guard) (rd ra rb : BitVec 5) (fn : BitVec 7) (s : State) : State :=
  let c := s.ctx l
  let a := (c.rg ra).toNat
  let n := (c.rg rb).toNat
  if n = 0 ∨ 65536 < n then (s.issued l).insnFault l 0xB
  else if a % 16 ≠ 0 then (s.issued l).insnFault l 2
  else
    let x := s.readCmd l a a
    match x.2 with
    | none => x.1.issued l
    | some w =>
      match x.1.issueCmd l w a with
      | (s', .faulted) => s'.issued l
      | (s', .full) => s'.waitFull l w (.clist l g rd ra rb fn)
      | (s', .entered) =>
        (s'.issued l).updCtx l (fun c => { c.next with clist := if n ≤ 1 then none else some (a + 16, n - 1) })

/-- `clist`. -/
def execClist (l : Loc) (g : Guard) (rd ra rb : BitVec 5) (fn : BitVec 7) (s : State) : Outcome State Fault Refusal :=
  .next (s.slotRaw l g true (State.startList l g rd ra rb fn))

/-- A later turn of a list walk issues the next entry in place of an instruction (R137). -/
def execClistEntry (l : Loc) (s : State) : Outcome State Fault Refusal :=
  .next (if decide ((s.ctx l).mode = .run ∧ 6 ∉ (s.tile l.tile).engStop) && s.clockRuns l.tile then s.listTurn l else s)

/-- `twait`: ready at once when tN ≥ ga; otherwise the context waits (R141). A satisfied wait advances the progress
counter (R148). -/
def State.tokenWait (l : Loc) (ra n : BitVec 5) (s : State) : State :=
  let c := s.ctx l
  if (c.rg ra).toNat ≤ (c.t[n.toFin]).toNat then s.setCtx l c.next.woken
  else s.waitOn l (.token n.toFin (c.rg ra))

/-- `twait`; IMM12 is reserved. -/
def execTwait (l : Loc) (g : Guard) (ra n : BitVec 5) (imm : BitVec 12) (s : State) : Outcome State Fault Refusal :=
  .next (s.slot l g (decide (imm = 0)) (State.tokenWait l ra n))

/-- A waiting token condition holds: the context is ready (R141, R148). -/
def execTwaitSatisfied (l : Loc) (s : State) : Outcome State Fault Refusal :=
  let c := s.ctx l
  .next (match c.mode, c.wait with
    | .wait, .token n v => if v.toNat ≤ (c.t[n]).toNat then s.setCtx l c.woken else s
    | _, _ => s)

/-- `ttest`: pd ← (tA ≥ gb), unsigned; COND and KIND 0. -/
def execTtest (l : Loc) (g : Guard) (pd : BitVec 3) (a rb : BitVec 5) (cond : BitVec 3) (kind : BitVec 2)
    (low : BitVec 4) (s : State) : Outcome State Fault Refusal :=
  .next (s.slotCtx l g (decide (cond = 0 ∧ kind = 0 ∧ low = 0))
    (fun c => c.wp pd (decide ((c.rg rb).toNat ≤ (c.t[a.toFin]).toNat))))

/-- `semsig`: a signal of IMM12 to the semaphore that ga names; an invalid target is cause 0x0B (R144). A replay's
signals are suppressed (R383). -/
def State.signal (l : Loc) (ra : BitVec 5) (imm : BitVec 12) (s : State) : State :=
  let v := ((s.ctx l).rg ra).toNat
  if h : fld v 9 0 < 640 ∧ fld v 63 15 = 0 then
    let sg : Signal := ⟨l.tile, ⟨fld v 9 0, h.1⟩, ⟨fld v 11 10, by unfold fld; exact Nat.mod_lt _ (by decide)⟩,
      ⟨fld v 14 12, by unfold fld; exact Nat.mod_lt _ (by decide)⟩, imm.toNat⟩
    let s := if s.replaying l then s else { s with signals := s.signals ++ [sg] }
    s.advance l
  else s.insnFault l 0xB

/-- `semsig`; IMM12 from 1 to 4,095, N reserved. -/
def execSemsig (l : Loc) (g : Guard) (ra n : BitVec 5) (imm : BitVec 12) (s : State) : Outcome State Fault Refusal :=
  .next (s.slot l g (decide (n = 0 ∧ imm ≠ 0)) (State.signal l ra imm))

/-- Whether a signal under way is the first of its source and destination: those arrive in the order sent (R13). -/
def State.signalFirst (s : State) (g : Signal) : Bool :=
  decide (s.signals.find? (fun x => decide (x.src = g.src ∧ x.tile = g.tile)) = some g)

/-- An arriving signal adds; a sum above 2^32 − 1 saturates and faults the owner with cause 0x09 (R144). Signals of one source to one
tile arrive in the order sent. -/
def execSignalArrival (sig : Signal) (s : State) : Outcome State Fault Refusal :=
  .next (if s.signalFirst sig then
    let s := { s with signals := s.signals.erase sig }
    let l : Loc := ⟨sig.tile, sig.ctx⟩
    let v := ((s.ctx l).sem[sig.sem]).toNat + sig.amount
    let s' := s.updCtx l (fun c => c.wsem sig.sem (BitVec.ofNat 32 (min v (2 ^ 32 - 1))))
    if v < 2 ^ 32 then s' else s'.ctxFault l 9 0 0xE 0 (s'.pcAt l)
  else s)

/-- `wake.ahead`: the context's requested level; levels 6 and 7 and N[4:3] are reserved (R146). -/
def execWakeAhead (l : Loc) (g : Guard) (ra n : BitVec 5) (imm : BitVec 12) (s : State) : Outcome State Fault Refusal :=
  .next (s.slotCtx l g (decide (ra = 0 ∧ imm = 0 ∧ n.toNat ≤ 5)) (fun c => { c with level := n.truncate 3 }))

/-- `prog.mark`: the control-core progress counter (R148). -/
def execProgMark (l : Loc) (g : Guard) (ra n : BitVec 5) (imm : BitVec 12) (s : State) : Outcome State Fault Refusal :=
  .next (s.slotCtx l g (decide (ra = 0 ∧ n = 0 ∧ imm = 0)) (fun c => c.progress 0))

/-- `halt`: HALTED, the progress counter, and the release of the context's pins (R128, R148, R212). -/
def execHalt (l : Loc) (g : Guard) (ra n : BitVec 5) (imm : BitVec 12) (s : State) : Outcome State Fault Refusal :=
  .next (s.slot l g (decide (ra = 0 ∧ n = 0 ∧ imm = 0)) (fun s =>
    (s.updCtx l (fun c => { c.next.progress 0 with mode := .halted })).dropPins l))

end Sys2Proof.Machine
end

