-- ==== Sys2Proof/Machine/Commit.lean ====
section
/-! DEFINITION. The step protocol: what a context does with `step.commit` and its semaphores, arrival, readiness, the leader's
decision, the commit point and delivery (R144, R149, R262 to R273). -/
namespace Sys2Proof.Machine

open Host (Outcome)

/-! ### Recorded outcomes (R415 type 0x08, R383) -/

/-- Records the outcome of a `semwait`, a `semtest` or a RECV. -/
def State.recordOutcome (s : State) (l : Loc) (r : Recorded) : State :=
  let p := s.pairAt (some l.tile)
  let body := match r with
    | .sem n k ok => [0, n, k, if ok then 1 else 0]
    | .entries q data => 1 :: q :: data.length :: bodyOf data.flatten
  s.record 8 l.tile l.ctx p.1 p.2 body

/-- The outcome that a record's body holds: entries are 64 bytes, eight words. -/
def recordedOf (body : List Nat) : Recorded :=
  match body with
  | 1 :: q :: n :: ws => .entries q ((chunks 8 n ws).map (fun w => (w.map (leBytes 8)).flatten))
  | _ => .sem (body.getD 1 0) (body.getD 2 0) (decide (body.getD 3 0 = 1))

/-- Forgets the outcomes recorded for a context, at its `done`. -/
def State.dropOutcomes (s : State) (l : Loc) : State :=
  { s with book := { s.book with recs := s.book.recs.filter (fun r =>
      !decide (r.type = 8 ∧ r.tile = l.tile.val ∧ r.ctx = l.ctx.val)) } }

/-! ### Semaphores (R144, R128) -/

/-- The number of a semaphore. -/
def semIdx (n : BitVec 5) : Fin 8 := ⟨n.toNat % 8, Nat.mod_lt _ (by decide)⟩

/-- `semwait`: subtracts in the same cycle in which it finds the semaphore large enough. A replay is given the recorded
outcome instead, and waits once those are used up (R383). -/
def State.semWait (l : Loc) (n : BitVec 5) (imm : BitVec 12) (s : State) : State :=
  let k := semIdx n
  if s.replaying l then
    match s.nextFeed l with
    | some (.sem _ _ _) => (s.takeFeed l).updCtx l (fun c => c.next.woken)
    | _ => s.waitOn l (.sem k imm.toNat)
  else
    match (s.ctx l).takeSem k imm.toNat with
    | some c => (s.setCtx l c.next.woken).recordOutcome l (.sem k imm.toNat true)
    | none => s.waitOn l (.sem k imm.toNat)

/-- `semwait`; IMM12 from 1 to 4,095, N at most 7, RA reserved. -/
def execSemwait (l : Loc) (g : Guard) (ra n : BitVec 5) (imm : BitVec 12) (s : State) : Outcome State Fault Refusal :=
  .next (s.slot l g (decide (ra = 0 ∧ n.toNat ≤ 7 ∧ imm ≠ 0)) (State.semWait l n imm))

/-- A waited semaphore reaches the amount: it is subtracted and the context is ready. -/
def execSemwaitSatisfied (l : Loc) (s : State) : Outcome State Fault Refusal :=
  let c := s.ctx l
  .next (match c.mode, c.wait with
    | .wait, .sem n k =>
      if s.replaying l then s
      else
        match c.takeSem n k with
        | some c' => (s.setCtx l c'.woken).recordOutcome l (.sem n k true)
        | none => s
    | _, _ => s)

/-- `semtest`: an amount outside 1 to 4,095 is cause 0x0C. A replay is given the recorded outcomes, and waits once they are used up (R383). -/
def State.semTest (l : Loc) (pd : BitVec 3) (a rb : BitVec 5) (s : State) : State :=
  let c := s.ctx l
  let k := semIdx a
  let n := fld (c.rg rb).toNat 11 0
  if n = 0 then s.insnFault l 0xC
  else
    match s.replaying l, s.nextFeed l with
    | true, some (.sem _ _ ok) => ((s.takeFeed l).updCtx l (fun c => c.wp pd ok)).advance l
    | true, _ => s.waitOn l (.sem k n)
    | false, _ =>
      let r := c.takeSem k n
      ((s.setCtx l ((r.getD c).wp pd r.isSome)).advance l).recordOutcome l (.sem k n r.isSome)

/-- `semtest`; A at most 7. COND and KIND have no name in its row and are not checked (log 19). -/
def execSemtest (l : Loc) (g : Guard) (pd : BitVec 3) (a rb : BitVec 5) (_cond : BitVec 3) (_kind : BitVec 2)
    (low : BitVec 4) (s : State) : Outcome State Fault Refusal :=
  .next (s.slot l g (decide (low = 0 ∧ a.toNat ≤ 7)) (State.semTest l pd a rb))

/-! ### `step.commit` (R149, R150) -/

/-- Whether a context may execute a sub-operation: it is in its tile's step set and stands at that place of the step. -/
def State.stepAllowed (s : State) (l : Loc) (p : StepPos) : Bool :=
  decide (l.ctx.val ∈ s.stepSet l.tile ∧ (s.ctx l).step = p)

/-- `arrive`: the context has issued its step's work. Its arrival record holds the PC of the instruction after (R265). -/
def State.arrive (l : Loc) (s : State) : State :=
  if !s.stepAllowed l .start then s.insnFault l 0xA
  else
    let n := (s.tile l.tile).serial
    let s := s.updCtx l (fun c => { c.next.progress 0 with step := .arrived, arrSerial := n })
    if s.replaying l then s
    else
      let c := s.ctx l
      let rest := s.step.arrivals.filter (fun v => decide (v.loc ≠ l))
      { s with step := { s.step with arrivals := rest ++ [c.saved l c.pc] } }

/-- `step.commit` arrive. While the route book's share is full the context is held at the instruction, and its progress windows pause (R411). -/
def execStepCommitArrive (l : Loc) (g : Guard) (s : State) : Outcome State Fault Refusal :=
  .next (if s.book.full && s.stepAllowed l .start && (s.ctx l).passes g then
      { s with book := { s.book with held := withOne s.book.held (l.tile.val, l.ctx.val) } }
    else s.slot l g true (State.arrive l))

/-- The context has the decision: pd, and its place in the step. -/
def Ctx.decided (c : Ctx) (pd : BitVec 3) (d : Decision) : Ctx :=
  { (c.wp pd (Decision.advances d)).woken with step := if Decision.advances d then .decidedCommit else .decidedDiscard }

/-- `wait`: at once when the tile holds the decision of the context's step. A replay is given the recorded decision, or has
reached its position (R383). -/
def State.awaitDecision (l : Loc) (pd : BitVec 3) (s : State) : State :=
  let c := s.ctx l
  let x := s.tile l.tile
  if !s.stepAllowed l .arrived then s.insnFault l 0xA
  else
    let d := if s.replaying l then s.step.decision.map (·.1) else if c.epoch ≤ x.bounds then x.decision else none
    match d with
    | some d => if d = .halt then s.waitOn l (.decision pd) else s.setCtx l (c.next.decided pd d)
    | none => s.waitOn l (.decision pd)

/-- `step.commit` wait. -/
def execStepCommitWait (l : Loc) (g : Guard) (pd : BitVec 3) (s : State) : Outcome State Fault Refusal :=
  .next (s.slot l g true (State.awaitDecision l pd))

/-- A context past its `done`: the control core's counter has advanced (R148), and the counters of this moment are those of its new
restart point. -/
def Ctx.doneStep (c : Ctx) : Ctx :=
  let k := c.next.progress 0
  { k with step := .start, epoch := c.epoch + 1, progStart := k.prog }

/-- `done`: the save record is written, and the context is at the start of its next step, which it may have to sit out (R214). -/
def State.stepDone (l : Loc) (s : State) : State :=
  if !s.stepAllowed l .decidedCommit then s.insnFault l 0xA
  else
    let x := s.writeSave l (s.ctx l).next.pc
    if x.2 then
      ((x.1.dropOutcomes l).updCtx l Ctx.doneStep).sitOut l ((s.pairAt (some l.tile)).1 + 1)
    else x.1.ctxMemError l 4

/-- `step.commit` done. -/
def execStepCommitDone (l : Loc) (g : Guard) (s : State) : Outcome State Fault Refusal :=
  .next (s.slot l g true (State.stepDone l))

/-- `rewind`: registers, tags, predicates and the PC from the save record. -/
def State.stepRewind (l : Loc) (s : State) : State :=
  if s.stepAllowed l .decidedDiscard then s.rewindCtx l else s.insnFault l 0xA

/-- `step.commit` rewind. -/
def execStepCommitRewind (l : Loc) (g : Guard) (s : State) : Outcome State Fault Refusal :=
  .next (s.slot l g true (State.stepRewind l))

/-! ### Arrival (R149, R201, R214, R251) -/

/-- Whether a context's non-gated commands issued before its arrive have completed. -/
def Tile.arrivedWork (x : Tile) (c : CtxId) : Bool :=
  let n := x.ctxs[c].arrSerial
  let feeds := fun (k : EngCmd) => decide (k.ctx = c ∧ k.serial ≤ n) && !cmdCmt k.word
  !(x.queues.toList.any (fun q => q.any feeds)) && !(x.active.toList.any (fun q => q.any (fun a => feeds a.cmd)))

/-- Whether a tile arrives now: every context of its step set has arrived and its work is complete. -/
def State.canArrive (s : State) (t : Nat) : Bool :=
  let x := s.tile t
  !(s.stepCtxs t).isEmpty && !x.arrived && decide (x.decision = none) && (!s.step.stopped || x.passed) &&
  (s.stepCtxs t).all (fun c => decide (x.ctxs[c].step = .arrived) && x.arrivedWork c)

/-- Every tile has arrived: the tallies go out, and in a generation step the job record forms at once (R201, R214). -/
def State.allArrived (s : State) : State :=
  if s.step.decision.isSome || s.step.stopped || !s.everyStepTile (·.arrived) then s
  else
    let s := { s with step := { s.step with phase := 1 } }
    if s.learning s.curStep then (s.sendTallies).maybePartial
    else if s.step.jobRec.isSome then s else s.setJobRec ⟨0, 0, 0, s.curStep⟩

/-- TILE_ARRIVAL: the tile's buffers close in a learning step. -/
def execTileArrival (t : TileId) (s : State) : Outcome State Fault Refusal :=
  .next (if !s.canArrive t then s
    else
      let n := (s.pairAt (some t)).1
      let s := s.updTile t (fun x => { x with arrived := true })
      (if s.learning n then s.closeBuffers t else s).allArrived)

/-! ### Readiness (R265, R267) -/

/-- The version switches pending for step n, in table order. -/
def State.switchesOf (s : State) (n : Nat) : List (Nat × Nat) :=
  (List.range s.nTables).filterMap (fun t =>
    (s.emb.switches.find? (fun w => decide (w.1 = t ∧ w.2.2 = n))).map (fun w => (t, w.2.1)))

/-- The digest of the switches pending for a step, 0 with none (R267); the manual gives no encoding (log 26). -/
def State.switchDigest (s : State) (n : Nat) : Word :=
  let ws := s.switchesOf n
  if ws.isEmpty then 0
  else BitVec.ofNat 64 (sm3Low ((ws.map (fun w => [BitVec.ofNat 8 w.1, BitVec.ofNat 8 w.2])).flatten))

/-- Every commit-input range of the job, as (tile, offset, length). -/
def State.commitRanges (s : State) : List (Nat × Nat × Nat) :=
  match s.job.img with
  | some i => (i.sections.map (fun x => x.commitInputs.map (fun r => (x.tile, r.1, r.2)))).flatten
  | none => []

/-- Reads ranges of tile SRAM; none when a word is uncorrectable, with its tile. -/
def readRanges (s : State) : List (Nat × Nat × Nat) → State × Option Nat × List (Nat × Nat × List Byte)
  | [] => (s, none, [])
  | r :: rest =>
    let x := s.readT0 (sram r.1 r.2.1) r.2.2
    match x.2 with
    | none => (x.1, some r.1, [])
    | some bs =>
      let y := readRanges x.1 rest
      (y.1, y.2.1, (r.1, r.2.1, bs) :: y.2.2)

/-- The words of a commit set in its route-book record (R265, R415; the layout is the model's, log 27). -/
def CommitSet.words (k : CommitSet) : List Nat :=
  k.step :: (k.inputs.map (fun i => i.1 :: i.2.1 :: bodyOf i.2.2)).flatten ++
  (k.grads.map (fun g => g.tile :: g.table :: g.index :: g.vals)).flatten ++
  (k.arrivals.map (fun v => v.loc.tile.val :: v.loc.ctx.val :: bodyOf v.bytes)).flatten ++
  [ofSigned 128 k.job.squares, k.job.nonfin, k.job.clamps]

/-! ### The leader's decision (R264, R268) -/

/-- The decision of the table of R268, the leader holding every report. -/
def State.chooseDecision (s : State) : Decision :=
  let ctl := (s.reg rStepCtl).toNat
  let digests : List Word := s.step.reports.map (·.2)
  if s.step.rejoined then .discard
  else if !digests.all (fun (d : Word) => decide (d = digests.headD 0)) then .halt
  else if s.nonfinite then (if bitOf ctl 0 || decide (fld ctl 15 8 < s.step.skipRun + 1) then .halt else .skip)
  else .commit

/-- A discard beyond attempt 65,535 is a HALT (R263). -/
def capDiscard (d : Decision) (a : Nat) : Decision := if d = .discard ∧ 65535 ≤ a then .halt else d

/-- Whether a called cairn keeps the leader from committing the step before it (R403). -/
def State.awaitsCallacks (s : State) (d : Decision) : Bool :=
  Decision.advances d && decide (s.cairn.next = s.curStep + 1) && decide (0 < s.cairn.st) &&
  !(s.memberIds.all (fun m => decide (m ∈ s.cairn.acks)))

/-- Step-set contexts stop for a DISCARD that finds them before their `wait`: R375's first three steps, but a context that
waits at the decision receives it (R269). -/
def State.stopForDiscard (s : State) : State :=
  let waits := fun (c : Ctx) => match c.mode, c.wait with | .wait, .decision _ => true | _, _ => false
  if (s.allStepCtxs).all (fun l => waits (s.ctx l)) then s
  else
    let s := { s with step := { s.step with stopped := true } }
    let s := (s.allStepCtxs).foldl (fun s l =>
      if waits (s.ctx l) then s.updTile l.tile (fun x => x.dropAll l.ctx) else s.holdCtx l) s
    ((s.forgetRequests).clearBuffers (fun _ => true)).clearCoalescer (fun _ => true)

/-- A device that had stopped its attempt finishes the step from its commit set (R273, R375). -/
def State.finishStep (s : State) : State :=
  let s := (s.stepTiles).foldl (fun s t =>
    (s.restoreTile t).updTile t (fun x => { x with arrived := true })) s
  { s with step := { s.step with stopped := false, resume := true, phase := 5 } }

/-- The device acts on a decision that it has recorded. -/
def State.applyDecision (s : State) (d : Decision) : State :=
  match d with
  | .discard => s.stopForDiscard
  | .halt => s
  | _ => if s.step.stopped then s.finishStep else s

/-- The leader decides when it can: by the first row at a rejoin, by the others with every report in (R268). A step that an error keeps from
committing waits for the error's handling (R251, R254, R258). The decision goes to each member on its own, since R305 has no multicast of
its class. -/
def State.leaderDecide (s : State) : State :=
  let all := (s.memberIds).all (fun m => s.step.reports.any (fun r => decide (r.1 = m)))
  let clean := !s.step.spoilt && decide ((s.curStep, s.step.att) ∉ s.step.barred)
  if s.devId ≠ s.leader || s.step.decision.isSome || s.step.halted.isSome || !(s.step.rejoined || (all && clean)) then s
  else
    let n := s.curStep
    let a := s.step.att
    let d := capDiscard s.chooseDecision a
    if s.awaitsCallacks d then s
    else (let s := s.recordDecision d n a
          s.sendAll s.others n a (.stepDecision d)).applyDecision d

/-- A report at the leader. -/
def State.takeReport (s : State) (d : Nat) (digest : Word) : State :=
  if s.step.reports.any (fun r => decide (r.1 = d)) then s.leaderDecide
  else ({ s with step := { s.step with reports := s.step.reports ++ [(d, digest)] } } : State).leaderDecide

/-- Whether the device is ready (R267), the commit set aside. -/
def State.canReport (s : State) : Bool :=
  decide (s.job.st = .running) && s.step.decision.isNone && !s.step.stopped && !s.step.reported && s.step.halted.isNone &&
  s.everyStepTile (·.arrived) && s.step.jobRec.isSome && !s.step.spoilt && decide ((s.step.no, s.step.att) ∉ s.step.barred) && (!s.learning s.curStep || s.reductionsDone)

/-- The commit set of the step with given commit inputs (R265). -/
def State.commitSet (s : State) (inputs : List (Nat × Nat × List Byte)) (job : JobRec) : CommitSet :=
  { step := s.curStep, inputs := inputs, grads := s.emb.grads, arrivals := s.step.arrivals, job := job }

/-- The device reports. -/
def State.report (s : State) : State :=
  let s := { s with step := { s.step with reported := true, phase := 2 } }
  let dg := s.switchDigest s.curStep
  if s.leader = s.devId then s.takeReport s.devId dg else s.send s.leader s.curStep s.step.att (.stepReport dg)

/-- The commit set is written to the route book. -/
def State.writeCommit (s : State) (k : CommitSet) : State :=
  let s := s.record 9 0 0 s.curStep s.step.att k.words
  { s with step := { s.step with commit := some k } }

/-- DEVICE_READY: the commit set is written to the route book, and the report goes to the leader. A base camp job has no commit set (R448). -/
def execDeviceReady (s : State) : Outcome State Fault Refusal :=
  .next (match s.step.jobRec with
    | none => s
    | some job =>
      if !s.canReport then s
      else
        if s.job.baseRun then s.report
        else
        let x := readRanges s s.commitRanges
        match x.2.1 with
        | some t => x.1.tmemError 1 t 0 0xF
        | none => (x.1.writeCommit (x.1.commitSet x.2.2 job)).report)

/-- STEP_REPORT at the leader. -/
def execStepReport (m : Msg) (s : State) : Outcome State Fault Refusal :=
  .next (match m.body with
    | .stepReport dg => s.atHub m (fun s => if s.leader = s.devId then s.takeReport m.src dg else s)
    | _ => s)

/-! ### A decision at a member (R269) -/

/-- A member records a decision and acts on it. A copy of one that it holds is ignored; one that came back from a reset and had asked for
the decision announces its rejoin now, or under COMMIT or SKIP once it has finished the step (R272, R389). -/
def State.takeDecision (s : State) (d : Decision) (a : Nat) : State :=
  if s.step.decision.isSome || s.step.halted.isSome then s
  else
    let n := s.curStep
    let asked := s.step.queried
    let s := { s with step := { s.step with att := a, queried := false } }
    let s := (s.recordDecision d n a).applyDecision d
    if asked && !Decision.advances d then s.comeBack n else s

/-- STEP_DECISION. A device that has stopped its attempt takes the attempt number from the DISCARD (R376). -/
def execStepDecision (m : Msg) (s : State) : Outcome State Fault Refusal :=
  .next (match m.body with
    | .stepDecision d =>
      if m ∈ s.inbox && s.step.stopped && decide (d = .discard ∧ m.step = s.curStep ∧ s.step.att ≤ m.att) then
        (s.takeMsg m).takeDecision d m.att
      else s.atHub m (fun s => s.takeDecision d m.att)
    | _ => s)

/-- What a tile does with the decision: waiting contexts receive it; gated commands go unless it is COMMIT; under DISCARD
the device rewinds the contexts that have not received it (R143, R269). A context that sits the step out has ended it (R214). -/
def State.deliverTo (s : State) (t : TileId) (d : Decision) : State :=
  let s := s.updTile t (fun x => { x with decision := some d })
  let s := if d = .commit then s else s.dropGated t
  (s.stepCtxs t).foldl (fun s c =>
    let l : Loc := ⟨t, c⟩
    let k := s.ctx l
    match k.mode, k.wait with
    | .wait, .decision pd =>
      if (s.tile t).bounds < k.epoch then s
      else if s.offPhase l s.curStep then s.setCtx l { k with epoch := k.epoch + 1 }
      else s.setCtx l (k.decided pd d)
    | _, _ =>
      if d = .discard && k.alive && decide (k.epoch ≤ (s.tile t).bounds) then
        (s.updTile t (fun x => x.dropAll c)).rewindCtx l
      else s) s

/-- STEP_DECISION_DELIVERY. HALT is not delivered. -/
def execStepDecisionDelivery (t : TileId) (s : State) : Outcome State Fault Refusal :=
  .next (match s.step.decision with
    | some (d, _, _) =>
      let x := s.tile t
      if d = .halt || x.passed || x.decision.isSome || decide (t.val ∉ s.stepTiles) then s else s.deliverTo t d
    | none => s)

/-- The decision that a record of type 0x04 holds. -/
def recDecision (r : RtbRec) : Decision :=
  match r.body.head? with | some 1 => .commit | some 2 => .skip | some 3 => .discard | _ => .halt

/-- The recorded decision of a step (R272). -/
def State.recordedDecision (s : State) (n : Nat) : Option (Decision × Nat) :=
  match (s.book.recs.filter (fun r => decide (r.type = 4 ∧ r.step = n))).getLast? with
  | some r => some (recDecision r, r.att)
  | none => none

/-- A leader that returns from a reset sends its last recorded decision again (R272). -/
def State.resendDecision (s : State) : State :=
  match decide (s.leader = s.devId), (s.book.recs.filter (fun r => decide (r.type = 4))).getLast? with
  | true, some r => s.sendAll s.others r.step r.att (.stepDecision (recDecision r))
  | _, _ => s

/-- DECISION_QUERY: the leader answers with the recorded decision; it is never stale (R251, R272). -/
def execDecisionQuery (m : Msg) (s : State) : Outcome State Fault Refusal :=
  .next (if m ∉ s.inbox ∨ m.body ≠ .decisionQuery then s
    else
      let s := s.takeMsg m
      match s.recordedDecision m.step with
      | some (d, a) => if s.leader = s.devId then s.send m.src m.step a (.stepDecision d) else s
      | none => s)

end Sys2Proof.Machine
end

