-- ==== Sys2Proof/Machine/Quad.lean ====
section
/-! DEFINITION. The dot product and the matrix quad: the step rule, the descriptor, the rejection table, the modes, and
the product command (R60 to R101). -/
namespace Sys2Proof.Machine

open Host (Outcome)

/-! ### The dot product (R60 to R70) -/

/-- The exact sum of finite products: −0 only when every one is −0 (R64). -/
def exactSum (ps : List Val) : Val :=
  let v := ps.foldl (fun a x => match a, x with
    | .fin s m e, .fin t n f => addExact s m e t n f false
    | _, _ => a) Val.zero
  if v.isZero then (if ps.all (fun x => x.neg?) then Val.negZero else Val.zero) else v

/-- group_sum of R64, with whether it met opposite infinities. -/
def groupSum (ps : List Val) : Val × Bool :=
  if ps.any Val.isNan then (.nan false, false)
  else
    let up := ps.any (fun x => x.isInf && !x.neg?)
    let dn := ps.any (fun x => x.isInf && x.neg?)
    if up && dn then (.nan false, true)
    else if up then (.inf false, false)
    else if dn then (.inf true, false)
    else (exactSum ps, false)

/-- An operand element: its value without the block scale, and the scale's exponent. -/
abbrev Elem := Val × Int

/-- One group of the step rule: the running sum, and whether an invalid operation has been met (R64, R68). -/
def dotGroup (st : Val × Bool) (grp : List (Elem × Elem)) : Val × Bool :=
  let ps := grp.map (fun p => mulVal p.1.1 p.2.1)
  let bad := grp.any (fun p => p.1.1.isSnan || p.2.1.isSnan || infTimesZero p.1.1 p.2.1)
  let t := groupSum ps
  let sigma := match grp with
    | p :: _ => p.1.2 + p.2.2
    | [] => 0
  let x := t.1.scale sigma
  (c36Add st.1 x, st.2 || bad || t.2 || oppositeInf st.1 x)

/-- dot() of R64 before the final conversion: the running sum s and the invalid flag. `acc` is the accumulator input. -/
def dotProduct (g : Nat) (acc : Option Val) (a b : List Elem) : Val × Bool :=
  let s0 : Val × Bool := match acc with
    | some v => (v, v.isSnan)
    | none => (Val.negZero, false)
  (chunks g a.length (a.zip b)).foldl dotGroup s0

/-- The group of a format code: 4 for FS4, 2 for the 8-bit formats, else 1 (R62). -/
def groupOf (code : Nat) : Nat :=
  match fmtOfCode code with
  | some (f, _) => if f.width = 4 then 4 else if f.width = 8 then 2 else 1
  | none => 1

/-- The group size of a pair of operands: the wider operand's (R62). -/
def groupSize (fa fb : Nat) : Nat := min (groupOf fa) (groupOf fb)

/-- Whether a format code is block-scaled. -/
def isBlock (code : Nat) : Bool := decide (6 ≤ code ∧ code ≤ 8)

/-- The element format of a code. -/
def elemFmt (code : Nat) : Fmt :=
  match fmtOfCode code with
  | some (f, _) => f
  | none => .fp32

/-- The bytes of n elements of a code (R33, R82). -/
def elemBytes (code n : Nat) : Nat := ceilDiv ((elemFmt code).width * n) 8

/-- The encodings of n elements in memory order (R33). -/
def unpackElems (w n : Nat) (bs : List Byte) : List Nat :=
  if w = 4 then (bs.map (fun b => [b.toNat % 16, b.toNat / 16])).flatten.take n
  else ((chunks (w / 8) n bs).map leVal)

/-- The bytes of encodings in memory order. -/
def packElems (w : Nat) (es : List Nat) : List Byte :=
  if w = 4 then packNibbles es else (es.map (leBytes (w / 8))).flatten

/-- The operand elements of a row: values with their block scales (R40, R64, R82). -/
def operandElems (code n : Nat) (bs scales : List Byte) : List Elem :=
  let f := elemFmt code
  let vs := (unpackElems f.width n bs).map (decodeFmt f)
  if isBlock code then
    (List.range n).zipWith (fun i v =>
      let c := (scales.getD (i / 32) 0).toNat
      if c = 255 then (Val.nan false, 0) else (v, (c : Int) - 127)) vs
  else vs.map (fun v => (v, 0))

/-! ### The descriptor (R80, R81, R87, R88) -/

/-- A product descriptor; `m` already follows MOVR. Bases and strides in the units of R81. -/
structure QuadDesc where
  mode : Nat
  fa : Nat
  fb : Nat
  fo : Nat
  rnd : Nat
  ovf : Bool
  accSrc : Nat
  facc : Nat
  dst : Bool
  maskm : Nat
  subs : Nat
  intm : Bool
  kstart : Nat
  m : Nat
  k : Nat
  n : Nat
  work : Nat
  a : List Nat
  b : List Nat
  c : List Nat
  acc : List Nat
  mask : Nat
  q6 : Nat
  q7 : Nat
  deriving DecidableEq, Repr

/-- The fields of the eight words. Each of `a`, `b` is base, stride, scale base, scale stride and the sub-product strides
of base and scale base; `c` likewise; `acc` is base, stride and sub-product stride. -/
def QuadDesc.ofWords (w : List Nat) (movr : Nat) : QuadDesc :=
  let q := fun i => w.getD i 0
  let sixteen := decide (fld (q 0) 63 62 = 1)
  let st := fun (v : Nat) => if sixteen then v else 0
  let sb := st (fld (q 7) 46 30)
  { mode := fld (q 0) 63 62, fa := fld (q 0) 61 58, fb := fld (q 0) 57 54, fo := fld (q 0) 53 50,
    rnd := fld (q 0) 49 47, ovf := bitOf (q 0) 46, accSrc := fld (q 0) 45 44, facc := fld (q 0) 43 40,
    dst := bitOf (q 0) 39, maskm := fld (q 0) 38 37, subs := fld (q 0) 36 33, intm := bitOf (q 0) 32,
    kstart := fld (q 0) 31 0, m := if movr = 0 then fld (q 1) 63 55 else movr, k := fld (q 1) 54 31,
    n := fld (q 1) 30 15, work := fld (q 1) 14 0,
    a := [fld (q 2) 63 47, fld (q 2) 46 30, fld (q 2) 29 13, fld (q 2) 12 0, st (fld (q 6) 63 47), sb],
    b := [fld (q 3) 63 47, fld (q 3) 46 30, fld (q 3) 29 13, fld (q 3) 12 0, st (fld (q 6) 46 30), sb],
    c := [fld (q 4) 63 47, fld (q 4) 46 30, fld (q 5) 63 47, fld (q 5) 46 34, st (fld (q 6) 29 13), sb],
    acc := [fld (q 4) 29 13, fld (q 4) 12 0, st (fld (q 7) 63 47)],
    mask := fld (q 5) 33 17, q6 := q 6, q7 := q 7 }

/-- The group size g of the command. -/
def QuadDesc.g (d : QuadDesc) : Nat := groupSize d.fa d.fb

/-- Reduction indices in one pass (R77, R87). -/
def QuadDesc.kp (d : QuadDesc) : Nat := (if d.mode = 1 then 16 else 32) * d.g

/-- Output columns in one pass. -/
def QuadDesc.np (d : QuadDesc) : Nat := if d.mode = 1 then 16 else 128

/-- Sub-products: SUBS + 1 in 16×16 mode, else 1. -/
def QuadDesc.ns (d : QuadDesc) : Nat := if d.mode = 1 then d.subs + 1 else 1

/-- Whether the command uses its work region (R85). -/
def QuadDesc.usesWork (d : QuadDesc) : Bool := decide (d.mode ≠ 3 ∧ d.kp < d.k)

/-- The entries of the work region. -/
def QuadDesc.workLen (d : QuadDesc) : Nat := d.m * (if d.mode = 1 then 16 * d.ns else 128)

/-- The address, in 64-byte units or entries, of row r of sub-product s, from base, stride and sub-product stride. -/
def rowUnit (base stride bst s r : Nat) : Nat := base + s * bst + r * stride

/-- The bounding range of rows of a number of bytes, in bytes of tile SRAM. -/
def spanBytes (base stride bst subs rows len : Nat) : Nat × Nat :=
  (64 * base, 64 * ((subs - 1) * bst + (rows - 1) * stride) + len)

/-- The rows of an operand, sub-product by sub-product, as ranges of bytes of tile SRAM. -/
def rowRanges (base stride bst subs rows len : Nat) : List (Nat × Nat) :=
  (List.range subs).flatMap (fun s => (List.range rows).map (fun r => (64 * rowUnit base stride bst s r, len)))

/-- The bounding range of rows of a number of entries of the accumulator store. -/
def spanEntries (base stride bst subs rows len : Nat) : Nat × Nat :=
  (base, (subs - 1) * bst + (rows - 1) * stride + len)

/-! ### Convolution (R88, R89) -/

/-- The input position of an output row and a kernel tap: its pixel number, or none in the padding. -/
def QuadDesc.pixel (d : QuadDesc) (r tap : Nat) : Option Nat :=
  let h := fld d.q6 63 48
  let w := fld d.q6 47 32
  let ow := fld d.q6 15 0
  let kw := fld d.q7 43 40
  let y : Int := (r / ow : Nat) * (fld d.q7 39 36 : Nat) + (tap / kw : Nat) * (fld d.q7 31 28 : Nat) - (fld d.q7 23 20 : Nat)
  let x : Int := (r % ow : Nat) * (fld d.q7 35 32 : Nat) + (tap % kw : Nat) * (fld d.q7 27 24 : Nat) - (fld d.q7 19 16 : Nat)
  if 0 ≤ y ∧ y < h ∧ 0 ≤ x ∧ x < w then some (y.toNat * w + x.toNat) else none

/-- Channels C. -/
def QuadDesc.chans (d : QuadDesc) : Nat := fld d.q6 31 16

/-- Kernel taps KH × KW. -/
def QuadDesc.taps (d : QuadDesc) : Nat := fld d.q7 47 44 * fld d.q7 43 40

/-- The pixels that a convolution reads. -/
def QuadDesc.pixels (d : QuadDesc) : List Nat :=
  ((List.range d.m).map (fun r => (List.range d.taps).filterMap (fun k => d.pixel r k))).flatten

/-- The bounding range of the pixels that a convolution reads; empty when all are padding. -/
def QuadDesc.convSpan (d : QuadDesc) : Nat × Nat :=
  match d.pixels with
  | [] => (64 * d.a.getD 0 0, 0)
  | p :: r =>
    let lo := r.foldl min p
    let hi := r.foldl max p
    (64 * d.a.getD 0 0 + lo * 64 * d.a.getD 1 0, (hi - lo) * 64 * d.a.getD 1 0 + elemBytes d.fa d.chans)

/-- Slots of activation vector r in pass kb (R89): two real runs a slot. -/
def QuadDesc.slots (d : QuadDesc) (r kb : Nat) : Nat :=
  if d.mode ≠ 2 then 1
  else
    let lo := kb * d.kp
    let hi := min d.k (lo + d.kp)
    let runs := (List.range d.taps).filter (fun k => (d.pixel r k).isSome && overlaps (k * d.chans) d.chans lo (hi - lo))
    max 1 (ceilDiv runs.length 2)

/-! ### The rejection table (R84) -/

/-- The ranges of tile SRAM that the command reads, but for its accumulator input. -/
def QuadDesc.reads (d : QuadDesc) (desc : Nat) : List (Nat × Nat) :=
  let f := fun (o : List Nat) (rows len code : Nat) =>
    spanBytes (o.getD 0 0) (o.getD 1 0) (o.getD 4 0) d.ns rows (elemBytes code len) ::
    (if isBlock code then [spanBytes (o.getD 2 0) (o.getD 3 0) (o.getD 5 0) d.ns rows (ceilDiv len 32)] else [])
  (if d.mode = 2 then [d.convSpan] else f d.a d.m (if d.mode = 3 then d.n else d.k) d.fa) ++
  (if d.mode = 3 then f d.b d.m d.n d.fb else f d.b d.n d.k d.fb) ++
  (if d.maskm = 0 then [] else [(64 * d.mask, ceilDiv (if d.maskm = 1 then d.m else ceilDiv d.m 16) 8)]) ++
  [(desc, 64)]

/-- The accumulator input's range: bytes of tile SRAM (ACC_SRC 2) or entries (ACC_SRC 1). -/
def QuadDesc.accSpan (d : QuadDesc) : Nat × Nat :=
  if d.accSrc = 1 then spanEntries (d.acc.getD 0 0) (d.acc.getD 1 0) (d.acc.getD 2 0) d.ns d.m d.n
  else spanBytes (d.acc.getD 0 0) (d.acc.getD 1 0) (d.acc.getD 2 0) d.ns d.m (elemBytes d.facc d.n)

/-- The output's range: bytes, or entries when DST is 1. -/
def QuadDesc.outSpan (d : QuadDesc) : Nat × Nat :=
  if d.dst then spanEntries (d.c.getD 0 0) (d.c.getD 1 0) (d.c.getD 4 0) d.ns d.m d.n
  else spanBytes (d.c.getD 0 0) (d.c.getD 1 0) (d.c.getD 4 0) d.ns d.m (elemBytes d.fo d.n)

/-- The ranges of tile SRAM that the command writes. -/
def QuadDesc.writes (d : QuadDesc) : List (Nat × Nat) :=
  (if d.dst then [] else [d.outSpan]) ++
  (if isBlock d.fo then [spanBytes (d.c.getD 2 0) (d.c.getD 3 0) (d.c.getD 5 0) d.ns d.m (d.n / 32)] else [])

/-- The rows that the command reads, but for its accumulator input, each as a range. -/
def QuadDesc.readRows (d : QuadDesc) (desc : Nat) : List (Nat × Nat) :=
  let f := fun (o : List Nat) (rows len code : Nat) =>
    rowRanges (o.getD 0 0) (o.getD 1 0) (o.getD 4 0) d.ns rows (elemBytes code len) ++
    (if isBlock code then rowRanges (o.getD 2 0) (o.getD 3 0) (o.getD 5 0) d.ns rows (ceilDiv len 32) else [])
  (if d.mode = 2 then d.pixels.map (fun p => (64 * d.a.getD 0 0 + p * 64 * d.a.getD 1 0, elemBytes d.fa d.chans))
    else f d.a d.m (if d.mode = 3 then d.n else d.k) d.fa) ++
  (if d.mode = 3 then f d.b d.m d.n d.fb else f d.b d.n d.k d.fb) ++
  (if d.maskm = 0 then [] else [(64 * d.mask, ceilDiv (if d.maskm = 1 then d.m else ceilDiv d.m 16) 8)]) ++
  [(desc, 64)]

/-- The rows of an accumulator input from tile SRAM. -/
def QuadDesc.accRows (d : QuadDesc) : List (Nat × Nat) :=
  rowRanges (d.acc.getD 0 0) (d.acc.getD 1 0) (d.acc.getD 2 0) d.ns d.m (elemBytes d.facc d.n)

/-- The rows of tile SRAM that the command writes. -/
def QuadDesc.writeRows (d : QuadDesc) : List (Nat × Nat) :=
  (if d.dst then [] else rowRanges (d.c.getD 0 0) (d.c.getD 1 0) (d.c.getD 4 0) d.ns d.m (elemBytes d.fo d.n)) ++
  (if isBlock d.fo then rowRanges (d.c.getD 2 0) (d.c.getD 3 0) (d.c.getD 5 0) d.ns d.m (d.n / 32) else [])

/-- Whether two ranges share something. -/
def crosses (x y : Nat × Nat) : Bool := overlaps x.1 x.2 y.1 y.2

/-- Entries of the accumulator store (R79). -/
def accEntries : Nat := 32768

/-- Whether the output and the accumulator input are identical in base, stride and format. -/
def QuadDesc.inPlace (d : QuadDesc) : Bool :=
  decide (d.c.getD 0 0 = d.acc.getD 0 0 ∧ d.c.getD 1 0 = d.acc.getD 1 0 ∧ d.c.getD 4 0 = d.acc.getD 2 0) &&
  (decide (d.accSrc = 1) && d.dst || decide (d.accSrc = 2 ∧ d.fo = d.facc) && !d.dst)

/-- Row 8, Range: of every row addressed, masked rows with them (R95 judges the mask when it is read; DESIGN CHOICE, log 41); a buffer's storage counts as beyond tile SRAM, but for a drain that lies whole in an input window of a
learning step (R249, R214). -/
def State.quadRange (s : State) (t : TileId) (d : QuadDesc) (desc : Nat) : Bool :=
  let ok := fun (x : Nat × Nat) => s.sramOk t x.1 x.2
  let window := !d.dst && decide (d.fo = 9) && (s.windowOf t d.outSpan.1 d.outSpan.2).isSome &&
    s.learning (s.reg (rTileStep t)).toNat
  let entries := fun (x : Nat × Nat) => decide (x.1 + x.2 ≤ accEntries)
  !((d.readRows desc).all ok && (decide (d.accSrc ≠ 2) || d.accRows.all ok) && (window || d.writeRows.all ok) &&
    (decide (d.accSrc ≠ 1) || entries d.accSpan) && (!d.dst || entries d.outSpan) &&
    (!d.usesWork || decide (d.work + d.workLen ≤ accEntries)))

/-- Row 9, Overlap, of all M rows as in row 8. A range of strided rows is taken as its bounding range, so that rows which interleave count as overlapping: the
manual speaks of ranges and does not say whether the gaps belong to them (DESIGN CHOICE, log 41). -/
def QuadDesc.overlap (d : QuadDesc) (desc : Nat) : Bool :=
  let work := (d.work, d.workLen)
  d.writes.any (fun w => (d.reads desc).any (crosses w)) ||
  (decide (d.accSrc = 2) && d.writes.any (fun w => crosses w d.accSpan) && !d.inPlace) ||
  (decide (d.accSrc = 1) && d.dst && crosses d.outSpan d.accSpan && !d.inPlace) ||
  (d.usesWork && ((d.dst && crosses work d.outSpan) || (decide (d.accSrc = 1) && crosses work d.accSpan)))

/-- Row 7, Mode fields (R84, R88, R90). -/
def QuadDesc.modeBad (d : QuadDesc) : Bool :=
  decide (d.subs ≠ 0 ∧ d.mode ≠ 1) || decide (d.maskm ≠ 0 ∧ 2 ≤ d.mode) ||
  (decide (d.mode = 2) &&
    decide (d.m ≠ fld d.q7 63 48 * fld d.q6 15 0 ∨ d.k ≠ d.taps * d.chans ∨ d.chans % 4 ≠ 0 ∨ d.taps = 0 ∨
      fld d.q7 39 36 = 0 ∨ fld d.q7 35 32 = 0 ∨ isBlock d.fa)) ||
  (decide (d.mode = 3) && decide (d.k ≠ 1 ∨ isBlock d.fa ∨ isBlock d.fb ∨ isBlock d.fo))

/-- The first row of R84 that applies, or the rule of R143: (cause, row). -/
def State.quadReject (s : State) (t : TileId) (cmt : Bool) (movr desc : Nat) (d : QuadDesc) : Option (Nat × Nat) :=
  let operand := fun (c : Nat) => decide (1 ≤ c ∧ c ≤ 8)
  let blk := isBlock d.fa || isBlock d.fb
  if d.accSrc = 3 ∨ d.maskm = 3 ∨ 5 < d.rnd ∨ !operand d.fa ∨ !operand d.fb ∨ d.fo = 0 ∨ 9 < d.fo ∨ 14 ≤ d.facc then some (5, 1)
  else if d.accSrc = 2 ∧ d.facc ≠ 1 ∧ d.facc ≠ 2 ∧ d.facc ≠ 9 then some (5, 2)
  else if d.dst ∧ d.fo ≠ 9 then some (5, 3)
  else if d.m = 0 ∨ 256 < d.m ∨ d.k = 0 ∨ d.n = 0 ∨ 256 < movr then some (5, 4)
  else if d.kstart % (if blk then 32 else 4) ≠ 0 ∨ (d.usesWork ∧ d.work % 128 ≠ 0) then some (5, 5)
  else if isBlock d.fo ∧ d.n % 32 ≠ 0 then some (5, 6)
  else if d.modeBad then some (5, 7)
  else if s.quadRange t d desc then some (5, 8)
  else if d.overlap desc then some (5, 9)
  else
    let acc := fun (x : Nat × Nat) => (sramSize + 8 * x.1, 8 * x.2)
    let ws := d.writeRows ++ (if d.dst then [acc d.outSpan] else []) ++ (if d.usesWork then [acc (d.work, d.workLen)] else [])
    if !cmt && ws.any (fun w => s.committedTile t w.1 w.2) then some (8, 0) else none

/-! ### Reading operands -/

/-- A read of the tile's window by an engine; an uncorrectable error carries its TMEM cause. -/
def State.rdTile (s : State) (t off n : Nat) : State × Except Nat (List Byte) :=
  let x := s.readT0 (sram t off) n
  match x.2 with
  | some bs => (x.1, .ok bs)
  | none => (x.1, .error (if off < sramSize then 1 else 2))

/-- One row of an operand: elements and, where block-scaled, scale bytes. -/
def State.rdOperand (s : State) (t off soff code n : Nat) : State × Except Nat (List Elem) :=
  let x := s.rdTile t off (elemBytes code n)
  match x.2 with
  | .error c => (x.1, .error c)
  | .ok bs =>
    if isBlock code then
      let y := x.1.rdTile t soff (ceilDiv n 32)
      match y.2 with
      | .error c => (y.1, .error c)
      | .ok sc => (y.1, .ok (operandElems code n bs sc))
    else (x.1, .ok (operandElems code n bs []))

/-- Reads in turn, until one fails. -/
def mapReads {α β : Type} (f : State → α → State × Except Nat β) (s : State) : List α → State × Except Nat (List β)
  | [] => (s, .ok [])
  | a :: r =>
    let x := f s a
    match x.2 with
    | .error c => (x.1, .error c)
    | .ok v =>
      let y := mapReads f x.1 r
      match y.2 with
      | .error c => (y.1, .error c)
      | .ok vs => (y.1, .ok (v :: vs))

/-- Row r of operand `o` in sub-product sp (R82, R87). -/
def State.rdRow (s : State) (t : Nat) (o : List Nat) (code len sp r : Nat) : State × Except Nat (List Elem) :=
  s.rdOperand t (64 * rowUnit (o.getD 0 0) (o.getD 1 0) (o.getD 4 0) sp r)
    (64 * rowUnit (o.getD 2 0) (o.getD 3 0) (o.getD 5 0) sp r) code len

/-- One tap of an activation vector in convolution mode: padding supplies +0 (R88). -/
def State.rdTap (s : State) (t : Nat) (d : QuadDesc) (r tap : Nat) : State × Except Nat (List Elem) :=
  match d.pixel r tap with
  | none => (s, .ok (List.replicate d.chans (Val.zero, 0)))
  | some p => s.rdOperand t (64 * d.a.getD 0 0 + p * 64 * d.a.getD 1 0) 0 d.fa d.chans

/-- Activation vector r of sub-product sp. -/
def State.rdA (s : State) (t : Nat) (d : QuadDesc) (sp r : Nat) : State × Except Nat (List Elem) :=
  if d.mode = 2 then
    let x := mapReads (fun s tap => s.rdTap t d r tap) s (List.range d.taps)
    (x.1, x.2.map List.flatten)
  else s.rdRow t d.a d.fa (if d.mode = 3 then d.n else d.k) sp r

/-- The accumulator inputs of columns c0 on of row r (R65, R82); none when there is none. -/
def State.rdAcc (s : State) (t : Nat) (d : QuadDesc) (sp r c0 n : Nat) : State × Except Nat (List (Option Val)) :=
  let u := rowUnit (d.acc.getD 0 0) (d.acc.getD 1 0) (d.acc.getD 2 0) sp r
  match d.accSrc with
  | 0 => (s, .ok (List.replicate n none))
  | 1 =>
    let x := s.rdTile t (sramSize + 8 * (u + c0)) (8 * n)
    (x.1, x.2.map (fun bs => (unpackElems 64 n bs).map (fun e => some (decodeFmt .c36 e))))
  | _ =>
    let f := elemFmt d.facc
    let x := s.rdTile t (64 * u + elemBytes d.facc c0) (elemBytes d.facc n)
    (x.1, x.2.map (fun bs => (unpackElems f.width n bs).map (fun e => some (decodeFmt f e))))

/-! ### The final conversion and the drain (R67, R68, R92) -/

/-- The rounding attribute of the final conversion: RTO under INTM (R81). -/
def QuadDesc.mode' (d : QuadDesc) : Rnd := if d.intm then .rto else (Rnd.ofCode d.rnd).getD .rne

/-- What the drain makes of output elements: encodings, flags, and the scale codes of their blocks. `draw i` is the draw
of the i-th of them. -/
def QuadDesc.convert (d : QuadDesc) (draw : Nat → Nat) (vs : List (Val × Bool)) : List Nat × List AFlags × List Nat :=
  let f := elemFmt d.fo
  let inv := fun (b : Bool) (fl : AFlags) => if b then fl.or .invalid else fl
  if d.fo = 9 then (vs.map (fun v => encodeVal .c36 v.1), vs.map (fun v => inv v.2 .none), [])
  else if isBlock d.fo then
    let blocks := (List.range (vs.length / 32)).map (fun j =>
      let b := (vs.drop (32 * j)).take 32
      let e := encodeBlock (b.map (·.1)) f d.mode' d.ovf (fun i => draw (32 * j + i))
      (e.1, e.2.map (·.1), (b.zip e.2).map (fun p => inv p.1.2 p.2.2)))
    ((blocks.map (·.2.1)).flatten, (blocks.map (·.2.2)).flatten, blocks.map (·.1))
  else
    let rs := (List.range vs.length).zipWith (fun i v =>
      let r := convertVal v.1 f d.mode' (draw i) d.ovf
      (encodeVal f r.1, inv v.2 r.2)) vs
    (rs.map (·.1), rs.map (·.2), [])

/-- Drains values into a buffer's window: element e of each value (R249). A closed buffer discards them, with one STEP
0x01 entry for the row, and the step does not commit (R251, log 23). A replay discards them (R383). The list says which values the drain
has added. -/
def State.drainRow (s : State) (l : Loc) (n : Nat) (b : BufDesc) (e : Nat) (vs : List Val) :
    State × List Bool × Except Nat Unit :=
  if s.replaying l then (s, vs.map (fun _ => false), .ok ())
  else if (s.buf n).closed then
    ((s.barCommit (s.pairAt (some l.tile))).logError 7 1 l.tile l.ctx 0 (n % 2 ^ 16 + e % 2 ^ 40 * 2 ^ 16) 0 0, vs.map (fun _ => false), .ok ())
  else
    (List.range vs.length).foldl (fun st i =>
      match st.2.2 with
      | .error _ => st
      | .ok _ =>
        let y := st.1.drainInto n b (e + i) (vs.getD i Val.zero)
        (y.1, st.2.1 ++ [y.2], if y.2 then .ok () else .error 1)) (s, [], .ok ())

/-- Whether the byte at `a` was stored by a write of n bytes at `at'` into T0: its word was covered whole, or is not uncorrectable. -/
def State.wasStored (s : State) (at' n a : Nat) : Bool :=
  inside (a / 8 * 8) 8 at' n || !(s.poison.get (fun _ => false) (poisonKey (a / 8 * 8)))

/-- Writes the columns c0 on of row r of sub-product sp: encodings and scale codes, or entries, or into a buffer. The list says which
elements the drain has written (R68). -/
def State.writeOut (s : State) (l : Loc) (d : QuadDesc) (sp r c0 : Nat) (vs : List (Val × Bool)) (es sc : List Nat) :
    State × List Bool × Except Nat Unit :=
  let t : Nat := l.tile
  let u := rowUnit (d.c.getD 0 0) (d.c.getD 1 0) (d.c.getD 4 0) sp r
  let store := fun (s : State) (at' w : Nat) (es : List Nat) =>
    let bs := packElems w es
    let x := s.writeT0 at' bs
    (x.1, (List.range es.length).map (fun i => x.2 || x.1.wasStored at' bs.length (at' + i * w / 8)),
      if x.2 then Except.ok () else Except.error 4)
  if d.dst then store s (sram t (sramSize + 8 * (u + c0))) 64 es
  else
    match (if d.fo = 9 then s.windowOf t d.outSpan.1 d.outSpan.2 else none) with
    | some n =>
      match s.bufDesc n with
      | some b => s.drainRow l n b ((64 * u - b.store) / 8 + c0) (vs.map (·.1))
      | none => (s, [], .ok ())
    | none =>
      let x := store s (sram t (64 * u + elemBytes d.fo c0)) (elemFmt d.fo).width es
      match x.2.2 with
      | .error c => (x.1, x.2.1, .error c)
      | .ok _ =>
        if sc.isEmpty then x
        else
          let su := rowUnit (d.c.getD 2 0) (d.c.getD 3 0) (d.c.getD 5 0) sp r
          let y := x.1.writeT0 (sram t (64 * su + c0 / 32)) (sc.map (BitVec.ofNat 8))
          (y.1, x.2.1, if y.2 then .ok () else .error 4)

/-- Runs steps in order until one fails. -/
def runUntil {α : Type} (f : State → α → State × Except Nat Unit) (s : State) : List α → State × Except Nat Unit
  | [] => (s, .ok ())
  | a :: r =>
    let x := f s a
    match x.2 with
    | .error c => (x.1, .error c)
    | .ok _ => runUntil f x.1 r

/-- Runs steps in order until one fails: what they gave before, and the failure. -/
def gatherUntil {α β : Type} (f : State → α → State × Except Nat β) (s : State) : List α → State × List β × Option Nat
  | [] => (s, [], none)
  | a :: r =>
    let x := f s a
    match x.2 with
    | .error c => (x.1, [], some c)
    | .ok v =>
      let y := gatherUntil f x.1 r
      (y.1, v :: y.2.1, y.2.2)

/-! ### Masks (R95) -/

/-- Whether row r is masked, given the mask's bytes. -/
def QuadDesc.masked (d : QuadDesc) (bs : List Byte) (r : Nat) : Bool :=
  let i := if d.maskm = 1 then r else r / 16
  decide (d.maskm ≠ 0) && (bs.getD (i / 8) 0).getLsbD (i % 8)

/-- Whether every row of the block of 16 that holds row r is masked. -/
def QuadDesc.blockMasked (d : QuadDesc) (bs : List Byte) (r : Nat) : Bool :=
  ((List.range d.m).filter (fun q => decide (q / 16 = r / 16))).all (d.masked bs)

/-- Columns whose outputs drain together: an output block's, or a scale block's where that is larger (R67, R83). -/
def QuadDesc.colStep (d : QuadDesc) : Nat := if d.mode = 1 ∧ isBlock d.fo then 32 else d.np

/-! ### Cycles and slots (R89, R93, R97) -/

/-- Reduction passes of one output block. -/
def QuadDesc.kPasses (d : QuadDesc) : Nat := if d.mode = 3 then 1 else ceilDiv d.k d.kp

/-- Output blocks. -/
def QuadDesc.nBlocks (d : QuadDesc) : Nat := if d.mode = 3 then 1 else ceilDiv d.n d.np

/-- The rows fed. -/
def QuadDesc.fed (d : QuadDesc) (mask : List Byte) : List Nat := (List.range d.m).filter (fun r => !d.blockMasked mask r)

/-- Slots of reduction pass kb, without bubbles other than the extra slots of R89. -/
def QuadDesc.passSlots (d : QuadDesc) (mask : List Byte) (kb : Nat) : Nat :=
  if d.mode = 3 then d.m * ceilDiv d.n 128 else ((d.fed mask).map (fun r => d.slots r kb)).sum

/-- The spare row of an array of a tile, from the array row map (R94). -/
def State.spareRow (s : State) (t a : Nat) : Option Nat :=
  (s.sec.rowMap.find? (fun e => decide (e.1 = 4 * t + a))).map (·.2)

/-- The fill latency F of a command (R93): the largest of the arrays it drives. -/
def State.fillLatency (s : State) (t : Nat) (d : QuadDesc) : Nat :=
  let arrays := if d.mode = 1 then (d.ns + 3) / 4 else 4
  let spare := (List.range arrays).any (fun a => (s.spareRow t a).isSome)
  if d.mode = 3 then 6 else (if d.mode = 1 then 34 else 66) + (if spare then 1 else 0)

/-- The nominal cycles T of R97. -/
def State.quadCycles (s : State) (t : Nat) (d : QuadDesc) (mask : List Byte) : Nat :=
  let ii := if d.fa = 1 ∨ d.fb = 1 then 4 else 1
  let ld := if d.mode = 3 then 0 else (if d.fb = 1 then 32 else 16) + (if isBlock d.fb then 1 else 0)
  let f := s.fillLatency t d
  let kp := d.kPasses
  let p := d.nBlocks * kp
  let v := fun i => d.passSlots mask (i % kp) * ii
  let period := fun i => if i % kp = kp - 1 then max (v i) ld else max (max (v i) ld) (f + 2)
  ld + ((List.range (p - 1)).map period).sum + v (p - 1) + f + 1

/-! ### Passes (R83, R85, R95, R96, R99) -/

/-- Adds to a counter of the tile's quad. -/
def State.quadCount (s : State) (t off n : Nat) : State := s.count (tileReg t 1 off) n

/-- Output blocks among n columns. -/
def QuadDesc.blocksOf (d : QuadDesc) (n : Nat) : Nat := if d.mode = 3 then 1 else ceilDiv n d.np

/-- A vector has been fed in pass kb: its data slots, and its extra convolution slots (R89, R99). -/
def State.countFed (s : State) (t : Nat) (d : QuadDesc) (r kb n : Nat) : State :=
  let k := if d.mode = 3 then ceilDiv d.n 128 else d.blocksOf n
  (s.quadCount t 0x040 k).quadCount t 0x048 (k * (d.slots r kb - 1))

/-- A fully masked block is skipped in a pass: it counts once, at its first row (R96). -/
def State.countSkip (s : State) (t : Nat) (d : QuadDesc) (r n : Nat) : State :=
  if r % 16 = 0 then s.quadCount t 0x060 (d.blocksOf n) else s

/-- A read that a pass before the last makes: its words are checked, and read again where their sum is formed. -/
def State.touch (s : State) (t off n : Nat) : State × Except Nat Unit :=
  let x := s.rdTile t off n
  (x.1, x.2.map (fun _ => ()))

/-- Positions lo up to hi of row r of an operand, with their scale bytes. -/
def State.touchRow (s : State) (t : Nat) (o : List Nat) (code sp r lo hi : Nat) : State × Except Nat Unit :=
  let x := s.touch t (64 * rowUnit (o.getD 0 0) (o.getD 1 0) (o.getD 4 0) sp r + elemBytes code lo)
    (elemBytes code hi - elemBytes code lo)
  match x.2 with
  | .error c => (x.1, .error c)
  | .ok _ =>
    if isBlock code then
      x.1.touch t (64 * rowUnit (o.getD 2 0) (o.getD 3 0) (o.getD 5 0) sp r + lo / 32) (ceilDiv hi 32 - lo / 32)
    else x

/-- The run of positions lo up to hi that lies in a tap of activation vector r; padding is read from nowhere (R88). -/
def State.touchTap (s : State) (t : Nat) (d : QuadDesc) (r lo hi tap : Nat) : State × Except Nat Unit :=
  match d.pixel r tap with
  | none => (s, .ok ())
  | some p =>
    let c0 := lo - tap * d.chans
    let c1 := min (hi - tap * d.chans) d.chans
    if c1 ≤ c0 then (s, .ok ())
    else s.touch t (64 * d.a.getD 0 0 + p * 64 * d.a.getD 1 0 + elemBytes d.fa c0) (elemBytes d.fa c1 - elemBytes d.fa c0)

/-- Positions lo up to hi of activation vector r of sub-product sp. -/
def State.touchA (s : State) (t : Nat) (d : QuadDesc) (sp r lo hi : Nat) : State × Except Nat Unit :=
  if d.mode = 2 then runUntil (fun s tap => s.touchTap t d r lo hi tap) s (List.range d.taps)
  else s.touchRow t d.a d.fa sp r lo hi

/-- The accumulator inputs of a row of a block of columns, by sub-product. -/
abbrev AccRow := List (List (Option Val))

/-- Pass kb of the n columns from c0 on, before the last pass: its weights, then its vectors, each checked as it is fed. The first pass
takes the accumulator inputs, which it answers by row. -/
def State.quadPass (s : State) (t : Nat) (d : QuadDesc) (mask : List Byte) (c0 n kb : Nat) : State × Except Nat (List AccRow) :=
  let lo := kb * d.kp
  let hi := min d.k (lo + d.kp)
  let x := runUntil (fun s sp => runUntil (fun s c => s.touchRow t d.b d.fb sp (c0 + c) lo hi) s (List.range n)) s (List.range d.ns)
  match x.2 with
  | .error c => (x.1, .error c)
  | .ok _ =>
    mapReads (fun s r =>
      if d.blockMasked mask r then (s.countSkip t d r n, .ok [])
      else
        let y := mapReads (fun s sp =>
          let z := s.touchA t d sp r lo hi
          match z.2 with
          | .error c => (z.1, .error c)
          | .ok _ => if kb = 0 then z.1.rdAcc t d sp r c0 n else (z.1, .ok [])) s (List.range d.ns)
        (if y.2.isOk then y.1.countFed t d r kb n else y.1, y.2)) x.1 (List.range d.m)

/-- What the last pass makes of a row of one sub-product: the values, with whether an invalid operation was met. -/
structure OutRow where
  sp : Nat
  r : Nat
  vals : List (Val × Bool)
  deriving DecidableEq, Repr

/-- Row r of sub-product sp in the last pass: reads A, and the accumulator input where no earlier pass has taken it, and computes. -/
def State.quadVals (s : State) (t : Nat) (d : QuadDesc) (acc : Option (List (Option Val))) (c0 : Nat)
    (cols : List (List Elem)) (sp r : Nat) : State × Except Nat OutRow :=
  let n := if d.mode = 3 then d.n else cols.length
  let x := s.rdA t d sp r
  match x.2 with
  | .error c => (x.1, .error c)
  | .ok a =>
    let y : State × Except Nat (List (Option Val)) := match acc with
      | some vs => (x.1, .ok vs)
      | none => x.1.rdAcc t d sp r c0 n
    match y.2 with
    | .error c => (y.1, .error c)
    | .ok acc =>
      let vs : List (Val × Bool) :=
        if d.mode = 3 then ((a.zip (cols.getD 0 [])).zip acc).map (fun p => dotProduct 1 p.2 [p.1.1] [p.1.2])
        else (cols.zip acc).map (fun p => dotProduct d.g p.2 a p.1)
      (y.1, .ok ⟨sp, r, vs⟩)

/-- The drain of one row: converted, written, and the flags of what was written raised; a masked row is dropped (R68, R95). -/
def State.quadDrain (s : State) (k : EngCmd) (l : Loc) (d : QuadDesc) (mask : List Byte) (c0 : Nat) (o : OutRow) :
    State × Except Nat Unit :=
  if d.masked mask o.r then (s.quadCount l.tile 0x068 (d.blocksOf o.vals.length), .ok ())
  else
    let keys := s.keys l.tile (cmdFld k.word 95 64) (cmdFld k.word 127 96)
    let i0 := (o.sp * d.m + o.r) * d.n + c0
    let e := d.convert (fun i => if d.mode' = .sr12 then keys.draw (i0 + i) else 0) o.vals
    let z := s.writeOut l d o.sp o.r c0 o.vals e.1 e.2.2
    (z.1.raiseFlags l ((e.2.1.zip z.2.1).filterMap (fun p => if p.2 then some p.1 else none)), z.2.2)

/-- Drains the rows of a last pass. After a failed read some of the rows computed before it have been written and the others never are:
how many depends on the drain's timing, and is a free value (log 41). -/
def State.quadDrains (s : State) (k : EngCmd) (l : Loc) (d : QuadDesc) (mask : List Byte) (c0 : Nat)
    (rows : List OutRow) (err : Option Nat) : State × Except Nat Unit :=
  match err with
  | none => runUntil (fun s o => s.quadDrain k l d mask c0 o) s rows
  | some c =>
    let r := s.draw
    let x := runUntil (fun s o => s.quadDrain k l d mask c0 o) r.2 (rows.take (r.1.toNat % (rows.length + 1)))
    (x.1, match x.2 with | .error e => .error e | .ok _ => .error c)

/-- The last pass of the n columns from c0 on: its weights, then every fed row in all sub-products in step; it answers the rows computed,
and the failure that ended it. `accs` are the accumulator inputs that the first of several passes took. A row reads its accumulator input before any row of the block is written: the manual
orders only a row's own read and write, and with strides of 0 rows share addresses (DESIGN CHOICE, log 41). -/
def State.quadLast (s : State) (t : Nat) (d : QuadDesc) (mask : List Byte) (c0 n : Nat)
    (accs : Option (List AccRow)) : State × List OutRow × Option Nat :=
  let cs := (List.range n).map (· + c0)
  let x := mapReads (fun s sp => mapReads (fun s c => s.rdRow t d.b d.fb d.k sp c) s cs) s (List.range d.ns)
  match x.2 with
  | .error c => (x.1, [], some c)
  | .ok ws =>
    let y := gatherUntil (fun s r =>
      if d.blockMasked mask r then (s.countSkip t d r n, .ok [])
      else
        let z := mapReads (fun s sp =>
          s.quadVals t d (accs.map (fun a => (a.getD r []).getD sp [])) c0 (ws.getD sp []) sp r) s (List.range d.ns)
        (if z.2.isOk then z.1.countFed t d r (d.kPasses - 1) n else z.1, z.2)) x.1 (List.range d.m)
    (y.1, y.2.1.flatten, y.2.2)

/-- One block of output columns: its passes in order (R85, R87). -/
def State.quadBlock (s : State) (t : Nat) (d : QuadDesc) (mask : List Byte) (c0 : Nat) : State × List OutRow × Option Nat :=
  let n := min d.np (d.n - c0)
  if d.kPasses ≤ 1 then s.quadLast t d mask c0 n none
  else
    let x := s.quadPass t d mask c0 n 0
    match x.2 with
    | .error c => (x.1, [], some c)
    | .ok accs =>
      let y := runUntil (fun s i =>
        let z := s.quadPass t d mask c0 n (i + 1)
        (z.1, z.2.map (fun _ => ()))) x.1 (List.range (d.kPasses - 2))
      match y.2 with
      | .error c => (y.1, [], some c)
      | .ok _ => y.1.quadLast t d mask c0 n (some accs)

/-- The output blocks at the columns `cs`, one after the other; what is computed before them goes in front, row by row. The rows of a
scale block that spans two output blocks are whole only in the second (R83). -/
def State.quadGroup (s : State) (t : Nat) (d : QuadDesc) (mask : List Byte) (before : Option (List OutRow)) :
    List Nat → State × List OutRow × Option Nat
  | [] => (s, before.getD [], none)
  | c :: r =>
    let x := s.quadBlock t d mask c
    let rows := match before with
      | none => x.2.1
      | some os => (os.zip x.2.1).map (fun p => { p.1 with vals := p.1.vals ++ p.2.vals })
    match x.2.2 with
    | some e => (x.1, if r.isEmpty then rows else [], some e)
    | none => x.1.quadGroup t d mask (some rows) r

/-- Element-wise mode: row by row (R90). -/
def State.quadElementwise (s : State) (k : EngCmd) (l : Loc) (d : QuadDesc) : State × Except Nat Unit :=
  let y := gatherUntil (fun s r =>
    let x := s.rdRow l.tile d.b d.fb d.n 0 r
    match x.2 with
    | .error c => (x.1, .error c)
    | .ok b =>
      let z := x.1.quadVals l.tile d none 0 [b] 0 r
      (if z.2.isOk then z.1.countFed l.tile d r 0 d.n else z.1, z.2)) s (List.range d.m)
  y.1.quadDrains k l d [] 0 y.2.1 y.2.2

/-- All the output of a command, in drain order. -/
def State.quadBlocks (s : State) (k : EngCmd) (l : Loc) (d : QuadDesc) (mask : List Byte) : State × Except Nat Unit :=
  if d.mode = 3 then s.quadElementwise k l d
  else runUntil (fun s j =>
    let c0 := j * d.colStep
    let x := s.quadGroup l.tile d mask none ((List.range (ceilDiv (min d.colStep (d.n - c0)) d.np)).map (fun i => c0 + i * d.np))
    x.1.quadDrains k l d mask c0 x.2.1 x.2.2) s (List.range (ceilDiv d.n d.colStep))

/-- The passes of a command, in runs that no idle slot can interrupt: the data slots and all the slots of each run. A pass whose period is
set by the load or by R86 leaves idle slots before the next (R97). -/
def State.quadRuns (s : State) (t : Nat) (d : QuadDesc) (mask : List Byte) : List (Nat × Nat) :=
  let ii := if d.fa = 1 ∨ d.fb = 1 then 4 else 1
  let ld := if d.mode = 3 then 0 else (if d.fb = 1 then 32 else 16) + (if isBlock d.fb then 1 else 0)
  let kp := d.kPasses
  let data := if d.mode = 3 then d.m * ceilDiv d.n 128 else (d.fed mask).length
  (List.range (d.nBlocks * kp)).foldr (fun i rs =>
    let v := d.passSlots mask (i % kp)
    let idle := decide (v * ii < (if i % kp = kp - 1 then ld else max ld (s.fillLatency t d + 2)))
    match rs with
    | r :: rest => if idle then (data, v) :: r :: rest else (data + r.1, v + r.2) :: rest
    | [] => [(data, v)]) []

/-- The least throttle bubbles of a command at a level of the quad, given the data slots and the slots of its runs and the `other` bubbles
besides (R91): at 25 % at most one slot of four consecutive ones has data, at 50 % at most two. A run's extra slots of R89 count among
the slots without data. -/
def throttleLeast (level : Nat) (runs : List (Nat × Nat)) (other : Nat) : Nat :=
  (runs.map (fun r => (match level with
    | 3 => 3 * (r.1 - 1)
    | 4 => 2 * ((r.1 - 1) / 2)
    | _ => 0) - (r.2 - r.1))).sum - other

/-- The throttle bubbles of a command: none at full activity, and at 25 % or 50 % what the run met, at least what the rate enforces. The
level is the one at which the command is accepted (log 41). -/
def throttle (level : Nat) (runs : List (Nat × Nat)) (other thr : Nat) : Nat := if 5 ≤ level then 0 else max thr (throttleLeast level runs other)

/-- The bubbles of a product: `feed` besides the extra slots of R89, `bp`, and the throttle's (R91, R99). The slots fed, the extra slots,
and what is skipped and dropped count as the passes run, so that a stopped product counts what it has done. -/
def State.quadCounts (s : State) (t level : Nat) (d : QuadDesc) (mask : List Byte) (whole : Bool) (feed bp thr : Nat) : State :=
  let runs := if whole then s.quadRuns t d mask else []
  ((s.quadCount t 0x048 feed).quadCount t 0x050 bp).quadCount t 0x058 (throttle level runs (feed + bp) thr)

/-- The work region after a command: the manual gives its entries no layout, so each becomes a free value (log 3). -/
def State.freeWork (s : State) (t base : Nat) : Nat → State
  | 0 => s
  | n + 1 =>
    let r := s.draw
    ((r.2.writeT0 (sram t (sramSize + 8 * base)) (leBytes 8 (r.1.toNat % 2 ^ 36))).1).freeWork t (base + 1) n

/-! ### The command (R80, R85, R100) -/

/-- What the quad does with the product at the head of its queue. The next command is accepted during the last pass of
the one before it (R138), so at most two are active. -/
def State.quadWork (t : TileId) (feed bp thr : Nat) (k : EngCmd) (s : State) : State :=
  let e : Fin 6 := 0
  let l := k.loc t
  let off := 64 * cmdFld k.word 63 47
  let movr := cmdFld k.word 46 38
  if 2 ≤ ((s.tile t).act e).length then s
  else if cmdOp k.word ≠ 1 then s.rejectCmd t e k 5 1
  else if !s.sramOk t off 64 then s.rejectCmd t e k 5 8
  else
    let stop := fun (s : State) (cause : Nat) => (s.stopLast t e).tmemError cause t k.ctx 0
    let x := s.rdTile t off 64
    match x.2 with
    | .error c => stop (x.1.accept t e (Active.of k 0)) c
    | .ok bs =>
      let words := (chunks 8 8 bs).map leVal
      let d := QuadDesc.ofWords words movr
      match x.1.quadReject t (cmdCmt k.word) movr off d with
      | some (c, row) => x.1.rejectCmd t e k c row
      | none =>
        let y : State × Except Nat (List Byte) :=
          if d.maskm = 0 then (x.1, .ok [])
          else x.1.rdTile t (64 * d.mask) (ceilDiv (if d.maskm = 1 then d.m else ceilDiv d.m 16) 8)
        match y.2 with
        | .error c => stop (y.1.accept t e { Active.of k 0 with desc := words }) c
        | .ok mask =>
          let lvl := y.1.runLevel t
          let act : Active := { Active.of k (y.1.quadCycles t d mask) with desc := words }
          let z := (y.1.accept t e act).quadBlocks k l d mask
          let s := z.1.quadCounts t lvl d mask z.2.isOk feed bp thr
          let s := if d.usesWork then s.freeWork t d.work d.workLen else s
          match z.2 with
          | .error c => stop s c
          | .ok _ => s

/-- PRODUCT. `feed`, `bp` and `thr` are the bubbles of R91 that the run met, besides the extra slots of R89 and within what the admitted
activity allows. -/
def execProduct (t : TileId) (feed bp thr : Nat) (s : State) : Outcome State Fault Refusal :=
  .next (s.atHead t 0 (fun _ => true) (State.quadWork t feed bp thr))

end Sys2Proof.Machine
end

