-- ==== Sys2Proof/Machine/Transcend.lean ====
section
/-! DEFINITION. The defined transcendentals EXP, LOG, TANH and RSQRT of R110 to R112, bit for bit. The coefficient
tables are the correctly rounded Taylor coefficients that R111 names; they are computed here in 256-bit fixed point
and rounded once to FP32 (log 13). -/
namespace Sys2Proof

/-- Fixed point: x stands for x / 2^256. -/
def fxOne : Nat := 2 ^ 256

/-- The FP32 encoding of (-1)^s × x / 2^256, rounded to nearest even. -/
def fxRound (s : Bool) (x : Nat) : Nat := encodeVal .fp32 (roundFin s x (-256) .fp32 .rne 0 false).1

/-- The FP32 encoding of an exact quotient, rounded to nearest even. -/
def ratRound (s : Bool) (n d : Nat) : Nat := encodeVal .fp32 (roundRat s n d 0 .fp32 .rne 0 false).1

/-- Square root in fixed point. -/
def fxSqrt (x : Nat) : Nat := isqrt (x * fxOne)

/-- Σ over odd k of z^k / k for z = n / d, n terms: atanh(n/d) in fixed point. -/
def fxAtanhGo (n d : Nat) : Nat → Nat → Nat → Nat
  | 0, _, _ => 0
  | f + 1, k, t => t / k + fxAtanhGo n d f (k + 2) (t * n * n / (d * d))

/-- ln(a / b) for a ≥ b, in fixed point: 2 atanh((a − b) / (a + b)). -/
def fxLn (a b : Nat) : Nat := 2 * fxAtanhGo (a - b) (a + b) 170 1 ((a - b) * fxOne / (a + b))

/-- ln 2 in fixed point. -/
def fxLn2 : Nat := fxLn 2 1

/-- Taylor series of e^y, y in fixed point. -/
def fxExpGo (y : Nat) : Nat → Nat → Nat → Nat
  | 0, _, _ => 0
  | f + 1, k, t => t + fxExpGo y f (k + 1) (t * y / fxOne / k)

/-- y^(2^n) in fixed point. -/
def fxSquares : Nat → Nat → Nat
  | 0, y => y
  | n + 1, y => fxSquares n (y * y / fxOne)

/-- e^(n/d), as (e^(n/(32 d)))^32. -/
def fxExp (n d : Nat) : Nat := fxSquares 5 (fxExpGo (n * fxOne / (32 * d)) 60 1 fxOne)

/-- 2^(1/64) in fixed point. -/
def fxRoot64 : Nat := fxSqrt (fxSqrt (fxSqrt (fxSqrt (fxSqrt (fxSqrt (2 * fxOne))))))

/-- x^j in fixed point. -/
def fxPow (x : Nat) : Nat → Nat
  | 0 => fxOne
  | j + 1 => fxPow x j * x / fxOne

/-- c[i][j] of vexp: rne(2^(j/64) / i!). -/
def coefE (i j : Nat) : Nat := fxRound false (fxPow fxRoot64 j / (match i with | 0 => 1 | 1 => 1 | 2 => 2 | _ => 6))

/-- c[i][j] of vlog at c = 0.75 + j/64: ln c for i = 0, else (-1)^(i+1) / (i c^i). -/
def coefL (i j : Nat) : Nat :=
  let c := 48 + j
  match i with
  | 0 => if 64 ≤ c then fxRound false (fxLn c 64) else fxRound true (fxLn 64 c)
  | _ => ratRound (i % 2 = 0) (64 ^ i) (i * c ^ i)

/-- c[i][j] of vrsqrt at c = 1 + j/32: the i-th binomial coefficient of −1/2 times c^(−1/2 − i). -/
def coefR (i j : Nat) : Nat :=
  let c := 32 + j
  -- c^(-1/2) = sqrt(32 / c)
  let r := isqrt (32 * fxOne * fxOne / c)
  let b := match i with
    | 0 => (1, 1) | 1 => (1, 2) | 2 => (3, 8) | _ => (5, 16)
  fxRound (i % 2 = 1) (r * b.1 * 32 ^ i / (b.2 * c ^ i))

/-- tanh(j/32) in fixed point: (e^(j/16) − 1) / (e^(j/16) + 1). -/
def fxTanh (j : Nat) : Nat :=
  let y := fxExp j 16
  (y - fxOne) * fxOne / (y + fxOne)

/-- c[i][j] of vtanh: the Taylor coefficients of tanh at j/32, from t = tanh and u = 1 − t². -/
def coefT (i j : Nat) : Nat :=
  let t := fxTanh j
  let t2 := t * t / fxOne
  let u := fxOne - t2
  match i with
  | 0 => fxRound false t
  | 1 => fxRound false u
  | 2 => fxRound true (t * u / fxOne)
  | 3 =>
    -- u (3 t² − 1) / 3
    if fxOne ≤ 3 * t2 then fxRound false (u * (3 * t2 - fxOne) / fxOne / 3)
    else fxRound true (u * (fxOne - 3 * t2) / fxOne / 3)
  | _ =>
    -- t u (2 − 3 t²) / 3
    if 3 * t2 ≤ 2 * fxOne then fxRound false (t * u / fxOne * (2 * fxOne - 3 * t2) / fxOne / 3)
    else fxRound true (t * u / fxOne * (3 * t2 - 2 * fxOne) / fxOne / 3)

/-- poly of R111: Horner with fma32, from degree `deg` down. -/
def polyGo (c : Nat → Nat) (d : Nat) : Nat → Nat → Nat
  | 0, p => p
  | i + 1, p => polyGo c d i (fma32 p d (c i))

/-- poly(c, j, d, deg). -/
def poly32 (c : Nat → Nat) (d deg : Nat) : Nat := polyGo c d deg (c deg)

/-- The FP32 encoding of an integer. -/
def int32 (n : Int) : Nat := encodeVal .fp32 (roundFin (decide (n < 0)) n.natAbs 0 .fp32 .rne 0 false).1

/-- The nearest integer, ties to even, of a finite value. -/
def nearestVal : Val → Int
  | .fin s m e => nearestInt s m 1 e
  | _ => 0

/-- vexp of R111: the FP32 value with the flags of its final rounding (R112). -/
def vexp (x : Nat) : Val × AFlags :=
  let y := mul32 x (encodeVal .fp32 (roundRat false (64 * fxOne) fxLn2 0 .fp32 .rne 0 false).1)
  let n := nearestVal (v32 y)
  let k := n / 64
  let j := (n % 64).toNat
  let l1v := (roundFin false fxLn2 (-262) .fp32 .rne 0 false).1
  let l1 := encodeVal .fp32 l1v
  let l2 := match l1v with
    | .fin _ m e =>
      -- ln2/64 − L1, exact in fixed point
      match addExact false fxLn2 (-262) true m e false with
      | .fin s m' e' => encodeVal .fp32 (roundFin s m' e' .fp32 .rne 0 false).1
      | _ => 0
    | _ => 0
  let mn := int32 (-n)
  let d := fma32 mn l1 x
  let d := fma32 mn l2 d
  let p := poly32 (fun i => coefE i j) d 3
  convertVal ((v32 p).scale k) .fp32 .rne 0 false

/-- The normalisation of vlog and vrsqrt: x = m × 2^e with 1 ≤ m < 2, as (mantissa, its exponent, e). -/
def normPos (m : Nat) (e : Int) : Nat × Int × Int := (m, -(m.log2 : Int), e + m.log2)

/-- vlog of R111, for x > 0. -/
def vlog (m : Nat) (e : Int) : Nat :=
  let nm := normPos m e
  -- 1 ≤ mm × 2^me < 2
  let mm := nm.1
  let me := nm.2.1
  let big := decide (cmpVal (.fin false mm me) (.fin false 3 (-1)) ≥ 0)
  let me' := if big then me - 1 else me
  let ee := if big then nm.2.2 + 1 else nm.2.2
  let off := addExact false mm me' true 3 (-2) false
  let j := match off with | .fin s a b => (nearestInt s a 1 (b + 6)).toNat | _ => 0
  let d := match off with
    | .fin s a b => encodeVal .fp32 (rneVal .fp32 (addExact s a b true j (-6) false))
    | _ => 0
  let p := poly32 (fun i => coefL i j) d 4
  let hv := (roundFin false fxLn2 (-256) .fp32 .rne 0 false).1
  let lv := match hv with
    | .fin _ hm he =>
      match addExact false fxLn2 (-256) true hm he false with
      | .fin s a b => encodeVal .fp32 (roundFin s a b .fp32 .rne 0 false).1
      | _ => 0
    | _ => 0
  let t := fma32 (int32 ee) lv p
  fma32 (int32 ee) (encodeVal .fp32 hv) t

/-- vrsqrt of R111, for x > 0. -/
def vrsqrt (m : Nat) (e : Int) : Val :=
  let nm := normPos m e
  let odd := decide (nm.2.2 % 2 = 1)
  let me := if odd then nm.2.1 + 1 else nm.2.1
  let ee := if odd then nm.2.2 - 1 else nm.2.2
  let off := addExact false nm.1 me true 1 0 false
  let j := match off with | .fin s a b => (nearestInt s a 1 (b + 5)).toNat | _ => 0
  let d := match off with
    | .fin s a b => encodeVal .fp32 (rneVal .fp32 (addExact s a b true j (-5) false))
    | _ => 0
  (v32 (poly32 (fun i => coefR i j) d 3)).scale (-(ee / 2))

/-- vtanh of R111, for |x| < 9.5: the value with the flags of its final step. -/
def vtanh (s : Bool) (m : Nat) (e : Int) : Val :=
  let j := (nearestInt false m 1 (e + 5)).toNat
  let d := encodeVal .fp32 (rneVal .fp32 (addExact false m e true j (-5) false))
  match v32 (poly32 (fun i => coefT i j) d 4) with
  | .fin _ a b => .fin s a b
  | v => v

/-- Inexact. -/
def AFlags.inexact : AFlags := ⟨false, false, false, false, true⟩

/-- Underflow and inexact. -/
def AFlags.under : AFlags := ⟨false, false, false, true, true⟩

/-- EXP on an exact value (R110, R111, R112): the FP32 value and flags, before the rounding into FD. -/
def texp (x : Val) : Val × AFlags :=
  match x with
  | .nan g => (.nan false, if g then .invalid else .none)
  | .inf s => if s then (.zero, .none) else (.inf false, .none)
  | .fin s m e =>
    if m = 0 then (.fin false 1 0, .none)
    else if cmpVal x (.fin false 128 0) > 0 then (.inf false, .ofNx)
    else if cmpVal x (.fin true 160 0) < 0 then (.zero, .under)
    else
      let r := vexp (encodeVal .fp32 (.fin s m e))
      (r.1, if r.2.ovf then r.2.or .inexact else { r.2 with nx := true, unf := r.2.unf || (match r.1 with
        | .fin _ a b => decide (a = 0) || decide ((a.log2 : Int) + b < -126)
        | _ => false) })

/-- LOG on an exact value. -/
def tlog (x : Val) : Val × AFlags :=
  match x with
  | .nan g => (.nan false, if g then .invalid else .none)
  | .inf s => if s then (.nan false, .invalid) else (.inf false, .none)
  | .fin s m e =>
    if m = 0 then (.inf true, .divZero)
    else if s then (.nan false, .invalid)
    else if cmpVal x (.fin false 1 0) = 0 then (.zero, .none)
    else (v32 (vlog m e), .inexact)

/-- TANH on an exact value. A result of the final step that is tiny raises UF (R112). -/
def ttanh (x : Val) : Val × AFlags :=
  match x with
  | .nan g => (.nan false, if g then .invalid else .none)
  | .inf s => (.fin s 1 0, .none)
  | .fin s m e =>
    if m = 0 then (.fin s 0 0, .none)
    else if cmpVal x.abs (.fin false 19 (-1)) ≥ 0 then (.fin s 1 0, .inexact)
    else
      let r := vtanh s m e
      (r, { AFlags.inexact with unf := (match r with
        | .fin _ a b => decide (a = 0) || decide ((a.log2 : Int) + b < -126)
        | _ => false) })

/-- Whether a positive value is a power of four. -/
def isPow4 (m : Nat) (e : Int) : Bool := decide (m = 2 ^ m.log2) && decide (((m.log2 : Int) + e) % 2 = 0)

/-- RSQRT on an exact value. -/
def trsqrt (x : Val) : Val × AFlags :=
  match x with
  | .nan g => (.nan false, if g then .invalid else .none)
  | .inf s => if s then (.nan false, .invalid) else (.zero, .none)
  | .fin s m e =>
    if m = 0 then (.inf s, .divZero)
    else if s then (.nan false, .invalid)
    else (vrsqrt m e, if isPow4 m e then .none else .inexact)

end Sys2Proof
end

