-- ==== Sys2Proof/Machine/Vector.lean ====
section
/-! DEFINITION. The vector engine and its reduction unit (R102 to R116, R122). -/
namespace Sys2Proof.Machine

open Host (Outcome)

/-! ### The command (R102, R103) -/

/-- The fields of a vector command. -/
structure VecCmd where
  op : Nat
  dst : Nat
  a : Nat
  b : Nat
  c : Nat
  n : Nat
  fa : Nat
  fd : Nat
  rnd : Nat
  ovf : Bool
  intm : Bool
  ru : Nat
  deriving DecidableEq, Repr

/-- The fields of a command word. -/
def VecCmd.ofWord (w : BitVec 128) : VecCmd :=
  { op := cmdOp w, dst := cmdFld w 127 111, a := cmdFld w 110 94, b := cmdFld w 93 77, c := cmdFld w 76 60,
    n := cmdFld w 59 47 + 1, fa := cmdFld w 46 43, fd := cmdFld w 42 39, rnd := cmdFld w 38 36,
    ovf := cmdFld w 35 35 = 1, intm := cmdFld w 34 34 = 1, ru := cmdFld w 33 32 }

/-- How many sources an operation has (R106). -/
def vecSources (op : Nat) : Nat :=
  if op = 4 ∨ op = 12 then 3
  else if op = 6 ∨ op = 9 ∨ op = 10 ∨ 13 ≤ op then 1
  else 2

/-- The source fields that the operation reads as operands. A reserved code in a source field that it does not use is not checked
(DESIGN CHOICE, log 131). -/
def VecCmd.srcs (v : VecCmd) : List Nat := [v.a, v.b, v.c].take (vecSources v.op)

/-- DST of a discarded result. -/
def noDst : Nat := 0x1FFFF

/-- Whether a source field is a broadcast code of R103. -/
def isBroadcast (f : Nat) : Bool := decide ((0x1FFE0 ≤ f ∧ f < 0x1FFF0) ∨ f = 0x1FFFF)

/-- The exact FP64 value of a summary register, by its kind tag (R116). -/
def summaryVal (w : Word) (tag : BitVec 2) : Val :=
  if tag = 1 then .fin false w.toNat 0 else decodeFmt .fp64 w.toNat

/-- The value that a broadcast code supplies (R103). -/
def EngCmd.broadcast (k : EngCmd) (fa f : Nat) : Val :=
  if f = 0x1FFFF then
    let fm := elemFmt fa
    decodeFmt fm ((k.ops[3]).toNat % 2 ^ (if fa = 9 then 36 else fm.width))
  else
    let i : Fin 16 := ⟨(f - 0x1FFE0) % 16, Nat.mod_lt _ (by decide)⟩
    summaryVal k.sregs[i] k.tags[i]

/-- Bytes of n elements in a stream: C36 streams as 64-bit words (R103). -/
def VecCmd.bytesOf (v : VecCmd) (code : Nat) : Nat := elemBytes code v.n

/-- The streams that the command reads: (offset, bytes, element width). -/
def VecCmd.streams (v : VecCmd) : List (Nat × Nat × Nat) :=
  (v.srcs.filter (fun f => !isBroadcast f)).map (fun f => (64 * f, v.bytesOf v.fa, (elemFmt v.fa).width)) ++
  (if v.op = 13 ∧ isBlock v.fa then [(64 * v.b, v.n / 32, 8)] else [])

/-- The ranges that the command writes: (offset, bytes, element width). -/
def VecCmd.outs (v : VecCmd) : List (Nat × Nat × Nat) :=
  if v.dst = noDst then []
  else (64 * v.dst, v.bytesOf v.fd, (elemFmt v.fd).width) ::
    (if v.op = 13 ∧ isBlock v.fd then [(64 * v.c, v.n / 32, 8)] else [])

/-! ### The reduction configuration (R114) -/

/-- The fields of a configuration word. -/
structure RuCfg where
  thr : Val
  lsbe : Int
  base : Nat
  fx : Bool
  acc : Bool
  resv : Bool
  sel : Nat
  deriving DecidableEq, Repr

/-- The configuration in a word. -/
def RuCfg.ofWord (w : Nat) : RuCfg :=
  { thr := decodeFmt .fp32 (fld w 63 32), lsbe := toSigned 16 (fld w 31 16), base := fld w 15 12, fx := bitOf w 11,
    acc := bitOf w 10, resv := decide (fld w 9 7 ≠ 0), sel := fld w 6 0 }

/-- The configuration of a command: g28 or g29 as captured at issue; none when the unit is off. -/
def EngCmd.ruCfg (k : EngCmd) (v : VecCmd) : Option RuCfg :=
  if v.ru = 1 then some (.ofWord (k.ops[0]).toNat) else if v.ru = 2 then some (.ofWord (k.ops[1]).toNat) else none

/-- The summary registers that the selected summaries take. -/
def RuCfg.regs (c : RuCfg) : Nat :=
  (if bitOf c.sel 0 then (if c.fx then 2 else 1) else 0) + (if bitOf c.sel 1 then (if c.fx then 2 else 1) else 0) +
  popGo (c.sel / 4) 5

/-! ### The rejection table (R122) -/

/-- Row 1, Codes. -/
def VecCmd.codesBad (v : VecCmd) : Bool :=
  let io := fun (c : Nat) => decide (c ≤ 4)
  let known := decide ((1 ≤ v.op ∧ v.op ≤ 13) ∨ (16 ≤ v.op ∧ v.op ≤ 19))
  !known || decide (v.ru = 3) || (decide (v.op ≠ 11) && decide (5 < v.rnd)) ||
  (if v.op = 13 then decide (9 < v.fa ∨ 9 < v.fd)
   else if v.op < 13 then !io v.fa || !io v.fd
   else decide (v.fa = 0 ∨ 5 < v.fa ∨ v.fd = 0 ∨ 4 < v.fd))

/-- Row 2, Block scaling. -/
def VecCmd.blockBad (v : VecCmd) : Bool :=
  decide (v.op = 13) && (((isBlock v.fa || isBlock v.fd) && decide (v.n % 32 ≠ 0)) || (isBlock v.fa && isBroadcast v.a))

/-- Row 3, Addresses. -/
def State.vecAddrBad (s : State) (t : TileId) (k : EngCmd) (v : VecCmd) : Bool :=
  v.srcs.any (fun f => !isBroadcast f && decide (0x18000 ≤ f)) ||
  (v.streams ++ v.outs).any (fun r => !s.sramOk t r.1 r.2.1) ||
  v.srcs.any (fun f => decide (0x1FFE0 ≤ f ∧ f < 0x1FFF0) &&
    decide (k.tags[(⟨(f - 0x1FFE0) % 16, Nat.mod_lt _ (by decide)⟩ : Fin 16)] = 2))

/-- Row 4, Overlap: only identity is allowed (R105). Scale bytes are streams of 8-bit elements here: those of the output may stand where
an 8-bit source stands, or the reverse (DESIGN CHOICE, log 132). -/
def VecCmd.overlapBad (v : VecCmd) : Bool :=
  v.outs.any (fun w => v.streams.any (fun r => overlaps w.1 w.2.1 r.1 r.2.1 && decide (w.1 ≠ r.1 ∨ w.2.2 ≠ r.2.2)))

/-- Row 5, Reduction. -/
def VecCmd.ruBad (v : VecCmd) (cfg : Option RuCfg) : Bool :=
  match cfg with
  | none => false
  | some c => c.resv || decide (16 < c.base + c.regs) || (decide (c.sel % 4 ≠ 0 ∧ v.fd = 0) && !c.fx)

/-- The first row of R122 that applies, or the rule of R143. -/
def State.vecReject (s : State) (t : TileId) (k : EngCmd) (v : VecCmd) : Option (Nat × Nat) :=
  if v.codesBad then some (5, 1)
  else if v.blockBad then some (5, 2)
  else if s.vecAddrBad t k v then some (5, 3)
  else if v.overlapBad then some (5, 4)
  else if v.ruBad (k.ruCfg v) then some (5, 5)
  else if !cmdCmt k.word && v.outs.any (fun w => s.committedTile t w.1 w.2.1) then some (8, 0)
  else none

/-! ### Operations (R106, R107, R110) -/

/-- The rounding attribute: RTO under INTM (R52). -/
def VecCmd.mode (v : VecCmd) : Rnd := if v.intm then .rto else (Rnd.ofCode v.rnd).getD .rne

/-- The exact result of an operation, with the flags that do not come from the rounding into FD. SEL raises no INV for a signalling NaN
in c or in the operand that it does not select (DESIGN CHOICE, log 130). -/
def VecCmd.result (v : VecCmd) (a b c : Val) : Exact × AFlags :=
  match v.op with
  | 1 => ieeeAdd v.mode a b
  | 2 => ieeeAdd v.mode a b.negate
  | 3 => ieeeMul a b
  | 4 => ieeeFma v.mode a b c
  | 5 => ieeeDiv a b
  | 6 => ieeeSqrt a
  | 7 => minMax false a b
  | 8 => minMax true a b
  | 9 => (.val (match a with | .nan _ => .nan false | x => x.abs), .none)
  | 10 => (.val (match a with | .nan _ => .nan false | x => x.negate), .none)
  | 11 => (.val (if condVal v.rnd a b then .fin false 1 0 else .zero), if condInv v.rnd a b then .invalid else .none)
  | 12 => (.val (if !c.isZero && !c.isNan then a else b), .none)
  | 16 => let r := texp a; (.val r.1, r.2)
  | 17 => let r := tlog a; (.val r.1, r.2)
  | 18 => let r := ttanh a; (.val r.1, r.2)
  | 19 => let r := trsqrt a; (.val r.1, r.2)
  | _ => (.val a, .none)

/-- The output of a command: element encodings, flags, scale codes, and the values that the reduction unit sees (R113). -/
structure VecOut where
  es : List Nat
  fl : List AFlags
  sc : List Nat
  vs : List Val
  deriving DecidableEq, Repr

/-- Delivery of results into FD: by blocks for a block-scaled format (R41, R42), else one by one. -/
def VecCmd.deliverAll (v : VecCmd) (keys : SrKeys) (rs : List (Exact × AFlags)) : VecOut :=
  let f := elemFmt v.fd
  let draw := fun i => if v.mode = .sr12 then keys.draw i else 0
  if isBlock v.fd then
    let vals := rs.map (fun r => match r.1 with | .val x => x | .quot _ _ _ _ => Val.zero)
    let blocks := (List.range (vals.length / 32)).map (fun j =>
      encodeBlock ((vals.drop (32 * j)).take 32) f v.mode v.ovf (fun i => draw (32 * j + i)))
    { es := (blocks.map (fun e => e.2.map (·.1))).flatten, fl := (blocks.map (fun e => e.2.map (·.2))).flatten,
      sc := blocks.map (·.1),
      vs := (blocks.map (fun e => e.2.map (fun x => scaledVal (decodeFmt f x.1) e.1))).flatten }
  else
    let os := (List.range rs.length).zipWith (fun i r => deliver r f v.mode (draw i) v.ovf) rs
    { es := os.map (·.1), fl := os.map (·.2), sc := [], vs := os.map (fun o => decodeFmt f o.1) }

/-! ### The reduction unit (R113, R115, R116) -/

/-- The state advances by one element (R115); the second part counts clamps and saturations. −0 is below +0. -/
def RunState.advance (r : RunState) (c : RuCfg) (x : Val) : RunState × Nat :=
  let mx := decodeFmt .fp64 r.max
  let mn := decodeFmt .fp64 r.min
  let up := !x.isNan && (mx.isNan || lessVal mx x)
  let dn := !x.isNan && (mn.isNan || lessVal x mn)
  let base := { r with
    max := if up then encodeVal .fp64 x else r.max, argmax := if up then r.pos else r.argmax,
    min := if dn then encodeVal .fp64 x else r.min, pos := r.pos + 1,
    nonfin := r.nonfin + (if x.isFin then 0 else 1),
    nover := r.nover + (if !x.isNan && !c.thr.isNan && lessVal c.thr x then 1 else 0) }
  if c.fx then
    let a := toFx96 x c.lsbe
    let b := toFx96 (mulVal x x) c.lsbe
    let sa := fxSat r.fxSum a.1
    let sb := fxSat r.fxSq b.1
    let n := fun (p : Bool) => if p then 1 else 0
    ({ base with fxSum := sa.1, fxSq := sb.1 }, n a.2.2 + n b.2.2 + n sa.2 + n sb.2)
  else
    ({ base with
      sum := encodeVal .c36 (c36Add (decodeFmt .c36 r.sum) x),
      sq := encodeVal .c36 (c36Add (decodeFmt .c36 r.sq) (mulVal x x)) }, 0)

/-- The selected summaries in the bit order of SEL, with their kind tags (R116). -/
def RunState.summaries (r : RunState) (c : RuCfg) : List (Word × BitVec 2) :=
  let word := fun (n : Nat) => BitVec.ofNat 64 n
  let sum := fun (c36 : Nat) (fx : Int) =>
    if c.fx then [(BitVec.ofInt 64 fx, (2 : BitVec 2)), (BitVec.ofInt 64 (fx / 2 ^ 64), 2)]
    else [(word (encodeVal .fp64 (decodeFmt .c36 c36)), 0)]
  (if bitOf c.sel 0 then sum r.sum r.fxSum else []) ++ (if bitOf c.sel 1 then sum r.sq r.fxSq else []) ++
  (if bitOf c.sel 2 then [(word r.max, 0)] else []) ++ (if bitOf c.sel 3 then [(word r.min, 0)] else []) ++
  (if bitOf c.sel 4 then [(word r.argmax, 1)] else []) ++ (if bitOf c.sel 5 then [(word r.nonfin, 1)] else []) ++
  (if bitOf c.sel 6 then [(word r.nover, 1)] else [])

/-- The reduction of a command's elements; its summaries wait for the command's completion, so that a read before its token finds the
previous ones (R116). -/
def State.reduce (s : State) (l : Loc) (c : RuCfg) (xs : List Val) : State :=
  let start := if c.acc then (s.ctx l).ru else RunState.fresh
  let r := xs.foldl (fun st x => let y := st.1.advance c x; (y.1, st.2 + y.2)) (start, 0)
  ((s.count (tileReg l.tile 3 0x040) r.2).updCtx l (fun k => { k with ru := r.1 })).updTile l.tile (fun x =>
    x.setAct 1 ((x.act 1).map (fun a => { a with sbase := c.base, sums := r.1.summaries c })))

/-! ### The engine (R105, R109) -/

/-- The reads of a command's streams; operands as values. -/
def State.vecOperands (s : State) (t : Nat) (k : EngCmd) (v : VecCmd) : State × Except Nat (List (List Val)) :=
  mapReads (fun s f =>
    if isBroadcast f then (s, .ok (List.replicate v.n (k.broadcast v.fa f)))
    else
      let x := s.rdOperand t (64 * f) (64 * v.b) v.fa v.n
      (x.1, x.2.map (fun es => es.map (fun e => e.1.scale e.2)))) s v.srcs

/-- The rate Q of R108. -/
def VecCmd.rate (v : VecCmd) : Nat :=
  let w := max (if v.fa = 9 then 64 else (elemFmt v.fa).width) (if v.fd = 9 then 64 else (elemFmt v.fd).width)
  if v.op = 5 ∨ v.op = 6 then (if w = 64 then 8 else 32)
  else if 16 ≤ v.op then 32
  else if w = 64 then 64 else if w = 32 then 128 else if w = 16 then 256 else 512

/-- The nominal cycles of R109. -/
def VecCmd.cycles (v : VecCmd) : Nat :=
  let bs := (v.streams.map (·.2.1)).sum
  let bd := (v.outs.map (·.2.1)).sum
  12 + max (max (ceilDiv v.n v.rate) (ceilDiv bs 1024)) (ceilDiv bd 512) + (if v.ru = 0 then 0 else 4)

/-- The write of a command's elements, then of its scale codes, which R105 lets lie among them (DESIGN CHOICE, log 156): false when a
partial write met an uncorrectable word. -/
def State.vecWrite (s : State) (t : Nat) (v : VecCmd) (o : VecOut) : State × Bool :=
  if v.dst = noDst then (s, true)
  else
    let x := s.writeT0 (sram t (64 * v.dst)) (packElems (elemFmt v.fd).width o.es)
    if o.sc.isEmpty || !x.2 then x else x.1.writeT0 (sram t (64 * v.c)) (o.sc.map (BitVec.ofNat 8))

/-- What the vector engine does with the command at the head of its queue: one at a time (R105, R138). A command that
meets an uncorrectable word of a source writes no element (log 24). -/
def State.vecWork (t : TileId) (k : EngCmd) (s : State) : State :=
  let e : Fin 6 := 1
  let l := k.loc t
  let v := VecCmd.ofWord k.word
  if !((s.tile t).act e).isEmpty then s
  else
    match s.vecReject t k v with
    | some (c, row) => s.rejectCmd t e k c row
    | none =>
      let s := s.accept t e (Active.of k v.cycles)
      let x := s.vecOperands t k v
      match x.2 with
      | .error c => (x.1.stopLast t e).tmemError c t k.ctx 1
      | .ok ops =>
        let at' := fun (j i : Nat) => (ops.getD j []).getD i Val.zero
        let rs := (List.range v.n).map (fun i => v.result (at' 0 i) (at' 1 i) (at' 2 i))
        let g30 := (k.ops[2]).toNat
        let o := v.deliverAll (x.1.keys t (fld g30 31 0) (fld g30 63 32)) rs
        let y := x.1.vecWrite t v o
        let s := (y.1.raiseFlags l o.fl).count (tileReg t 2 0x040) v.n
        if !y.2 then (s.stopLast t e).tmemError 4 t k.ctx 1
        else
          match k.ruCfg v with
          | some c => s.reduce l c o.vs
          | none => s

/-- ADD; the row also rejects a reserved operation code at the head of the queue (R106). -/
def execAdd (t : TileId) (s : State) : Outcome State Fault Refusal :=
  .next (s.atHead t 1 (fun op => decide (op = 1 ∨ op = 0 ∨ op = 14 ∨ op = 15 ∨ 20 ≤ op)) (State.vecWork t))

/-- SUB (R106). -/
def execSub (t : TileId) (s : State) : Outcome State Fault Refusal :=
  .next (s.atHead t 1 (fun op => decide (op = 2)) (State.vecWork t))

/-- MUL (R106). -/
def execMul (t : TileId) (s : State) : Outcome State Fault Refusal :=
  .next (s.atHead t 1 (fun op => decide (op = 3)) (State.vecWork t))

/-- FMA (R106). -/
def execFma (t : TileId) (s : State) : Outcome State Fault Refusal :=
  .next (s.atHead t 1 (fun op => decide (op = 4)) (State.vecWork t))

/-- DIV (R106). -/
def execDiv (t : TileId) (s : State) : Outcome State Fault Refusal :=
  .next (s.atHead t 1 (fun op => decide (op = 5)) (State.vecWork t))

/-- SQRT (R106). -/
def execSqrt (t : TileId) (s : State) : Outcome State Fault Refusal :=
  .next (s.atHead t 1 (fun op => decide (op = 6)) (State.vecWork t))

/-- MIN (R106). -/
def execMin (t : TileId) (s : State) : Outcome State Fault Refusal :=
  .next (s.atHead t 1 (fun op => decide (op = 7)) (State.vecWork t))

/-- MAX (R106). -/
def execMax (t : TileId) (s : State) : Outcome State Fault Refusal :=
  .next (s.atHead t 1 (fun op => decide (op = 8)) (State.vecWork t))

/-- ABS (R106). -/
def execAbs (t : TileId) (s : State) : Outcome State Fault Refusal :=
  .next (s.atHead t 1 (fun op => decide (op = 9)) (State.vecWork t))

/-- NEG (R106). -/
def execNeg (t : TileId) (s : State) : Outcome State Fault Refusal :=
  .next (s.atHead t 1 (fun op => decide (op = 10)) (State.vecWork t))

/-- CMP (R106). -/
def execVectorCmp (t : TileId) (s : State) : Outcome State Fault Refusal :=
  .next (s.atHead t 1 (fun op => decide (op = 11)) (State.vecWork t))

/-- SEL (R106). -/
def execSel (t : TileId) (s : State) : Outcome State Fault Refusal :=
  .next (s.atHead t 1 (fun op => decide (op = 12)) (State.vecWork t))

/-- CVT (R106). -/
def execCvt (t : TileId) (s : State) : Outcome State Fault Refusal :=
  .next (s.atHead t 1 (fun op => decide (op = 13)) (State.vecWork t))

/-- EXP (R106). -/
def execExp (t : TileId) (s : State) : Outcome State Fault Refusal :=
  .next (s.atHead t 1 (fun op => decide (op = 16)) (State.vecWork t))

/-- LOG (R106). -/
def execLog (t : TileId) (s : State) : Outcome State Fault Refusal :=
  .next (s.atHead t 1 (fun op => decide (op = 17)) (State.vecWork t))

/-- TANH (R106). -/
def execTanh (t : TileId) (s : State) : Outcome State Fault Refusal :=
  .next (s.atHead t 1 (fun op => decide (op = 18)) (State.vecWork t))

/-- RSQRT (R106). -/
def execRsqrt (t : TileId) (s : State) : Outcome State Fault Refusal :=
  .next (s.atHead t 1 (fun op => decide (op = 19)) (State.vecWork t))

end Sys2Proof.Machine
end

