-- ==== Sys2Proof/Machine/Row.lean ====
section
/-! DEFINITION. The row engine: normalisation and soft-maximum rows with statistics kept in the side memory (R117 to
R122). -/
namespace Sys2Proof.Machine

open Host (Outcome)

/-- The fields of a row-engine command (R118). -/
structure RowCmd where
  op : Nat
  x : Nat
  g : Nat
  o : Nat
  n : Nat
  slot : Nat
  fx : Nat
  fo : Nat
  rnd : Nat
  resv : Bool
  deriving DecidableEq, Repr

/-- The fields of a command word. -/
def RowCmd.ofWord (w : BitVec 128) : RowCmd :=
  { op := cmdOp w, x := cmdFld w 127 111, g := cmdFld w 110 94, o := cmdFld w 93 77, n := cmdFld w 76 57 + 1,
    slot := cmdFld w 56 44, fx := cmdFld w 43 40, fo := cmdFld w 39 36, rnd := cmdFld w 35 33,
    resv := cmdFld w 32 32 = 1 }

/-- Whether the operation is a backward one. -/
def RowCmd.back (r : RowCmd) : Bool := decide (r.op = 2 ∨ r.op = 4)

/-- The ranges read. -/
def RowCmd.reads (r : RowCmd) : List (Nat × Nat) :=
  if r.op = 5 then [] else (64 * r.x, elemBytes r.fx r.n) :: (if r.back then [(64 * r.g, elemBytes r.fx r.n)] else [])

/-- The range written. -/
def RowCmd.out (r : RowCmd) : Nat × Nat := if r.op = 5 then (0, 0) else (64 * r.o, elemBytes r.fo r.n)

/-- The first row of R122 that applies, or the rule of R143. -/
def State.rowReject (s : State) (t : TileId) (k : EngCmd) (r : RowCmd) : Option (Nat × Nat) :=
  if r.op = 0 ∨ 5 < r.op ∨ (r.fx ≠ 1 ∧ r.fx ≠ 2) ∨ r.fo = 0 ∨ 4 < r.fo ∨ 4 < r.rnd then some (5, 1)
  else if r.reads.any (fun x => !s.sramOk t x.1 x.2) || (decide (r.op ≠ 5) && !s.sramOk t r.out.1 r.out.2) then
    some (5, 3)
  else if r.reads.any (crosses r.out) then some (5, 4)
  else if (r.back && decide (r.slot ∉ (s.tile t).sideValid)) || r.resv then some (5, 6)
  else if !cmdCmt k.word && s.committedTile t r.out.1 r.out.2 then some (8, 0)
  else none

/-! ### The arithmetic of R117 -/

/-- One named operation into FP32 under RNE: the value and its flags. -/
def op32 (x : Exact × AFlags) : Val × AFlags :=
  let r := deliver x .fp32 .rne 0 false
  (v32 r.1, r.2)

/-- Values with the flags that were raised in making them. -/
abbrev Flagged (α : Type) := α × List AFlags

/-- A named operation over a row. -/
def rowOp (f : Val → Exact × AFlags) (xs : List Val) : Flagged (List Val) :=
  let rs := xs.map (fun x => op32 (f x))
  (rs.map (·.1), rs.map (·.2))

/-- A named operation over two rows. -/
def rowOp2 (f : Val → Val → Exact × AFlags) (xs ys : List Val) : Flagged (List Val) :=
  let rs := xs.zipWith (fun x y => op32 (f x y)) ys
  (rs.map (·.1), rs.map (·.2))

/-- A named operation on scalars. -/
def scalarOp (x : Exact × AFlags) : Flagged Val :=
  let r := op32 x
  (r.1, [r.2])

/-- SUB. -/
def exSub (a b : Val) : Exact × AFlags := ieeeAdd .rne a b.negate

/-- rusum: the C36 sum in element order (R115). -/
def rusum (xs : List Val) : Val := xs.foldl c36Add Val.negZero

/-- rumax. -/
def rumax (xs : List Val) : Val :=
  xs.foldl (fun m x => if !x.isNan && (m.isNan || lessVal m x) then x else m) (.nan false)

/-- An integer as an exact value. -/
def natVal (n : Nat) : Val := .fin false n 0

/-- norm_stats of R117: xc, mu and rstd. -/
def normStats (xs : List Val) (n : Nat) (eps : Val) : Flagged (List Val × Val × Val) :=
  let cv := rowOp (fun x => (.val x, .none)) xs
  let mu := scalarOp (ieeeDiv (rusum cv.1) (natVal n))
  let xc := rowOp (fun x => exSub x mu.1) xs
  let var := scalarOp (ieeeDiv (rusum (xc.1.map (fun x => mulVal x x))) (natVal n))
  let ve := scalarOp (ieeeAdd .rne var.1 eps)
  let rs := trsqrt ve.1
  let rstd := scalarOp (.val rs.1, rs.2)
  ((xc.1, mu.1, rstd.1), cv.2 ++ mu.2 ++ xc.2 ++ var.2 ++ ve.2 ++ rstd.2)

/-- NORM_FWD: the row and the statistics of the slot. -/
def normFwd (xs : List Val) (n : Nat) (eps : Val) : Flagged (List Val × Val × Val) :=
  let st := normStats xs n eps
  let y := rowOp (fun x => ieeeMul x st.1.2.2) st.1.1
  ((y.1, st.1.2.1, st.1.2.2), st.2 ++ y.2)

/-- NORM_BWD from the statistics of the slot. -/
def normBwd (xs gh : List Val) (n : Nat) (mu rstd : Val) : Flagged (List Val) :=
  let xc := rowOp (fun x => exSub x mu) xs
  let xh := rowOp (fun x => ieeeMul x rstd) xc.1
  let p := rowOp2 ieeeMul gh xh.1
  let q2 := scalarOp (ieeeDiv (rusum p.1) (natVal n))
  let m2 := q2.1.negate
  let t1 := rowOp2 (fun x g => ieeeFma .rne x m2 g) xh.1 gh
  let q1 := scalarOp (ieeeDiv (rusum gh) (natVal n))
  let t2 := rowOp (fun x => exSub x q1.1) t1.1
  let y := rowOp (fun x => ieeeMul x rstd) t2.1
  (y.1, xc.2 ++ xh.2 ++ p.2 ++ q2.2 ++ t1.2 ++ q1.2 ++ t2.2 ++ y.2)

/-- exp(sub(x, m)) over a row. -/
def smaxExp (xs : List Val) (m : Val) : Flagged (List Val) :=
  let d := rowOp (fun x => exSub x m) xs
  let e := rowOp (fun x => let r := texp x; (.val r.1, r.2)) d.1
  (e.1, d.2 ++ e.2)

/-- SMAX_FWD: the row and the statistics of the slot. -/
def smaxFwd (xs : List Val) : Flagged (List Val × Val × Val) :=
  let cv := rowOp (fun x => (.val x, .none)) xs
  let m := rumax cv.1
  let e := smaxExp xs m
  let r := scalarOp (ieeeDiv (natVal 1) (rusum e.1))
  let y := rowOp (fun x => ieeeMul x r.1) e.1
  ((y.1, m, r.1), cv.2 ++ e.2 ++ r.2 ++ y.2)

/-- SMAX_BWD from the statistics of the slot. -/
def smaxBwd (xs dy : List Val) (m r : Val) : Flagged (List Val) :=
  let e := smaxExp xs m
  let y := rowOp (fun x => ieeeMul x r) e.1
  let p := rowOp2 ieeeMul dy y.1
  let sm := rusum p.1
  let d := rowOp (fun x => exSub x sm) dy
  let o := rowOp2 ieeeMul y.1 d.1
  (o.1, e.2 ++ y.2 ++ p.2 ++ d.2 ++ o.2)

/-- The result of an operation, with the statistics that a forward one stores. -/
def RowCmd.compute (r : RowCmd) (xs gs : List Val) (eps : Val) (stat : Nat × Nat) :
    Flagged (List Val) × Option (Nat × Nat) :=
  let enc := fun (a b : Val) => some (encodeVal .fp32 a, encodeVal .fp32 b)
  match r.op with
  | 1 => let y := normFwd xs r.n eps; ((y.1.1, y.2), enc y.1.2.1 y.1.2.2)
  | 2 => (normBwd xs gs r.n (v32 stat.1) (v32 stat.2), none)
  | 3 => let y := smaxFwd xs; ((y.1.1, y.2), enc y.1.2.1 y.1.2.2)
  | _ => (smaxBwd xs gs (v32 stat.1) (v32 stat.2), none)

/-! ### The engine (R119 to R121) -/

/-- Passes over the row (R118). -/
def rowPasses (op : Nat) : Nat := match op with | 1 => 3 | 2 => 2 | 3 => 3 | 4 => 2 | _ => 0

/-- Stores a slot's statistics and sets its flag (R119). -/
def Tile.setSlot (x : Tile) (slot : Nat) (v : Nat × Nat) : Tile :=
  { x with side := x.side.put (fun _ => (0, 0)) slot v, sideValid := withOne x.sideValid slot }

/-- What an accepted operation but SLOT_CLR does. -/
def State.rowRun (t : TileId) (k : EngCmd) (r : RowCmd) (s : State) : State :=
  let l := k.loc t
  let x := mapReads (fun s p => s.rdOperand t p.1 0 r.fx r.n) s r.reads
  match x.2 with
  | .error c => (x.1.stopLast t 2).tmemError c t k.ctx 2
  | .ok ops =>
    let vals := fun (j : Nat) => (ops.getD j []).map (·.1)
    let stat := ((x.1.tile t).side).get (fun _ => (0, 0)) r.slot
    let y := r.compute (vals 0) (vals 1) (v32 ((k.ops[3]).toNat % 2 ^ 32)) stat
    let f := elemFmt r.fo
    let out := y.1.1.map (fun v => deliver (.val v, .none) f ((Rnd.ofCode r.rnd).getD .rne) 0 false)
    let z := x.1.writeT0 (sram t r.out.1) (packElems f.width (out.map (·.1)))
    let s := z.1.raiseFlags l (y.1.2 ++ out.map (·.2))
    let s := match y.2 with
      | some v => s.updTile t (fun x => x.setSlot r.slot v)
      | none => s
    if z.2 then s else (s.stopLast t 2).tmemError 4 t k.ctx 2

/-- What the row engine does with the command at the head of its queue: one at a time (R138). -/
def State.rowWork (t : TileId) (k : EngCmd) (s : State) : State :=
  let e : Fin 6 := 2
  let r := RowCmd.ofWord k.word
  if !((s.tile t).act e).isEmpty then s
  else
    match s.rowReject t k r with
    | some (c, row) => s.rejectCmd t e k c row
    | none =>
      let s := s.accept t e (Active.of k (16 + rowPasses r.op * ceilDiv r.n 32))
      if r.op = 5 then s.updTile t (fun x => { x with sideValid := without x.sideValid r.slot })
      else s.rowRun t k r

/-- NORM_FWD; the row also rejects a reserved operation code at the head of the queue. -/
def execNormFwd (t : TileId) (s : State) : Outcome State Fault Refusal :=
  .next (s.atHead t 2 (fun op => decide (op ≤ 1 ∨ 5 < op)) (State.rowWork t))

/-- NORM_BWD. -/
def execNormBwd (t : TileId) (s : State) : Outcome State Fault Refusal :=
  .next (s.atHead t 2 (fun op => decide (op = 2)) (State.rowWork t))

/-- SMAX_FWD. -/
def execSmaxFwd (t : TileId) (s : State) : Outcome State Fault Refusal :=
  .next (s.atHead t 2 (fun op => decide (op = 3)) (State.rowWork t))

/-- SMAX_BWD. -/
def execSmaxBwd (t : TileId) (s : State) : Outcome State Fault Refusal :=
  .next (s.atHead t 2 (fun op => decide (op = 4)) (State.rowWork t))

/-- SLOT_CLR clears its slot's valid flag (R119). -/
def execSlotClr (t : TileId) (s : State) : Outcome State Fault Refusal :=
  .next (s.atHead t 2 (fun op => decide (op = 5)) (State.rowWork t))

end Sys2Proof.Machine
end

