-- ==== Sys2Proof/Machine/Rows.lean ====
section
/-! DEFINITION. Rows of embedding tables as values: reading and re-encoding them, and the optimizer's arithmetic (R186 to R188,
R207, R279 to R284). -/
namespace Sys2Proof.Machine

/-- What the optimizer works on: the master vector, V2 and the first moment. -/
structure RowVals where
  w : List Val
  v2 : Val
  m : List Val
  deriving DecidableEq, Repr

/-- The master value of element e (R279). A product of an element and its scale beyond FP32's range is rounded like any value, to an infinity,
and raises no flag (DESIGN CHOICE, log 129). -/
def TableDesc.master (d : TableDesc) (row : List Byte) (e : Nat) : Val :=
  if d.fmt = 2 ∧ d.res = true then
    v32 (leVal ((row.drop (16 + 2 * e)).take 2) * 2 ^ 16 + leVal ((row.drop (d.o2 + 2 * e)).take 2))
  else rneVal .fp32 (d.elem row e)

/-- The first moment's element e: its FS8e4 value times the segment's scale (R188); beyond FP32's range as `TableDesc.master` (log 129). -/
def TableDesc.moment (d : TableDesc) (row : List Byte) (e : Nat) : Val :=
  rneVal .fp32 (mulVal (decodeFmt .fs8e4 (leVal ((row.drop (d.o1 + 4 + e)).take 1)))
    (decodeFmt .fs16 (leVal ((row.drop d.o1).take 2))))

/-- A row as values. -/
def TableDesc.rowVals (d : TableDesc) (row : List Byte) : RowVals :=
  { w := (List.range d.d).map (d.master row), v2 := decodeFmt .fs16 (fld (headerOf row) 63 48),
    m := if d.m1 then (List.range d.d).map (d.moment row) else [] }

/-! ### The optimizer (R283, R284) -/

/-- A coefficient block. -/
structure Coef where
  wd : Val
  lr : Val
  b1 : Val
  b2 : Val
  clip : Val
  eps : Val
  gsrc : Bool
  gbuf : Nat
  goff : Nat
  cfa : Nat
  cfen : Bool
  resv : Bool
  deriving DecidableEq, Repr

/-- The fields of a block's words. -/
def Coef.ofWords (w : List Nat) : Coef :=
  let q := fun i => w.getD i 0
  { wd := v32 (fld (q 0) 63 32), lr := v32 (fld (q 0) 31 0), b2 := v32 (fld (q 1) 63 32), b1 := v32 (fld (q 1) 31 0),
    clip := v32 (fld (q 2) 63 32), eps := v32 (fld (q 2) 31 0), gsrc := bitOf (q 3) 63, gbuf := fld (q 3) 62 53,
    goff := fld (q 3) 52 35, cfa := fld (q 3) 34 18, cfen := bitOf (q 3) 17,
    resv := decide (fld (q 3) 16 0 ≠ 0 ∨ q 4 ≠ 0 ∨ q 5 ≠ 0 ∨ q 6 ≠ 0 ∨ q 7 ≠ 0) }

/-- sqrt64 of NORMSQ, an FP64 encoding: the encoding and its flags. -/
def normRoot (normsq : Nat) : Nat × AFlags := deliver (ieeeSqrt (decodeFmt .fp64 normsq)) .fp64 .rne 0 false

/-- clip_scale() from NORMSQ, an FP64 encoding. -/
def clipScale (clip : Val) (normsq : Nat) : Val :=
  let n := decodeFmt .fp64 (normRoot normsq).1
  if clip.isZero || decide (cmpVal n clip ≤ 0) then natVal 1 else (op32 (ieeeDiv clip n)).1

/-- The flags of clip_scale() (R49): of the root, and of the quotient where one is taken. -/
def clipFlags (clip : Val) (normsq : Nat) : AFlags :=
  let n := decodeFmt .fp64 (normRoot normsq).1
  if clip.isZero then .none
  else if cmpVal n clip ≤ 0 then (normRoot normsq).2
  else (normRoot normsq).2.or (op32 (ieeeDiv clip n)).2

/-- The mean square of the scaled gradient. -/
def meanSquare (gs : List Val) : Flagged Val :=
  let q := gs.foldl (fun (a : Flagged Val) g => let r := op32 (ieeeFma .rne g g a.1); (r.1, a.2 ++ [r.2])) (Val.zero, [])
  let r := op32 (ieeeDiv q.1 (natVal gs.length))
  (r.1, q.2 ++ [r.2])

/-- A value with the flags of the operations that made it. -/
def fstep (x : Exact × AFlags) (fs : List AFlags) : Flagged Val :=
  let r := op32 x
  (r.1, fs ++ [r.2])

/-- The new V2 under an optimizer. -/
def newV2 (opt : Nat) (c : Coef) (v2 q : Val) : Flagged Val :=
  match opt with
  | 2 => fstep (ieeeAdd .rne v2 q) []
  | 3 =>
    let a := fstep (exSub (natVal 1) c.b2) []
    let b := fstep (ieeeMul a.1 q) a.2
    fstep (ieeeFma .rne c.b2 v2 b.1) b.2
  | _ => (v2, [])

/-- The new moment of an element. -/
def newMoment (opt : Nat) (c : Coef) (m g : Val) : Flagged Val :=
  match opt with
  | 1 => fstep (ieeeFma .rne c.b1 m g) []
  | 3 =>
    let a := fstep (exSub (natVal 1) c.b1) []
    let b := fstep (ieeeMul a.1 g) a.2
    fstep (ieeeFma .rne c.b1 m b.1) b.2
  | _ => (m, [])

/-- The update u of an element, `cf` its column factor. -/
def updateTerm (opt : Nat) (c : Coef) (v2 m g cf : Val) : Flagged Val :=
  match opt with
  | 1 => (m, [])
  | 2 =>
    let a := fstep (ieeeSqrt v2) []
    let b := fstep (ieeeAdd .rne a.1 c.eps) a.2
    fstep (ieeeDiv g b.1) b.2
  | 3 =>
    let v := if c.cfen then fstep (ieeeMul v2 cf) [] else (v2, [])
    let a := fstep (ieeeSqrt v.1) v.2
    let b := fstep (ieeeAdd .rne a.1 c.eps) a.2
    fstep (ieeeDiv m b.1) b.2
  | _ => (g, [])

/-- The new master value of an element. -/
def newWeight (c : Coef) (w u : Val) : Flagged Val :=
  let a := fstep (ieeeFma .rne c.wd w u) []
  let b := fstep (ieeeMul c.lr a.1) a.2
  fstep (exSub w b.1) b.2

/-- The flags of one element result: each raised once (R56). -/
def mergeFlags (fs : List AFlags) : AFlags := fs.foldl AFlags.or .none

/-- update_row of R284, with the flags of the row's mean square and V2, as one result, and of each element. The manual does not say
what one element result of an update is: all arithmetic of an element is taken as one, whose flags count once (DESIGN CHOICE, log 50). -/
def updateRow (opt : Nat) (c : Coef) (cs : Val) (cf : List Val) (r : RowVals) (g : List Val) : Flagged RowVals :=
  let sc := g.map (fun x => op32 (ieeeMul x cs))
  let q := meanSquare (sc.map (·.1))
  let v2 := newV2 opt c r.v2 q.1
  let els := (List.range g.length).map (fun e =>
    let s := sc.getD e (Val.zero, .none)
    let m := newMoment opt c (r.m.getD e Val.zero) s.1
    let u := updateTerm opt c v2.1 m.1 s.1 (cf.getD e Val.zero)
    let w := newWeight c (r.w.getD e Val.zero) u.1
    (w.1, m.1, mergeFlags (s.2 :: m.2 ++ u.2 ++ w.2)))
  ({ w := els.map (·.1), v2 := v2.1, m := if r.m.isEmpty then [] else els.map (·.2.1) },
    mergeFlags (q.2 ++ v2.2) :: els.map (·.2.2))

/-! ### Re-encoding (R188) -/

/-- The scale exponent of a scaled segment: 1 for a zero segment, clamped to −126 to 127. -/
def segScale (vs : List Val) (f : Fmt) : Val :=
  let a := amaxOf vs
  if a.isZero then natVal 1
  else
    let e := blockExp a f
    .fin false 1 (if e < -126 then -126 else if 127 < e then 127 else e)

/-- Elements in an FS8 format under a scale. -/
def encodeScaled (vs : List Val) (s : Val) (f : Fmt) (mode : Rnd) (draw : Nat → Nat) : List (Nat × AFlags) :=
  (List.range vs.length).zipWith (fun e v => fs8RowEncode v s f mode (draw e)) vs

/-- The least and greatest of FP32 values. -/
def rangeOf (vs : List Val) : Val × Val :=
  match vs with
  | [] => (Val.zero, Val.zero)
  | v :: r => r.foldl (fun p x => (if lessVal x p.1 then x else p.1, if lessVal p.2 x then x else p.2)) (v, v)

/-- hi − lo, exactly. -/
def spread (r : Val × Val) : Val :=
  match (ieeeAdd .rne r.2 r.1.negate).1 with
  | .val v => v
  | .quot _ _ _ _ => Val.zero

/-- a and b of a Q8 row. With a NaN among the values the manual states neither: they are the free values given. -/
def q8Scale (vs : List Val) (fa fb : Val) : Val × Val :=
  let r := rangeOf vs
  if vs.any Val.isNan then (fa, fb)
  else if cmpVal r.2 r.1 = 0 then (Val.zero, r.1)
  else
    let a := (op32 (ieeeDiv (spread r) (natVal 255))).1
    (a, rneVal .fp32 (fmaExact (natVal 128) a r.1))

/-- The flags of the two rne() that make a and b (R49), as one result of the row. -/
def q8ScaleFlags (vs : List Val) : AFlags :=
  let r := rangeOf vs
  if vs.any Val.isNan || decide (cmpVal r.2 r.1 = 0) then .none
  else
    let a := op32 (ieeeDiv (spread r) (natVal 255))
    a.2.or (convertVal (fmaExact (natVal 128) a.1 r.1) .fp32 .rne 0 false).2

/-- The vector segment: SCALE and BIAS words, element encodings and flags. -/
def TableDesc.encodeVector (d : TableDesc) (vs : List Val) (mode : Rnd) (draw : Nat → Nat) (fa fb : Val) :
    Nat × Nat × List (Nat × AFlags) :=
  match d.fmt with
  | 1 => (0, 0, vs.map (fun v => (encodeVal .fp32 v, .none)))
  | 2 =>
    if d.res then (0, 0, vs.map (fun v => (encodeVal .fp32 v / 2 ^ 16, .none)))
    else (0, 0, (List.range vs.length).zipWith (fun e v =>
      let r := convertVal v .fs16 mode (draw e) false
      (encodeVal .fs16 r.1, r.2)) vs)
  | 0xB =>
    let ab := q8Scale vs fa fb
    (encodeVal .fp32 ab.1, encodeVal .fp32 ab.2, vs.map (fun v => q8Encode v ab.1 ab.2))
  | k =>
    let f : Fmt := if k = 0xC then .fs8e4 else .fs8e5
    let s := segScale vs f
    (encodeVal .fs16 s, 0, encodeScaled vs s f mode draw)

/-- Bytes padded with zeros to a multiple of 16. -/
def pad16 (bs : List Byte) : List Byte := bs ++ List.replicate (ru16 bs.length - bs.length) 0

/-- A row re-encoded under R188 and R279, from the row as read; `draw part e` is R207's draw. -/
def TableDesc.encodeRow (d : TableDesc) (old : List Byte) (r : RowVals) (ver : Nat) (draw : Nat → Nat → Nat)
    (fa fb : Val) : List Byte × List AFlags :=
  let mode := (Rnd.ofCode d.urnd).getD .rne
  let vec := d.encodeVector r.w mode (draw 0) fa fb
  let v2 := convertVal r.v2 .fs16 mode (draw 2 0) false
  let ms := segScale r.m .fs8e4
  let mo := encodeScaled r.m ms .fs8e4 mode (draw 1)
  let head := leBytes 16 (vec.2.1 * 2 ^ 96 + vec.1 * 2 ^ 64 + encodeVal .fs16 v2.1 * 2 ^ 48 + 2 ^ 41 +
    (if rowLive old then 2 ^ 40 else 0) + ver % 2 ^ 40)
  let vecBytes := (vec.2.2.map (fun x => leBytes d.width x.1)).flatten
  let moment := if d.m1 then leBytes 2 (encodeVal .fs16 ms) ++ [0, 0] ++ mo.map (fun x => BitVec.ofNat 8 x.1) else []
  let residue := if d.res then (r.w.map (fun v => leBytes 2 (encodeVal .fp32 v % 2 ^ 16))).flatten else []
  let body := head ++ pad16 vecBytes ++ pad16 moment ++ residue
  ((body ++ List.replicate (d.stride - body.length) 0).take d.stride,
    v2.2 :: (if d.fmt = 0xB then [q8ScaleFlags r.w] else []) ++ vec.2.2.map (·.2) ++ (if d.m1 then mo.map (·.2) else []))

/-- The draw of R207. -/
def rowDraw (seed step table x part e : Nat) : Nat :=
  srBits seed step (x % 2 ^ 32) ((table * 2 ^ 20 + x / 2 ^ 32 * 2 ^ 12 + part * 2 ^ 10 + e) % 2 ^ 32)

/-- The encoding of a row in the digest: DIRTY and CPEND are taken as 0 (R416). -/
def rowItem (t v x : Nat) (row : List Byte) : List Byte :=
  let h := headerOf row
  leBytes 1 1 ++ leBytes 1 t ++ leBytes 1 v ++ leBytes 5 x ++ withHeader row (setFld h 42 41 0)

end Sys2Proof.Machine
end

