-- ==== Sys2Proof/Machine/Pins.lean ====
section
/-! DEFINITION. Pins, the T1 pool, moves between the tiers, remote rows and their mirror, and prefetch plans (R228 to R237,
R239 to R241). -/
namespace Sys2Proof.Machine

open Host (Outcome)

/-- Changes the embedding state. -/
def State.updEmb (s : State) (f : EmbState → EmbState) : State := { s with emb := f s.emb }

/-! ### Pin tables (R228, R230, R231) -/

/-- The pins that a home tile holds. -/
def State.pinsOf (s : State) (h : Nat) : List Pin := s.emb.pins.filter (fun p => decide (p.tile = h))

/-- PINS of a home tile. -/
def State.pinRoom (s : State) (h : Nat) : Nat := wfld (s.reg (tileReg h 6 0x018)) 46 31

/-- PLANMAX of a home tile. -/
def State.planMax (s : State) (h : Nat) : Nat := wfld (s.reg (tileReg h 6 0x018)) 30 15

/-- The step that a tile is in. -/
def State.stepAt (s : State) (h : Nat) : Nat := (s.pairAt (some h)).1

/-- The pin of a row for a step. -/
def State.findPin (s : State) (t v x n : Nat) : Option Pin :=
  s.emb.pins.find? (fun p => decide (p.table = t ∧ p.slot = v ∧ p.index = x ∧ p.step = n))

/-- Whether a row holds any pin. -/
def State.pinned (s : State) (t v x : Nat) : Bool :=
  s.emb.pins.any (fun p => decide (p.table = t ∧ p.slot = v ∧ p.index = x))

/-- Counts a pin request in the row's hot-set or directory entry, whose AGE becomes the step; true when it has one
(R228). -/
def State.countHit (s : State) (h t v x n : Nat) : State × Bool :=
  let aged := match s.findEntry t v x with
    | some a =>
      let e := s.dirEntry a
      let hits := if (s.hotWay h t v x).isSome then fld e 71 64 else min (fld e 71 64 + 1) 255
      (s.putEntry h a (setFld (setFld e 87 72 (n % 2 ^ 16)) 71 64 hits), true)
    | none => (s, false)
  match s.hotWay h t v x with
  | some w =>
    let a := sram h (hotWayAt (s.hotCfg h) t x w)
    let e := s.peek a 16
    (aged.1.storeMem h a (leBytes 16 (setFld e 79 72 (min (fld e 79 72 + 1) 255))), true)
  | none => aged

/-- A row's image goes to another device (R233). A row that this device does not have goes as a row whose LIVE is 0. -/
def State.sendImage (s : State) (dst t v x n : Nat) : State :=
  match s.table t with
  | none => s
  | some d =>
    let h := d.home x
    let p := s.pairAt (some h)
    let a := if n = p.1 then p.2 else 0
    let y := s.checkReads (s.lookupReads d t v x)
    match y.2, y.1.rowAt t v x with
    | some b, _ => y.1.rowError h b
    | none, none => y.1.send dst n a (.rowImage t v x (List.replicate d.stride 0))
    | none, some loc =>
      let z := y.1.readMem loc d.stride
      match z.2 with
      | some row => z.1.send dst n a (.rowImage t v x row)
      | none => z.1.rowError h loc

/-- Whether a row's bytes cannot be read now: it lies beyond T1 with no host link, or in base camp (R318, R445). -/
def State.rowFar (s : State) (t v x : Nat) : Bool :=
  match s.rowAt t v x with
  | some a => s.memWaits a
  | none => false

/-- Sends the images of the rows that a home tile's pins of step n hold to the devices that asked, as far as they can be read (R233). -/
def State.sendImages (s : State) (h n : Nat) : State :=
  (s.pinsOf h).foldl (fun s p =>
    if p.step ≠ n || p.asks.isEmpty || s.rowFar p.table p.slot p.index then s
    else
      let s := p.asks.foldl (fun s d => s.sendImage d p.table p.slot p.index n) s
      s.updEmb (fun e => { e with pins := e.pins.map (fun q => if q.order = p.order then { q with asks := [] } else q) })) s

/-- Adds a request to a pin, or takes a new one, and counts it; an image for another device goes at once when the pin is of
the home tile's own step. -/
def State.grantPin (s : State) (h : Nat) (a : PinAsk) : State :=
  let y := s.countHit h a.table a.slot a.index a.step
  let own := if y.2 then 0 else 1
  let far := decide (a.src ≠ s.devId)
  let s := match s.findPin a.table a.slot a.index a.step with
    | some p => y.1.updEmb (fun e => { e with pins := e.pins.map (fun q =>
        if q.order = p.order then { q with hits := q.hits + own, asks := if far then withOne q.asks a.src else q.asks } else q) })
    | none => y.1.updEmb (fun e => { e with
        pins := e.pins ++ [⟨h, a.table, a.slot, a.index, a.step, own, e.pinSeq, if far then [a.src] else []⟩],
        pinSeq := e.pinSeq + 1 })
  if far && decide (a.step = s.stepAt h) then s.sendImages h a.step else s

/-! ### The T1 pool and moves (R224, R232, R239) -/

/-- The address of pool slot i. -/
def TableDesc.poolAt (d : TableDesc) (k : TierDesc) (i : Nat) : Nat := k.poolBase + i * d.stride

/-- The pool slots that a home tile manages. -/
def TableDesc.poolSlots (d : TableDesc) (k : TierDesc) (h : Nat) : List Nat :=
  let m := h - d.tbase
  (List.range (ceilDiv (k.poolRows - m) d.nt)).map (fun j => m + j * d.nt)

/-- The use of a pool slot. -/
def State.poolUse (s : State) (t i : Nat) : Option PoolSlot :=
  s.emb.pool.find? (fun p => decide (p.table = t ∧ p.place = i))

/-- Whether a row is being moved. -/
def State.moving (s : State) (t v x : Nat) : Bool :=
  s.emb.moves.any (fun m => decide (m.table = t ∧ m.slot = v ∧ m.index = x))

/-- Whether a table's PLACE allows the tier of an address (R184, R220). -/
def TableDesc.allows (d : TableDesc) (a : Nat) : Bool :=
  match tierOf a with
  | .t0 => bitOf d.place 3
  | .t1 => true
  | .t2 => bitOf d.place 1
  | .t3 => bitOf d.place 0
  | .none => false

/-- The pool slots of a home tile that hold rows, with the address of each row's directory entry, which points at the slot. -/
def State.pooled (s : State) (t h : Nat) (d : TableDesc) (k : TierDesc) : List (PoolSlot × Nat) :=
  ((d.poolSlots k h).filterMap (fun i => (s.poolUse t i).bind (fun p => (s.findEntry t p.slot p.index).map (fun a => (p, a))))).filter
    (fun e => decide (fld (s.dirEntry e.2) 255 192 = d.poolAt k e.1.place))

/-- The pool slots of a version slot's rows are free: the slot is built again, and no move of an old row goes on (R211, R232; DEDUCED, log
158). -/
def State.dropPool (s : State) (t v : Nat) : State :=
  s.updEmb (fun e => { e with pool := e.pool.filter (fun p => !decide (p.table = t ∧ p.slot = v)) })

/-- The pool slot to demote, with its row's directory entry: no pin, CPEND 0, not moving, BACK in a tier that PLACE allows, the greatest age;
ties go to the lowest slot (R220, R232). -/
def State.victim (s : State) (t h : Nat) (d : TableDesc) (k : TierDesc) : Option (PoolSlot × Nat) :=
  let ok := (s.pooled t h d k).filter (fun e =>
    !(s.pinned t e.1.slot e.1.index || s.moving t e.1.slot e.1.index || rowCpend (s.bytes (d.poolAt k e.1.place) 16)) &&
    d.allows (fld (s.dirEntry e.2) 191 128))
  let age := fun (a : Nat) => (s.step.no + 2 ^ 16 - fld (s.dirEntry a) 87 72) % 2 ^ 16
  ok.foldl (fun (b : Option (PoolSlot × Nat)) x => match b with
    | some y => if age y.2 < age x.2 then some x else b
    | none => some x) none

/-- Sets or clears MOVING in a directory entry. -/
def State.setMoving (s : State) (h a : Nat) (b : Bool) : State := s.putEntry h a (setFld (s.dirEntry a) 1 1 (if b then 1 else 0))

/-- Whether a location beyond the device can be moved to or from: in T3 whole blocks of a namespace that the engine has (R241). -/
def State.moveFits (s : State) (loc len : Nat) : Bool := decide (tierOf loc ≠ .t3) || s.blocksFit loc len

/-- Starts a move: the row's entry with MOVING set, and the request of its bytes. -/
def State.startMove (s : State) (ent e loc len : Nat) (h t v x i : Nat) (up : Bool) : State :=
  let y := (s.putEntry h ent (setFld e 1 1 1)).farRequest ⟨0, none, 0, 0, 0, loc, len, 0, !up, false⟩
  y.1.updEmb (fun e => { e with moves := e.moves ++ [⟨y.2, h, t, v, x, i, up⟩] })

/-- A move that would break a namespace's blocks is refused with an error, and the step does not commit (R180, R241). -/
def State.moveRefused (s : State) (h loc : Nat) : State := (s.barCommit (s.pairAt (some h))).logError 6 2 h 0 4 loc 0 0

/-- What became of an attempt to bring a row up: under way (its own move, or a demotion that frees a slot), blocked for want of a slot,
impossible for want of a directory entry, or refused. -/
inductive Lift where
  | started
  | blocked
  | stays
  | refused
  deriving DecidableEq, Repr

/-- The directory entry of a row and its word, or the first free one within its probes with the word that a new entry takes (R224). -/
def State.entryFor (s : State) (d : TableDesc) (t v x n : Nat) : Option (Nat × Nat) :=
  match s.findEntry t v x with
  | some a => some (a, s.dirEntry a)
  | none => (((s.tierDesc t).probes t v x).find? (fun a => !bitOf (s.dirEntry a) 0)).map (fun a =>
      (a, mkEntry (d.direct v x) (d.direct v x) x n 0 false))

/-- Changes a request that waits. -/
def State.updAsk (s : State) (order : Nat) (f : PinAsk → PinAsk) : State :=
  s.updEmb (fun e => { e with waiting := e.waiting.map (fun b => if b.order = order then f b else b) })

/-- Frees a pool slot for a request by demotion (R232): one at a time for a table and home tile. -/
def State.demote (s : State) (d : TableDesc) (h t : Nat) : State × Lift :=
  let k := s.tierDesc t
  if s.emb.moves.any (fun m => !m.up && decide (m.table = t ∧ m.tile = h)) then (s, .started)
  else
    let y := s.checkReads ((s.pooled t h d k).flatMap (fun e => [(e.2, 32), (d.poolAt k e.1.place, 16)]))
    match y.2, y.1.victim t h d k with
    | some a, _ => (y.1.rowError h a, .refused)
    | none, none => (y.1, .blocked)
    | none, some (p, ent) =>
      let e := y.1.dirEntry ent
      let back := fld e 191 128
      if y.1.moveFits back d.stride then (y.1.startMove ent e back d.stride h t p.slot p.index p.place false, .started)
      else (y.1.moveRefused h back, .refused)

/-- A row that its request has to copy up, with no plan ahead of it, counts as late: at the tile whose POOL asked, or for a request that
another device makes in the home tile's own step at the home tile (R229, log 146). -/
def State.countLate (s : State) (h : Nat) (a : PinAsk) : State :=
  match a.tile, a.plan with
  | some q, false => s.count (embCnt q 0x058) 1
  | some _, true => s
  | none, _ => if a.step = s.stepAt h then s.count (embCnt h 0x058) 1 else s

/-- Brings a row in T2 or T3 up into a free pool slot of its home tile, or demotes one to free a slot (R228, R232). -/
def State.liftRow (s : State) (d : TableDesc) (h : Nat) (a : PinAsk) (loc : Nat) : State × Lift :=
  if !s.moveFits loc d.stride then (s.moveRefused h loc, .refused)
  else
    match s.entryFor d a.table a.slot a.index a.step with
    | none => (if a.nodir then s else (s.count (embCnt h 0x0B0) 1).updAsk a.order (fun b => { b with nodir := true }), .stays)
    | some (ent, e) =>
      match (d.poolSlots (s.tierDesc a.table) h).find? (fun i => (s.poolUse a.table i).isNone) with
      | some i =>
        let s := s.updEmb (fun e => { e with pool := e.pool ++ [⟨a.table, i, a.slot, a.index⟩] })
        ((s.countLate h a).startMove ent e loc d.stride h a.table a.slot a.index i true, .started)
      | none => s.demote d h a.table

/-! ### Serving requests (R228 to R230) -/

/-- The newest pin of the step after n on a home tile. -/
def State.newestNext (s : State) (h n : Nat) : Option Pin :=
  (s.pinsOf h).foldl (fun (b : Option Pin) p => if p.step ≤ n then b else match b with
    | some q => if q.order < p.order then some p else b
    | none => some p) none

/-- A request waits for a full pin table: counted and deferred once. -/
def State.holdAsk (s : State) (h : Nat) (a : PinAsk) : State :=
  if a.held then s
  else ((s.updAsk a.order (fun b => { b with held := true })).count (embCnt h 0x088) 1).ensureDeferral 5 2 0x18 h h

/-- Whether a home tile's pin table takes a new pin of a step (R230, R231). -/
def State.pinFits (s : State) (h n : Nat) : Bool :=
  decide ((s.pinsOf h).length < s.pinRoom h) && (decide (n = s.stepAt h) ||
    decide (((s.pinsOf h).filter (fun p => decide (s.stepAt h < p.step))).length < s.planMax h))

/-- A request whose row stands in T0 or T1, or stays where it is: it joins the row's pin or takes a new one; none when the table is full. -/
def State.tryPin (s : State) (h : Nat) (a : PinAsk) : Option State :=
  if (s.findPin a.table a.slot a.index a.step).isSome || s.pinFits h a.step then some (s.grantPin h a) else none

/-- A request as it stands: it may have been held or counted since it was taken up. -/
def State.askNow (s : State) (a : PinAsk) : PinAsk := (s.emb.waiting.find? (fun b => decide (b.order = a.order))).getD a

/-- Serves a request of the tile's step, or of the next, for a row that lies at an address: true when it is done with. Without a slot or a
pin, one of the next step waits, and one of this step takes the room of the next step's newest pin, or exceeds the budget (R230); `fuel`
bounds the pins that it takes. -/
def State.servePin (d : TableDesc) (h loc : Nat) (a : PinAsk) : Nat → State → State × Bool
  | 0, s => (s, false)
  | fuel + 1, s =>
    let a := s.askNow a
    let y := if decide (tierOf loc = .t2 ∨ tierOf loc = .t3) then s.liftRow d h a loc else (s, .stays)
    let full := fun (s : State) =>
      if a.step ≠ s.stepAt h then (s.holdAsk h a, false)
      else
        match s.newestNext h (s.stepAt h) with
        | some p => State.servePin d h loc a fuel
            ((s.updEmb (fun e => { e with pins := e.pins.filter (fun q => decide (q.order ≠ p.order)) })).count (embCnt h 0x090) 1)
        | none => (s.stepError (some h) 4 a.table a.index, true)
    match y.2 with
    | .started => (y.1, false)
    | .refused => (y.1, true)
    | .blocked => full y.1
    | .stays =>
      match y.1.tryPin h a with
      | some s => (s, true)
      | none => full y.1

/-- Serves a request: true when it is done with. A row of a slot that is not CURRENT in its step is never pinned: its image
goes at once. -/
def State.serveAsk (s : State) (a : PinAsk) : State × Bool :=
  match s.table a.table with
  | none => (s, true)
  | some d =>
    let h := d.home a.index
    let n := s.stepAt h
    if a.step < n then (s, true)
    else if n + 1 < a.step then (s, false)
    else
      let y := s.checkReads (s.lookupReads d a.table a.slot a.index)
      let s := y.1
      let free := if s.rowFar a.table a.slot a.index then (s, false) else (if a.src ≠ s.devId then s.sendImage a.src a.table a.slot a.index a.step else s, true)
      match y.2, s.rowLoc a.table a.slot a.index with
      | some b, _ => (s.rowError h b, true)
      | none, none => free
      | none, some loc =>
        if s.currentAt a.table a.step ≠ a.slot then free
        else if s.moving a.table a.slot a.index then (s, false)
        else State.servePin d h loc a ((s.pinsOf h).length + 1) s

/-- Home tiles whose requests a full table holds. -/
def State.heldTiles (s : State) : List Nat :=
  (s.emb.waiting.filter (·.held)).filterMap (fun a => (s.table a.table).map (fun d => d.home a.index))

/-- Serves the requests that wait, in arrival order, and ends the PIN deferrals of tiles that hold none any more. In base camp mode they wait
(R445). -/
def State.servePass (s : State) : State :=
  if s.mgmt.base then s else
  let before := s.heldTiles
  let s := s.emb.waiting.foldl (fun s a => match s.emb.waiting.find? (fun b => decide (b.order = a.order)) with
    | none => s
    | some b =>
      let y := s.serveAsk b
      if y.2 then y.1.updEmb (fun e => { e with waiting := e.waiting.filter (fun c => decide (c.order ≠ a.order)) }) else y.1) s
  let after := s.heldTiles
  (before.filter (fun h => decide (h ∉ after))).foldl (fun s h => s.closeDeferral 5 (some h)) s

/-! ### Completion of moves -/

/-- Frees a pool slot. -/
def State.freeSlot (s : State) (t i : Nat) : State :=
  s.updEmb (fun e => { e with pool := e.pool.filter (fun p => !decide (p.table = t ∧ p.place = i)) })

/-- Forgets a move. -/
def State.endMove (s : State) (m : Move) : State := s.updEmb (fun e => { e with moves := e.moves.filter (fun k => decide (k.tag ≠ m.tag)) })

/-- A move failed: the entry still points at the old location, the requests for the row fail, and the step does not commit (R241). -/
def State.moveFailed (s : State) (m : Move) : State :=
  let s := (s.endMove m).barCommit (s.pairAt (some m.tile))
  let s := match s.findEntry m.table m.slot m.index with | some a => s.setMoving m.tile a false | none => s
  if m.up then
    (s.freeSlot m.table m.place).updEmb (fun e => { e with waiting := e.waiting.filter (fun a =>
      !decide (a.table = m.table ∧ a.slot = m.slot ∧ a.index = m.index)) })
  else s

/-- A move's request completed: the row's bytes move, and its entry is redirected with one write. A move whose entry no longer says so, since
its version slot has been built again, ends with nothing (log 158). -/
def State.moveDone (s : State) (m : Move) : State :=
  match s.table m.table, s.findEntry m.table m.slot m.index with
  | some d, some ent =>
    let e := s.dirEntry ent
    let slot := d.poolAt (s.tierDesc m.table) m.place
    let back := fld e 191 128
    if !bitOf e 1 || (s.poolUse m.table m.place).isNone || decide (m.up = false ∧ fld e 255 192 ≠ slot) then s.endMove m
    else if m.up then
      let s := (s.writeMem slot (s.bytes (fld e 255 192) d.stride)).1
      ((s.putEntry m.tile ent (setFld (setFld (setFld e 255 192 slot) 71 64 0) 1 1 0)).endMove m).servePass
    else
      let y := s.readMem slot d.stride
      match y.2 with
      | none => (y.1.moveFailed m).dmemError m.tile 0 4 slot
      | some row =>
        (((((y.1.writeMem back row).1.putEntry m.tile ent (setFld (setFld e 255 192 back) 1 1 0)).endMove m).freeSlot
          m.table m.place).count (embCnt m.tile 0x0A0) 1).servePass
  | _, _ => s.endMove m

/-- The move that waits for a request. -/
def State.moveOf (s : State) (tag : Nat) : Option Move := s.emb.moves.find? (fun m => decide (m.tag = tag))

/-- The posted writes of moves go, which may free slots for further ones; `fuel` bounds them (R324). -/
def State.settleMoves : Nat → State → State
  | 0, s => s
  | fuel + 1, s =>
    if !s.hostUp then s
    else
      match s.host.waiting.find? (fun r => r.held && r.tile.isNone) with
      | some r => (match (s.dropHostReq r.tag).moveOf r.tag with
          | some m => State.settleMoves fuel ((s.dropHostReq r.tag).moveDone m)
          | none => s.dropHostReq r.tag)
      | none => s

/-- Serves what waits, as far as it goes. -/
def State.servePins (s : State) : State := State.settleMoves (s.emb.waiting.length + 1) s.servePass

/-- A request arrives at its row's home tile (R228). -/
def State.askPin (s : State) (a : PinAsk) : State :=
  (s.updEmb (fun e => { e with waiting := e.waiting ++ [{ a with order := e.pinSeq }], pinSeq := e.pinSeq + 1 })).servePins

/-- PIN_REQ: a request of another device, or one that this device sent itself. One of a step already passed is
dropped, and so is one in a base camp job, which takes no pins (R447). -/
def execPinReq (m : Msg) (s : State) : Outcome State Fault Refusal :=
  .next (match m.body with
    | .pinReq t v x =>
      if m ∉ s.inbox || !s.nextInRing m || s.writesStop then s
      else
        let y := s.takeRow m
        if y.2 && !s.job.baseRun then y.1.askPin ⟨m.src, t, v, x, m.step, 0, none, false, false, false⟩ else y.1
    | _ => s)

/-- A completed request of a DMA row or of a move: the rest of it follows, or the row moves, unless writes stop (R32). -/
def State.requestDone (s : State) (r : Request) : State :=
  match s.moveOf r.tag with
  | none => s.rowArrived r
  | some m =>
    if s.writesStop then s
    else if 0 < r.left then
      let y := s.farRequest r.rest
      y.1.updEmb (fun e => { e with moves := e.moves.map (fun k => if k.tag = m.tag then { k with tag := y.2 } else k) })
    else State.settleMoves (s.emb.waiting.length + 1) (s.moveDone m)

/-- A failed request of a DMA row or of a move; a move's failure is a HOST error of the home tile (R181, R241). -/
def State.requestFailed (s : State) (r : Request) (cause status : Nat) : State :=
  match s.moveOf r.tag with
  | some m => (s.moveFailed m).logError 6 cause m.tile 0 4 r.addr status 0
  | none => s.rowFailed r cause status

/-- A completion arrives: status 0 completes the request; Unsupported Request or Completer Abort fails the access (R324). While the link
is no use to T2, the access waits (R318). -/
def execT2Completion (tag status : Nat) (s : State) : Outcome State Fault Refusal :=
  .next (if !s.hostUp then s else match s.hostReq tag with
    | none => s
    | some r => if status = 0 then (s.dropHostReq tag).requestDone r else (s.dropHostReq tag).requestFailed r 1 status)

/-- What waited for memory that can be reached again goes on: images of rows, pin requests, and messages of staging rings (R318, R340,
R445). -/
def State.resumeRows (s : State) : State :=
  (((s.emb.pins.map (·.tile)).eraseDups.foldl (fun s h => s.sendImages h (s.stepAt h)) s).servePins).reroute

/-- The entries of TILEIN rings in T2 whose doorbells came meanwhile are recorded (R415). -/
def State.recordRung (s : State) : State := s.qm.rung.foldl State.recordEntry { s with qm := { s.qm with rung := [] } }

/-- What waited for the host link goes once it serves T2 and T3 again: posted writes, NVMe commands, what waited for rows, and records of the
route book (R318). -/
def State.flushFar (s : State) : State :=
  if !s.hostUp then s
  else (((s.host.waiting.filter (·.held)).foldl (fun s r => (s.dropHostReq r.tag).requestDone r) s).nvmeFlush).resumeRows.recordRung

/-- A completion timeout of 50 ms fails the access (R324). -/
def execT2Timeout (tag : Nat) (s : State) : Outcome State Fault Refusal :=
  .next (match s.hostReq tag with
    | none => s
    | some r => (s.dropHostReq tag).requestFailed r 1 0)

/-! ### The mirror (R233, R234) -/

/-- The mirror set of a row. -/
def TierDesc.mirSet (k : TierDesc) (t x : Nat) : Nat := rowHash t x / 2 ^ 16 % k.mirSets

/-- Where a mirror way lies: its tag granule. -/
def TableDesc.mirAt (d : TableDesc) (k : TierDesc) (set way : Nat) : Nat := k.mirBase + (4 * set + way) * (64 + d.stride)

/-- The mirror's copy of a row for a step. -/
def State.mirrorRow (s : State) (t v x n : Nat) : Option MirrorRow :=
  s.emb.mirror.find? (fun m => decide (m.table = t ∧ m.slot = v ∧ m.index = x ∧ m.step = n))

/-- The address of a mirrored row. -/
def State.mirrorAt (s : State) (m : MirrorRow) : Nat :=
  match s.table m.table with
  | some d => d.mirAt (s.tierDesc m.table) m.set m.way + 64
  | none => 0

/-- A row's image lands in a free way of its set. -/
def State.landImage (s : State) (d : TableDesc) (k : TierDesc) (t v x n w : Nat) (row : List Byte) : State :=
  let set := k.mirSet t x
  let a := d.mirAt k set w
  let tag := leBytes 64 (x + n * 2 ^ 40)
  let s := s.storeMem (d.home x) a (tag ++ row)
  s.updEmb (fun e => { e with mirror := e.mirror ++ [⟨t, v, x, n, set, w⟩],
                              asked := e.asked.filter (fun a => !decide (a.table = t ∧ a.slot = v ∧ a.index = x ∧ a.step = n)) })

/-- Ways of a mirror set in use. -/
def State.waysUsed (s : State) (t set : Nat) : List Nat :=
  (s.emb.mirror.filter (fun r => decide (r.table = t ∧ r.set = set))).map (·.way)

/-- ROW_IMAGE: with its set full it waits; one of a step already passed is dropped, as is one that the mirror holds. -/
def execRowImage (m : Msg) (s : State) : Outcome State Fault Refusal :=
  .next (match m.body with
    | .rowImage t v x row =>
      if m ∉ s.inbox || !s.nextInRing m || s.writesStop || s.mgmt.base then s
      else
        match s.table t with
        | none => (s.takeRow m).1
        | some d =>
          let k := s.tierDesc t
          if m.step < s.curStep ∨ k.mirSets = 0 ∨ (s.mirrorRow t v x m.step).isSome then (s.takeRow m).1
          else
            match [0, 1, 2, 3].find? (fun w => decide (w ∉ s.waysUsed t (k.mirSet t x))) with
            | some w =>
              let y := s.takeRow m
              if y.2 then y.1.landImage d k t v x m.step w row else y.1
            | none => s
    | _ => s)

/-! ### Indices (R192, R193) -/

/-- The descriptor of POOL, SCATTER and plans. Addresses as byte offsets. -/
structure PoolDesc where
  idx : Nat
  off : Nat
  wgt : Nat
  out : Nat
  ostride : Nat
  nbags : Nat
  wide : Bool
  half : Bool
  op : Nat
  ofmt : Nat
  rnd : Nat
  ovf : Bool
  stage : Nat
  ssize : Nat
  rrec : Nat
  resv : Bool
  deriving DecidableEq, Repr

/-- The fields of the descriptor's words. -/
def PoolDesc.ofWords (w : List Nat) : PoolDesc :=
  let q := fun i => w.getD i 0
  { idx := 64 * fld (q 0) 63 47, off := 64 * fld (q 0) 46 30, wgt := 64 * fld (q 0) 29 13, out := 64 * fld (q 1) 63 47,
    ostride := 64 * fld (q 1) 46 30, nbags := fld (q 1) 29 14 + 1, wide := bitOf (q 1) 13, half := bitOf (q 1) 12,
    op := fld (q 1) 11 9, ofmt := fld (q 1) 8 5, rnd := fld (q 1) 4 2, ovf := bitOf (q 1) 1, stage := 64 * fld (q 2) 63 47,
    ssize := 64 * fld (q 2) 46 30, rrec := fld (q 2) 29 13,
    resv := decide (fld (q 0) 12 0 ≠ 0 ∨ fld (q 1) 0 0 ≠ 0 ∨ fld (q 2) 12 0 ≠ 0 ∨ q 3 ≠ 0 ∨ q 4 ≠ 0 ∨ q 5 ≠ 0 ∨ q 6 ≠ 0 ∨
      q 7 ≠ 0) }

/-- Bytes of an index. -/
def PoolDesc.iw (d : PoolDesc) : Nat := if d.wide then 8 else 4

/-- Bytes of a weight. -/
def PoolDesc.ww (d : PoolDesc) : Nat := if d.half then 2 else 4

/-- Whether the operation reads weights. -/
def PoolDesc.weighted (d : PoolDesc) : Bool := decide (d.op = 3 ∨ d.op = 4)

/-- The class of an index position (R193). -/
inductive IdxClass where
  | sentinel
  | range
  | missing
  | valid
  deriving DecidableEq, Repr

/-- The row header that classifies a local row, or the mirrored one; none when there is no row. -/
def State.rowHead (s : State) (d : TableDesc) (t v x n : Nat) : Option Nat :=
  if s.ownerOf d x = s.devId then (s.rowAt t v x).map (fun a => s.peek a 16)
  else (s.mirrorRow t v x n).map (fun m => s.peek (s.mirrorAt m) 16)

/-- Classifies an index. -/
def State.classify (s : State) (d : TableDesc) (t v n : Nat) (wide : Bool) (x : Nat) : IdxClass :=
  if x = (if wide then 2 ^ 64 - 1 else 2 ^ 32 - 1) then .sentinel
  else if d.nrows ≤ x then .range
  else match s.rowHead d t v x n with
    | some h => if bitOf h 40 then .valid else .missing
    | none => .missing

/-- The numbers of w bytes in a list. -/
def leNums (w n : Nat) (bs : List Byte) : List Nat := (chunks w n bs).map leVal

/-! ### Plans (R235 to R237) -/

/-- Two requests for the same row and step. -/
def PinAsk.same (a b : PinAsk) : Bool := decide (a.table = b.table ∧ a.slot = b.slot ∧ a.index = b.index ∧ a.step = b.step)

/-- Whether a request is that of a plan for a row. -/
def PinAsk.ofPlan (a : PinAsk) (p : Plan) (x : Nat) : Bool :=
  a.plan && decide (a.tile = some p.tile ∧ a.table = p.table ∧ a.slot = p.slot ∧ a.index = x ∧ a.step = p.step)

/-- Whether a tile still holds a plan: one of its requests waits at its home tile, or has not gone to its owner. -/
def State.planHeld (s : State) (p : Plan) : Bool :=
  p.rows.any (fun x => s.emb.waiting.any (·.ofPlan p x) || s.emb.asked.any (fun a => a.held && a.ofPlan p x))

/-- The plans that a tile holds. -/
def State.plansOf (s : State) (t : Nat) : List Plan := s.emb.plans.filter (fun p => decide (p.tile = t) && s.planHeld p)

/-- Whether a row's mirror set has no way for it: those that hold rows, and those whose images are asked for (R234, log 145). -/
def State.mirrorFull (s : State) (a : PinAsk) : Bool :=
  let k := s.tierDesc a.table
  let set := k.mirSet a.table a.index
  let out := s.emb.asked.filter (fun b => !b.held && decide (b.table = a.table ∧ k.mirSet a.table b.index = set) &&
    (s.mirrorRow b.table b.slot b.index b.step).isNone)
  !(out.any a.same || (s.mirrorRow a.table a.slot a.index a.step).isSome) &&
  decide (4 ≤ (s.waysUsed a.table set).length + ((out.map (fun b => (b.slot, b.index, b.step))).eraseDups).length)

/-- A plan's request that goes counts in EMB_CNT_PLANROW (R242). -/
def State.countPlan (s : State) (a : PinAsk) : State :=
  match a.tile, a.plan with
  | some q, true => s.count (embCnt q 0x080) 1
  | _, _ => s

/-- A request goes to the owner of its row. -/
def State.sendAsk (s : State) (a : PinAsk) : State :=
  match s.table a.table with
  | none => s
  | some d => (s.countPlan a).send (s.ownerOf d a.index) a.step (if a.step = s.curStep then s.step.att else 0) (.pinReq a.table a.slot a.index)

/-- A request for a row of another device: it goes, or waits for a way of the mirror (R233, R234). -/
def State.askFar (s : State) (a : PinAsk) : State :=
  let a := { a with order := s.emb.pinSeq, held := s.mirrorFull a }
  let s := s.updEmb (fun e => { e with asked := e.asked ++ [a], pinSeq := e.pinSeq + 1 })
  if a.held then s else s.sendAsk a

/-- Requests that waited for a way of the mirror go, in their order. -/
def State.releaseAsks (s : State) : State :=
  (s.emb.asked.filter (·.held)).foldl (fun s a =>
    if s.mirrorFull a then s
    else (s.updEmb (fun e => { e with asked := e.asked.map (fun b => if b.order = a.order then { b with held := false } else b) })).sendAsk a) s

/-- A tile's plan or POOL asks for the pin of a row: here, or at its owner (R228, R229, R235). -/
def State.wantRow (s : State) (d : TableDesc) (t v x n tile : Nat) (plan : Bool) : State :=
  let a : PinAsk := ⟨s.devId, t, v, x, n, 0, some tile, plan, false, false⟩
  if s.ownerOf d x = s.devId then (s.countPlan a).askPin a else s.askFar a

/-- The classes of distinct indices that a plan counts in its tile's drop counters, once each: out of range and missing (R219, R235, log
143). -/
def State.countDrops (s : State) (tile t : Nat) (cs : List IdxClass) : State :=
  (s.count (embCnt tile (0x800 + 32 * t + 8)) (cs.filter (fun c => decide (c = .range))).length).count
    (embCnt tile (0x800 + 32 * t + 16)) (cs.filter (fun c => decide (c = .missing))).length

/-- The rows that a list of indices names on this device, for the checks of what finds them. -/
def State.indexReads (s : State) (d : TableDesc) (t v : Nat) (wide : Bool) (xs : List Nat) : List (Nat × Nat) :=
  ((xs.filter (fun x => decide (x < d.nrows ∧ x ≠ (if wide then 2 ^ 64 - 1 else 2 ^ 32 - 1)))).eraseDups).flatMap (s.rowReads d t v)

/-- Works through a plan: one request for each distinct index that is not dropped here (R235). A row of another device is
asked for whether it exists there or not. A base camp job takes no pins (R447). -/
def State.runPlan (s : State) (tile t : Nat) (d : TableDesc) (xs : List Nat) (wide : Bool) : State :=
  let n := s.stepAt tile + 1
  let v := s.currentAt t n
  let y := s.checkReads (s.indexReads d t v wide xs)
  match y.2 with
  | some a => y.1.rowError tile a
  | none =>
    let s := y.1
    let far := fun (x : Nat) => decide (s.ownerOf d x ≠ s.devId)
    let cs := xs.eraseDups.map (fun x => (x, s.classify d t v n wide x))
    let rows := (cs.filter (fun c => decide (c.2 = .valid ∨ (c.2 = .missing ∧ far c.1 = true)))).map (·.1)
    let s := s.countDrops tile t ((cs.filter (fun c => decide (c.2 = .range ∨ far c.1 = false))).map (·.2))
    if s.job.baseRun then s else rows.foldl (fun s x => s.wantRow d t v x n tile true) (s.updEmb (fun e => { e with plans := e.plans ++ [⟨tile, t, v, n, rows⟩] }))

/-- A write of EMB_PLAN (R235, R237): its descriptor and its streams lie below 6 MiB, where a buffer's storage counts as beyond (R249). -/
def State.writePlan (s : State) (tile : TileId) (value : Word) : State × Bool :=
  let took := fun (s : State) => (s, true)
  let off := 64 * wfld value 63 47
  let t := wfld value 46 41
  let refuse := fun (s : State) => (s.accessError 3 (tileReg tile 6 0x020), false)
  match s.table t with
  | none => refuse s
  | some d =>
    if !s.sramOk tile off 64 then refuse s
    else
      let y := s.readT0 (sram tile off) 64
      match y.2 with
      | none => took (y.1.tmemError 1 tile 0 4)
      | some bs =>
        let p := PoolDesc.ofWords (leNums 8 8 bs)
        if !y.1.sramOk tile p.off (4 * (p.nbags + 1)) then refuse y.1
        else
          let w := y.1.readT0 (sram tile p.off) (4 * (p.nbags + 1))
          match w.2 with
          | none => took (w.1.tmemError 1 tile 0 4)
          | some os =>
            let offs := leNums 4 (p.nbags + 1) os
            let lo := offs.headD 0
            let hi := offs.getLastD 0
            if !w.1.sramOk tile (p.idx + p.iw * lo) (p.iw * (hi - lo)) then refuse w.1
            else if 4 ≤ (w.1.plansOf tile).length then took (w.1.count (embCnt tile 0x0A8) 1)
            else
              let z := w.1.readT0 (sram tile (p.idx + p.iw * lo)) (p.iw * (hi - lo))
              match z.2 with
              | none => took (z.1.tmemError 1 tile 0 4)
              | some is => took (z.1.runPlan tile t d (leNums p.iw (hi - lo) is) p.wide)

/-- EMB_PLAN. -/
def execEmbPlan (t : TileId) (value : Word) (s : State) : Outcome State Fault Refusal :=
  .next (s.writePlan t value).1

end Sys2Proof.Machine
end

