-- ==== Sys2Proof/Machine/Pool.lean ====
section
/-! DEFINITION. The embedding engine's commands: POOL, SCATTER, UPDATE, VPIN and VUNPIN (R191 to R216, R285, R286). -/
namespace Sys2Proof.Machine

open Host (Outcome)

/-! ### What a command works on -/

/-- A POOL or SCATTER command that has been read: its table, version slot and step, its descriptor, its bag offsets, and
the indices and weights of its positions from the first offset on. -/
structure PoolJob where
  t : TileId
  k : EngCmd
  tab : Nat
  d : TableDesc
  p : PoolDesc
  v : Nat
  n : Nat
  offs : List Nat
  idxs : List Nat
  wgts : List Val
  deriving DecidableEq, Repr

/-- TABLE of a command. -/
def embTable (w : BitVec 128) : Nat := cmdFld w 110 105

/-- VSEL. -/
def embVsel (w : BitVec 128) : Nat := cmdFld w 104 102

/-- Whether a context has pinned a version slot. -/
def State.hasVpin (s : State) (l : Loc) (tab v : Nat) : Bool := decide ((l.tile.val, l.ctx.val, tab, v) ∈ s.vpins)

/-- The step that a command belongs to: the tile's, or the next one when its context issued it after its `done` and before the
tile's boundary (R194). -/
def State.cmdStep (s : State) (t : TileId) (k : EngCmd) : Nat :=
  if s.ownDecision t k then s.stepAt t else s.stepAt t + 1

/-- The slot that a command names. -/
def State.namedSlot (s : State) (k : EngCmd) (n : Nat) : Nat :=
  if embVsel k.word = 0 then s.currentAt (embTable k.word) n else embVsel k.word - 1

/-- Whether the issuing context may read a version slot (R212). -/
def State.slotReadable (s : State) (l : Loc) (tab v n : Nat) : Bool :=
  decide (v = s.currentAt tab n) || (decide (s.slotState tab v ≤ 1) && s.hasVpin l tab v)

/-- Whether the rounding attribute of an UPDATE, its table's URND, is a reserved code (R47). -/
def State.urndBad (s : State) (tab : Nat) : Bool :=
  match s.table tab with
  | some d => (Rnd.ofCode d.urnd).isNone
  | none => false

/-- The rows of R216 that need no descriptor: codes, table, version and phase. -/
def State.embReject (s : State) (t : TileId) (k : EngCmd) (n : Nat) : Option (Nat × Nat) :=
  let op := cmdOp k.word
  let vs := embVsel k.word
  let v := s.namedSlot k n
  let l := k.loc t
  let pinOp := decide (op = 4 ∨ op = 5)
  if op = 0 ∨ 5 < op ∨ 5 ≤ vs ∨ cmdFld k.word 101 32 ≠ 0 ∨ (pinOp ∧ cmdFld k.word 127 111 ≠ 0) ∨ (op = 3 ∧ s.urndBad (embTable k.word)) then some (5, 1)
  else if (s.table (embTable k.word)).isNone then some (5, 2)
  else if (decide (op = 2 ∨ op = 3) && decide (vs ≠ 0)) || (decide (op = 1) && !s.slotReadable l (embTable k.word) v n) ||
     (decide (op = 4) && decide (1 < s.slotState (embTable k.word) v)) ||
     (decide (op = 5) && !s.hasVpin l (embTable k.word) v) then some (5, 3)
  else if decide (op = 2 ∨ op = 3) && !s.learning n then some (5, 4)
  else none

/-- The codes of a descriptor that R192 does not allow. -/
def PoolDesc.codesBad (p : PoolDesc) (scatter : Bool) : Bool :=
  p.resv || decide (4 < p.op) ||
  (if scatter then decide (p.ofmt ≠ 1 ∧ p.ofmt ≠ 2)
   else decide (p.ofmt ≠ 1 ∧ p.ofmt ≠ 2 ∧ p.ofmt ≠ 3 ∧ p.ofmt ≠ 4 ∧ p.ofmt ≠ 9) || (Rnd.ofCode p.rnd).isNone)

/-- Bytes of a staging slot. -/
def TableDesc.stageSlot (d : TableDesc) : Nat := 64 * ceilDiv (16 + d.d * d.width) 64

/-- Offsets do not decrease. -/
def nondecreasing : List Nat → Bool
  | a :: b :: r => decide (a ≤ b) && nondecreasing (b :: r)
  | _ => true

/-- The ranges of a count of strided rows from row `first`; the gaps between them belong to none. -/
def outRanges (base stride len first n : Nat) : List (Nat × Nat) := (List.range n).map (fun i => (base + (first + i) * stride, len))

/-- The ranges that a command reads, the staging area among them, the output rows, and the record. -/
def PoolDesc.inputs (p : PoolDesc) (desc lo hi : Nat) : List (Nat × Nat) :=
  [(desc, 64), (p.idx + p.iw * lo, p.iw * (hi - lo)), (p.off, 4 * (p.nbags + 1)), (p.stage, p.ssize)] ++
  (if p.weighted then [(p.wgt + p.ww * lo, p.ww * (hi - lo))] else [])

/-- The rows at OUT. -/
def PoolDesc.rows (p : PoolDesc) (d : TableDesc) (lo hi : Nat) : List (Nat × Nat) :=
  let len := elemBytes p.ofmt d.d
  if p.op = 0 then outRanges p.out p.ostride len lo (hi - lo) else outRanges p.out p.ostride len 0 p.nbags

/-- The result record. -/
def PoolDesc.record (p : PoolDesc) : List (Nat × Nat) := if p.rrec = 0x1FFFF then [] else [(64 * p.rrec, 64)]

/-- Rows 5 and 6 of R216 once the offsets are read, and R143. -/
def State.poolReject (s : State) (t : TileId) (k : EngCmd) (d : TableDesc) (p : PoolDesc) (desc : Nat)
    (offs : List Nat) (scatter : Bool) : Option (Nat × Nat) :=
  let lo := offs.headD 0
  let hi := offs.getLastD 0
  let ins := p.inputs desc lo hi
  let outs := (if scatter then [] else p.rows d lo hi) ++ p.record
  if decide ((p.op = 2 ∨ p.op = 4) ∧ p.ofmt = 9) || decide (2 ^ 24 < hi - lo) || !nondecreasing offs ||
     decide (p.ssize < d.stageSlot) then some (5, 5)
  else if (p.rows d lo hi ++ ins ++ p.record).any (fun r => !s.sramOk t r.1 r.2) || outs.any (fun o => ins.any (crosses o)) then
    some (5, 6)
  else if !cmdCmt k.word && ((p.stage, p.ssize) :: outs).any (fun o => s.committedTile t o.1 o.2) then some (8, 0)
  else none

/-- A command that met an error at an address while it looked for its rows is accepted and stops (R216). -/
def State.embStopAt (s : State) (t : TileId) (k : EngCmd) (a : Nat) : State :=
  ((s.accept t 4 (Active.of k 0)).stopLast t 4).memError t k.ctx 4 a

/-- A command that met an uncorrectable word while it read its inputs is accepted and stops. -/
def State.embStop (s : State) (t : TileId) (k : EngCmd) (cause : Nat) : State :=
  ((s.accept t 4 (Active.of k 0)).stopLast t 4).tmemError cause t k.ctx 4

/-! ### Rows ready for the step (R194, R195, R228, R233) -/

/-- Classes of a job's positions. -/
def State.classes (s : State) (j : PoolJob) : List IdxClass := j.idxs.map (s.classify j.d j.tab j.v j.n j.p.wide)

/-- The distinct indices that a job's rows are wanted for: those classified valid, and rows of other devices whose image is
not here yet. -/
def State.wanted (s : State) (j : PoolJob) : List Nat :=
  (j.idxs.filter (fun x => match s.classify j.d j.tab j.v j.n j.p.wide x with
    | .valid => true
    | .missing => decide (s.ownerOf j.d x ≠ s.devId)
    | _ => false)).eraseDups

/-- Whether a local row needs no pin: it is of a slot that is not pinned, or of a base camp job, which takes none (R238, R447). -/
def State.pinFree (s : State) (j : PoolJob) : Bool := s.job.baseRun || decide (s.currentAt j.tab j.n ≠ j.v)

/-- Whether a row is ready for a step: pinned, or of a slot that is not pinned, or mirrored here. A row beyond the device waits for the host
link, and one in T1 for the end of base camp (R318, R445). -/
def State.rowReady (s : State) (j : PoolJob) (x : Nat) : Bool :=
  if s.ownerOf j.d x = s.devId then
    (s.pinFree j || (s.findPin j.tab j.v x j.n).isSome) && !s.rowFar j.tab j.v x
  else (s.mirrorRow j.tab j.v x j.n).isSome

/-- Whether a row needs no request of this POOL: it has made one, or a plan of its tile has, which still waits or holds the row. A plan's request
that has gone to another device covers the row once its image is here: the owner may have evicted the pin (R229, R230; log 146). -/
def State.covered (s : State) (j : PoolJob) (x : Nat) : Bool :=
  decide ((j.t.val, j.k.serial, x) ∈ s.emb.poolAsked) ||
  s.emb.plans.any (fun p => decide (p.tile = j.t.val ∧ p.table = j.tab ∧ p.slot = j.v ∧ p.step = j.n ∧ x ∈ p.rows) &&
    ((s.findPin j.tab j.v x j.n).isSome || (s.mirrorRow j.tab j.v x j.n).isSome || s.emb.waiting.any (·.ofPlan p x) || s.emb.asked.any (fun a => a.held && a.ofPlan p x)))

/-- A POOL asks for the pins of its rows that no plan covers, once each; a SCATTER asks for the images alone that are not here (R229). -/
def State.askRows (s : State) (j : PoolJob) (scatter : Bool) (rows : List Nat) : State :=
  (rows.filter (fun x => !s.covered j x &&
    (if s.ownerOf j.d x = s.devId then !scatter && !s.pinFree j else !scatter || (s.mirrorRow j.tab j.v x j.n).isNone))).foldl (fun s x =>
      (s.updEmb (fun e => { e with poolAsked := e.poolAsked ++ [(j.t.val, j.k.serial, x)] })).wantRow j.d j.tab j.v x j.n j.t false) s

/-- Updates of the step before that this device has still to complete for a table: some home tile of it has not passed the
boundary that this tile has passed (R194). -/
def State.updatesLeft (s : State) (d : TableDesc) (n : Nat) : Bool :=
  match s.step.decision with
  | some (dec, m, _) => Decision.advances dec && decide (m < n) &&
      s.stepTiles.any (fun h => decide (d.tbase ≤ h ∧ h < d.tbase + d.nt) && !(s.tile h).passed)
  | none => false

/-! ### The staging area (R195) -/

/-- The staging area in use: the indices in their slots, with the row's bytes, oldest first; the indices fetched so far; and the
slots filled. -/
structure Staging where
  slots : List (Nat × List Byte)
  seen : List Nat
  filled : Nat
  deriving DecidableEq, Repr

/-- The address that a job's row is read at. -/
def State.jobRow (s : State) (j : PoolJob) (x : Nat) : Option Nat :=
  if s.ownerOf j.d x = s.devId then s.rowAt j.tab j.v x
  else (s.mirrorRow j.tab j.v x j.n).map s.mirrorAt

/-- Reads a row into its staging slot; the error is a TMEM cause, or the address of a T1 burst. -/
def State.stageRow (s : State) (j : PoolJob) (g : Staging) (x : Nat) : State × Staging × Except (Nat ⊕ Nat) (List Byte) :=
  match g.slots.find? (fun e => decide (e.1 = x)) with
  | some e => (s, g, .ok e.2)
  | none =>
    let size := j.d.stageSlot
    let cap := j.p.ssize / size
    let a := (s.jobRow j x).getD 0
    let s := s.count (embCnt j.t 0x048) 1
    let s := if x ∈ g.seen then s.count (embCnt j.t 0x050) 1 else s
    let s := if tierOf a = .t2 ∨ tierOf a = .t3 then s.count (embCnt j.t 0x058) 1 else s
    let y := s.readMem a (16 + j.d.d * j.d.width)
    match y.2 with
    | none => (y.1, g, .error (if tierOf a = .t0 then .inl 1 else .inr a))
    | some bs =>
      let z := y.1.writeT0 (sram j.t (j.p.stage + g.filled % cap * size)) bs
      let slots := (if g.slots.length < cap then g.slots else g.slots.tail) ++ [(x, bs)]
      let g := { slots := slots, seen := withOne g.seen x, filled := g.filled + 1 }
      if z.2 then (z.1, g, .ok bs) else (z.1, g, .error (.inl 4))

/-- Stages the rows of a list of positions in order: the row of each valid one, none for a dropped one. -/
def stageAll (j : PoolJob) (s : State) (g : Staging) :
    List (Nat × IdxClass) → State × Except (Nat ⊕ Nat) (List (Option (List Byte)))
  | [] => (s, .ok [])
  | (x, c) :: r =>
    if c = .valid then
      let y := s.stageRow j g x
      match y.2.2 with
      | .error e => (y.1, .error e)
      | .ok bs =>
        let z := stageAll j y.1 y.2.1 r
        (z.1, z.2.map (fun l => some bs :: l))
    else
      let z := stageAll j s g r
      (z.1, z.2.map (fun l => none :: l))

/-- The rows of a job's positions. -/
def State.stageRows (s : State) (j : PoolJob) (cs : List IdxClass) : State × Except (Nat ⊕ Nat) (List (Option (List Byte))) :=
  stageAll j s ⟨[], [], 0⟩ (j.idxs.zip cs)

/-- A memory error stops the command that is accepted last (R216). -/
def State.rowStop (s : State) (t : TileId) (k : EngCmd) (e : Nat ⊕ Nat) : State :=
  let s := s.stopLast t 4
  match e with
  | .inl c => s.tmemError c t k.ctx 4
  | .inr a => s.dmemError t k.ctx 4 a

/-! ### POOL (R196 to R198) -/

/-- The positions of bag b, counted from the job's first offset. -/
def PoolJob.bag (j : PoolJob) (b : Nat) : List Nat :=
  let lo := j.offs.headD 0
  (List.range (j.offs.getD (b + 1) 0 - j.offs.getD b 0)).map (fun i => j.offs.getD b 0 - lo + i)

/-- The output rows as (row number, positions): bags, or single positions under NONE. -/
def PoolJob.outRows (j : PoolJob) : List (Nat × List Nat) :=
  if j.p.op = 0 then (List.range j.idxs.length).map (fun i => (j.offs.headD 0 + i, [i]))
  else (List.range j.p.nbags).map (fun b => (b, j.bag b))

/-- The sum of an element over rows, in bag order, with whether it met an invalid operation. -/
def poolSum (ps : List (Val × Val × Bool)) : Val × Bool :=
  ps.foldl (fun a p =>
    let x := if p.2.2 then mulVal p.1 p.2.1 else p.2.1
    (c36Add a.1 x, a.2 || p.2.1.isSnan || (p.2.2 && (p.1.isSnan || infTimesZero p.1 p.2.1)) || oppositeInf a.1 x))
    (Val.negZero, false)

/-- s / n rounded once (R196). -/
def meanRound (v : Val) (n : Nat) (f : Fmt) (mode : Rnd) (r12 : Nat) (inf : Bool) : Val × AFlags :=
  match v with
  | .fin sg m e => roundRat sg m n e f mode r12 inf
  | v => convertVal v f mode r12 inf

/-- One output element: its encoding and flags. -/
def PoolJob.element (j : PoolJob) (rows : List (Nat × List Byte)) (r12 e : Nat) : Nat × AFlags :=
  let f := elemFmt j.p.ofmt
  let mode := (Rnd.ofCode j.p.rnd).getD .rne
  let vals := rows.map (fun r => (j.wgts.getD r.1 Val.zero, j.d.elem r.2 e, j.p.weighted))
  match vals with
  | [] => (0, .none)
  | v :: _ =>
    let sm := if j.p.op = 0 then (v.2.1, v.2.1.isSnan) else poolSum vals
    if j.p.ofmt = 9 then (encodeVal .c36 sm.1, if sm.2 then .invalid else .none)
    else
      let r := if j.p.op = 2 ∨ j.p.op = 4 then meanRound sm.1 rows.length f mode r12 j.p.ovf
        else convertVal sm.1 f mode r12 j.p.ovf
      (encodeVal f r.1, if sm.2 then r.2.or .invalid else r.2)

/-- The rows of valid positions among some. -/
def validRows (rows : List (Option (List Byte))) (ps : List Nat) : List (Nat × List Byte) :=
  ps.filterMap (fun i => (rows.getD i none).map (fun bs => (i, bs)))

/-- Writes one output row; false when a partial word is uncorrectable. -/
def State.poolRow (s : State) (j : PoolJob) (rows : List (Option (List Byte))) (r : Nat × List Nat) : State × Bool :=
  let g30 := (j.k.ops[2]).toNat
  let keys := s.keys j.t (fld g30 31 0) (fld g30 63 32)
  let vr := validRows rows r.2
  let es := (List.range j.d.d).map (fun e => j.element vr (keys.draw (r.1 * j.d.d + e)) e)
  let y := s.writeT0 (sram j.t (j.p.out + r.1 * j.p.ostride)) (packElems (elemFmt j.p.ofmt).width (es.map (·.1)))
  (y.1.raiseFlags (j.k.loc j.t) (es.map (·.2)), y.2)

/-- Writes output rows until one fails. -/
def poolRows (j : PoolJob) (rows : List (Option (List Byte))) (s : State) : List (Nat × List Nat) → State × Bool
  | [] => (s, true)
  | r :: rest =>
    let y := s.poolRow j rows r
    if y.2 then poolRows j rows y.1 rest else (y.1, false)

/-- The counts of R198: valid, sentinel, out of range, missing, empty bags. -/
def PoolJob.counts (j : PoolJob) (cs : List IdxClass) : List Nat :=
  let n := fun (c : IdxClass) => (cs.filter (fun x => decide (x = c))).length
  let empty := ((List.range j.p.nbags).filter (fun b => (j.bag b).all (fun i => decide (cs.getD i .missing ≠ .valid)))).length
  [n .valid, n .sentinel, n .range, n .missing, empty]

/-- The record of R198. -/
def State.poolRecord (s : State) (j : PoolJob) (cs : List IdxClass) : State × Bool :=
  if j.p.rrec = 0x1FFFF then (s, true)
  else s.writeT0 (sram j.t (64 * j.p.rrec)) (((j.counts cs).map (leBytes 4)).flatten ++ List.replicate 44 0)

/-- The cycles of R215. -/
def PoolJob.cycles (j : PoolJob) (cs : List IdxClass) : Nat :=
  16 + (cs.map (fun c => if c = .valid then max 1 (ceilDiv j.d.d 32) else 1)).sum + j.p.nbags * ceilDiv j.d.d 128

/-- The counters of R218 and R219 that an accepted command advances. -/
def State.poolCounts (s : State) (j : PoolJob) (cs : List IdxClass) (scatter : Bool) : State :=
  let s := s.count (embCnt j.t 0x040) cs.length
  if scatter then s
  else (List.range 4).foldl (fun s c => s.count (embCnt j.t (0x800 + 32 * j.tab + 8 * c)) ((j.counts cs).getD (c + 1) 0)) s

/-- What an accepted POOL does. -/
def State.poolRun (s : State) (j : PoolJob) (cs : List IdxClass) : State :=
  let x := s.stageRows j cs
  match x.2 with
  | .error e => x.1.rowStop j.t j.k e
  | .ok rows =>
    let y := poolRows j rows x.1 j.outRows
    let z := if y.2 then y.1.poolRecord j cs else y
    if z.2 then z.1 else z.1.rowStop j.t j.k (.inl 4)

/-! ### SCATTER (R199, R200) -/

/-- to_fx96 of an exact quotient x / n. -/
def toFx96Over (x : Val) (n : Nat) (lsb : Int) : Int × Bool × Bool :=
  match x with
  | .fin s m e =>
    let q := nearestInt s m n (e - lsb)
    if q > clampMax then (clampMax, false, true) else if q < -clampMax then (-clampMax, false, true) else (q, false, false)
  | _ => (0, true, false)

/-- The contribution of position i with gradient row dy, in a bag of n valid positions. -/
def PoolJob.contrib (j : PoolJob) (dy : List Val) (i n : Nat) : List (Int × Bool × Bool) :=
  let w := j.wgts.getD i Val.zero
  let q := if j.p.op = 2 ∨ j.p.op = 4 then n else 1
  dy.map (fun y => toFx96Over (if j.p.weighted then mulVal w y else y) q j.d.lsbe)

/-- The sums of one index: contributions, element sums, and whether one was non-finite. -/
structure Presum where
  x : Nat
  n : Nat
  nf : Bool
  sums : List Int
  deriving DecidableEq, Repr

/-- Adds a contribution to the sums of its index. -/
def addPresum (l : List Presum) (x : Nat) (c : List (Int × Bool × Bool)) : List Presum :=
  let nf := c.any (fun e => e.2.1)
  let vs := c.map (·.1)
  if l.any (fun p => decide (p.x = x)) then
    l.map (fun p => if p.x = x then { p with n := p.n + 1, nf := p.nf || nf, sums := p.sums.zipWith (· + ·) vs } else p)
  else l ++ [⟨x, 1, nf, vs⟩]

/-- Reads a gradient row. -/
def State.readDy (s : State) (j : PoolJob) (b : Nat) : State × Except Nat (List Val) :=
  let x := s.rdOperand j.t (j.p.out + b * j.p.ostride) 0 j.p.ofmt j.d.d
  (x.1, x.2.map (fun es => es.map (·.1)))

/-- The contributions of every valid position. -/
def PoolJob.contribs (j : PoolJob) (cs : List IdxClass) (dys : List (List Val)) : List (Nat × List (Int × Bool × Bool)) :=
  ((j.outRows.zip dys).map (fun r =>
    let ok := r.1.2.filter (fun i => decide (cs.getD i .missing = .valid))
    ok.map (fun i => (j.idxs.getD i 0, j.contrib r.2 i ok.length)))).flatten

/-- Sends a row update to the row's owner, and with it to the owner's belay partner when the job configures it and the owner is another device
(R200, R305). -/
def State.sendUpdate (s : State) (o : Nat) (q : Nat × Nat) (b : MsgBody) : State :=
  let both := match s.job.img with
    | some i => i.mcUpdates && decide (o ≠ s.devId)
    | none => false
  match both, (s.job.members.find? (fun m => decide (m.id = o))).bind (·.partner) with
  | true, some p => s.sendBoth o p q.1 q.2 b
  | _, _ => s.send o q.1 q.2 b

/-- Sends one row-update message, counted, to the row's owner; its own home tile takes it from the inbox (R200). -/
def State.sendRow (s : State) (j : PoolJob) (p : Presum) : State :=
  let q := s.pairAt (some j.t)
  let o := s.ownerOf j.d p.x
  let hit := fun (e : Nat × Nat × Nat × Nat) => decide (e.1 = j.t.val ∧ e.2.1 = j.tab ∧ e.2.2.1 = o)
  let s := s.updEmb (fun e => { e with
    sent := if e.sent.any hit then e.sent.map (fun x => if hit x then (x.1, x.2.1, x.2.2.1, x.2.2.2 + 1) else x)
      else e.sent ++ [(j.t.val, j.tab, o, 1)] })
  (s.count (embCnt j.t 0x060) 1).sendUpdate o q (.rowUpdate j.tab p.x p.n p.nf p.sums)

/-- What an accepted SCATTER does; a replay sends nothing (R383). -/
def State.scatterRun (s : State) (j : PoolJob) (cs : List IdxClass) : State :=
  let x := s.stageRows j cs
  match x.2 with
  | .error e => x.1.rowStop j.t j.k e
  | .ok _ =>
    let y := mapReads (fun s r => s.readDy j r) x.1 (j.outRows.map (·.1))
    match y.2 with
    | .error c => y.1.rowStop j.t j.k (.inl c)
    | .ok dys =>
      let cbs := j.contribs cs dys
      let all := (cbs.map (·.2)).flatten
      let ps := cbs.foldl (fun l c => addPresum l c.1 c.2) []
      let s := if y.1.replaying (j.k.loc j.t) then y.1
        else
          let s := y.1.updEmb (fun e => { e with
            nonfin := e.nonfin + (all.filter (fun c => c.2.1)).length,
            clamps := e.clamps + (all.filter (fun c => c.2.2)).length })
          ps.foldl (fun s p => s.sendRow j p) s
      let z := s.poolRecord j cs
      if z.2 then z.1 else z.1.rowStop j.t j.k (.inl 4)

/-! ### Acceptance of POOL and SCATTER -/

/-- A job whose descriptor and offsets passed: it reads its indices and weights, waits until its rows are ready, and runs. -/
def State.poolStart (s : State) (t : TileId) (k : EngCmd) (d : TableDesc) (p : PoolDesc) (n : Nat) (offs : List Nat)
    (scatter : Bool) : State :=
  let lo := offs.headD 0
  let cnt := offs.getLastD 0 - lo
  let x := s.rdTile t (p.idx + p.iw * lo) (p.iw * cnt)
  let y : State × Except Nat (List Byte) :=
    if p.weighted then x.1.rdTile t (p.wgt + p.ww * lo) (p.ww * cnt) else (x.1, .ok [])
  match x.2, y.2 with
  | .error c, _ => y.1.embStop t k c
  | _, .error c => y.1.embStop t k c
  | .ok is, .ok ws =>
    let s := y.1
    let wf : Fmt := if p.half then .fs16 else .fp32
    let j : PoolJob := ⟨t, k, embTable k.word, d, p, s.namedSlot k n, n, offs, leNums p.iw cnt is,
      (leNums p.ww cnt ws).map (decodeFmt wf)⟩
    let c := s.checkReads (s.indexReads d j.tab j.v p.wide j.idxs)
    match c.2 with
    | some a => c.1.embStopAt t k a
    | none =>
      let rows := c.1.wanted j
      let s := c.1.askRows j scatter rows
      if rows.any (fun r => !(scatter && decide (s.ownerOf d r = s.devId)) && !s.rowReady j r) then s
      else
        let cs := s.classes j
        let s := ((s.accept t 4 (Active.of k (j.cycles cs))).updEmb (fun e => { e with
          poolAsked := e.poolAsked.filter (fun r => !decide (r.1 = t.val ∧ r.2.1 = k.serial)) })).poolCounts j cs scatter
        if scatter then s.scatterRun j cs else s.poolRun j cs

/-- What the engine does with a POOL or SCATTER at the head of its queue. A descriptor beyond 6 MiB is rejected by row 6 before the rows that
judge its contents (DESIGN CHOICE, log 36). -/
def State.poolWork (t : TileId) (scatter : Bool) (k : EngCmd) (s : State) : State :=
  let n := s.cmdStep t k
  let off := 64 * cmdFld k.word 127 111
  if !((s.tile t).act 4).isEmpty || n ≠ s.stepAt t || (scatter && (s.tile t).passed && s.step.decision.isSome) then s
  else
    let x := s.rdTile t off 64
    let inR := s.sramOk t off 64
    let p := match x.2 with | .ok bs => PoolDesc.ofWords (leNums 8 8 bs) | .error _ => PoolDesc.ofWords []
    let r := s.embReject t k n
    match r, s.table (embTable k.word) with
    | some (c, row), _ => if row ≠ 1 && inR && p.codesBad scatter then s.rejectCmd t 4 k 5 1 else s.rejectCmd t 4 k c row
    | none, none => s.rejectCmd t 4 k 5 2
    | none, some d =>
      if !inR then s.rejectCmd t 4 k 5 6
      else
        match x.2 with
        | .error c => x.1.embStop t k c
        | .ok _ =>
          if p.codesBad scatter then x.1.rejectCmd t 4 k 5 1
          else if !s.sramOk t p.off (4 * (p.nbags + 1)) then x.1.rejectCmd t 4 k 5 6
          else
            let y := x.1.rdTile t p.off (4 * (p.nbags + 1))
            match y.2 with
            | .error c => y.1.embStop t k c
            | .ok os =>
              let offs := leNums 4 (p.nbags + 1) os
              match y.1.poolReject t k d p off offs scatter with
              | some (c, row) => y.1.rejectCmd t 4 k c row
              | none => if y.1.updatesLeft d n then s else y.1.poolStart t k d p n offs scatter

/-- POOL; the row also rejects a reserved operation code at the head of the queue. -/
def execPool (t : TileId) (s : State) : Outcome State Fault Refusal :=
  .next (s.atHead t 4 (fun op => decide (op ≠ 2 ∧ op ≠ 3 ∧ op ≠ 4 ∧ op ≠ 5)) (State.poolWork t false))

/-- SCATTER. -/
def execScatter (t : TileId) (s : State) : Outcome State Fault Refusal :=
  .next (s.atHead t 4 (fun op => decide (op = 2)) (State.poolWork t true))

/-! ### Version pins (R212) -/

/-- What the engine does with a VPIN or VUNPIN at the head of its queue; a replay changes no pin. -/
def State.vpinWork (t : TileId) (add : Bool) (k : EngCmd) (s : State) : State :=
  let n := s.stepAt t
  if !((s.tile t).act 4).isEmpty then s
  else
    match s.embReject t k n with
    | some (c, row) => s.rejectCmd t 4 k c row
    | none =>
      let s' := s.accept t 4 (Active.of k 16)
      let pin := (t.val, k.ctx.val, embTable k.word, s.namedSlot k n)
      if s.replaying (k.loc t) then s'
      else { s' with vpins := if add then s'.vpins ++ [pin] else s'.vpins.erase pin }

/-- VPIN adds a pin of the issuing context. -/
def execVpin (t : TileId) (s : State) : Outcome State Fault Refusal :=
  .next (s.atHead t 4 (fun op => decide (op = 4)) (State.vpinWork t true))

/-- VUNPIN removes one. -/
def execVunpin (t : TileId) (s : State) : Outcome State Fault Refusal :=
  .next (s.atHead t 4 (fun op => decide (op = 5)) (State.vpinWork t false))

/-! ### UPDATE (R206 to R209, R285, R286) -/

/-- Whether a range of a tile's SRAM lies inside one of its commit-input ranges. -/
def State.inCommitInput (s : State) (t off n : Nat) : Bool :=
  match s.sectionOf t with
  | some x => x.commitInputs.any (fun r => inside off n r.1 r.2)
  | none => false

/-- The rows of a table that this device owns and a tile is home to. -/
def State.homeRows (s : State) (d : TableDesc) (t : Nat) : List Nat :=
  (List.range d.nrows).filter (fun x => decide (d.home x = t ∧ s.ownerOf d x = s.devId))

/-- An UPDATE that has been read: its table and slot, the step, its coefficients and column factors. -/
structure UpdateJob where
  t : TileId
  k : EngCmd
  tab : Nat
  d : TableDesc
  v : Nat
  n : Nat
  c : Coef
  cs : Val
  cf : List Val
  deriving DecidableEq, Repr

/-- The cases of R286. -/
def State.updateBad (s : State) (t : TileId) (d : TableDesc) (v off : Nat) (c : Coef) : Bool :=
  c.resv || c.clip.neg? && !c.clip.isZero || !c.clip.isFin || !s.inCommitInput t off 64 ||
  (c.cfen && !s.inCommitInput t (64 * c.cfa) (4 * d.d)) ||
  (c.gsrc && (match s.bufDesc c.gbuf with
    | none => true
    | some b =>
      let rows := s.homeRows d t
      let sh := s.ownShard b
      let at' := fun (x : Nat) => c.goff + x * d.d
      !s.inCommitInput b.tile b.out (4 * b.nelem) || rows.any (fun x => decide (b.nelem < at' x + d.d)) ||
      decide (b.kind = 0 ∧ b.mode = 0) && rows.any (fun x => !inside (at' x) d.d sh.1 sh.2) ||
      d.hash || decide (tierOf (d.vbase.getD v 0) ≠ .t1)))

/-- A message of the cairn in progress, which its SEAL counts. -/
def State.cairnMsg (s : State) (b : BelayBody) : State :=
  match s.partner with
  | some p => ({ s with cairn := { s.cairn with msgs := s.cairn.msgs + 1 } } : State).sendBelay p s.cairn.next b
  | none => s

/-- A row as the export copy holds it: the working format alone, with DIRTY and CPEND clear (R414). -/
def State.exportRow (s : State) (tab v x : Nat) (row : List Byte) : State :=
  let work := match s.table tab with | some d => row.take (if d.res then d.o2 else d.rowSize) | none => row
  s.exportItem (.row tab v x (withHeader work (setFld (headerOf work) 42 41 0)))

/-- A row of the cairn in progress goes to the partner, and to the export copy without its residue (R209, R400, R406, R414). -/
def State.copyRow (s : State) (tab v x : Nat) (row : List Byte) : State :=
  (s.cairnMsg (.rowcopy tab v x row)).exportRow tab v x row

/-- Whether a table is gathered (R407). -/
def State.gathered (s : State) (tab : Nat) : Bool := bitOf (s.reg rGather).toNat tab

/-- Bytes of a gathered row that its owner's update sends every member: header and vector (R407). -/
def TableDesc.shared (d : TableDesc) : Nat := 16 + d.d * d.width

/-- Sends one body to each of a list of devices, two at a time (R305, R407). -/
def State.sendPairs (s : State) (step att : Nat) (b : MsgBody) : List Nat → State
  | d :: e :: r => (s.sendBoth d e step att b).sendPairs step att b r
  | [d] => s.send d step att b
  | [] => s

/-- A gathered row goes to the other members: header and vector in a body of a whole row, and all of the row to the partner in the commit of the
step before a cairn, which its export copy holds too (R400, R407, R414). -/
def State.gatherRow (s : State) (d : TableDesc) (tab v x n : Nat) (row : List Byte) : State :=
  let whole := decide (0 < s.cairn.st ∧ s.cairn.next = n + 1)
  let part := row.take d.shared ++ List.replicate (row.length - d.shared) 0
  let s := s.sendPairs n 0 (.belay (.gather tab v x part)) (s.others.filter (fun o => !(whole && decide (s.partner = some o))))
  if whole then
    match s.partner with
    | some p => (s.sendBelay p n (.gather tab v x row)).exportRow tab v x row
    | none => s.exportRow tab v x row
  else s

/-- Writes a row's new image, with what follows from it: the pre-image of a pending copy, the dirty list, the digest, a gathered
table's messages (R206, R405, R407, R416). -/
def State.writeRow (s : State) (j : UpdateJob) (x a : Nat) (old new : List Byte) : State × Bool :=
  let s := if rowCpend old then (s.copyRow j.tab j.v x old).count (hubReg 8 0x070) 1 else s
  let y := s.writeMem a new
  if !y.2 then y
  else
    let s := y.1
    let s := if rowDirty old || s.gathered j.tab then s
      else { s with cairn := { s.cairn with dirty := s.cairn.dirty ++ [⟨j.t, j.tab, j.v, x⟩] } }
    let s := s.hashChange (rowItem j.tab j.v x old) (rowItem j.tab j.v x new)
    let s := if s.gathered j.tab then s.gatherRow j.d j.tab j.v x j.n new else s
    (s.count (embCnt j.t 0x078) 1, true)

/-- NORMSQ of the step being committed. -/
def State.normSq (s : State) : Nat :=
  let sq := match s.step.jobRec, s.step.commit with
    | some r, _ => r.squares
    | none, some k => k.job.squares
    | none, none => 0
  fxTo .fp64 sq (s.redHeader).1

/-- Updates one row with its gradient: skipped when its VER says that it is done (R208). False when an error stops it. -/
def State.updateOne (s : State) (j : UpdateJob) (x : Nat) (g : List Val) : State × Bool :=
  let c := s.checkReads (s.lookupReads j.d j.tab j.v x)
  match c.2, c.1.rowAt j.tab j.v x with
  | some a, _ => (c.1.rowStop j.t j.k (if tierOf a = .t0 then .inl 1 else .inr a), false)
  | none, none => (c.1, true)
  | none, some a =>
    let y := c.1.readMem a j.d.stride
    match y.2 with
    | none => ((y.1.rowStop j.t j.k (if tierOf a = .t0 then .inl 1 else .inr a)), false)
    | some row =>
      if rowVer row = (j.n + 1) % 2 ^ 40 ∨ (j.c.gsrc = true ∧ rowLive row = false) then (y.1, true)
      else
        let fa := y.1.draw
        let fb := fa.2.draw
        let r := updateRow j.d.opt j.c j.cs j.cf (j.d.rowVals row) g
        let step := (s.reg (rTileStep j.t)).toNat
        let e := j.d.encodeRow row r.1 (j.n + 1) (rowDraw s.job.seed step j.tab x)
          (v32 (fa.1.toNat % 2 ^ 32)) (v32 (fb.1.toNat % 2 ^ 32))
        let z := (fb.2.raiseFlags (j.k.loc j.t) (clipFlags j.c.clip s.normSq :: r.2 ++ e.2)).writeRow j x a row e.1
        if z.2 then z else (z.1.rowStop j.t j.k (.inl 4), false)

/-- Updates a list of rows until an error stops the command. -/
def updateAll (j : UpdateJob) (s : State) : List (Nat × List Val) → State
  | [] => s.updEmb (fun e => { e with
      accs := e.accs.filter (fun a => !decide (a.tile = j.t.val ∧ a.table = j.tab)),
      grads := e.grads.filter (fun a => !decide (a.tile = j.t.val ∧ a.table = j.tab)) })
  | (x, g) :: r =>
    let y := s.updateOne j x g
    if y.2 then updateAll j y.1 r else y.1

/-- The rows of an UPDATE with their gradients; the error is a TMEM cause, or the address of a T1 burst. Gradients wait where the
accumulators stood (R202). -/
def State.updateRows (s : State) (j : UpdateJob) : State × Except (Nat ⊕ Nat) (List (Nat × List Val)) :=
  if !j.c.gsrc then
    let y := s.checkReads (s.accReads j.t)
    match y.2 with
    | some a => (y.1, .error (if tierOf a = .t0 then .inl 1 else .inr a))
    | none => (y.1, .ok ((s.emb.grads.filter (fun g => decide (g.tile = j.t.val ∧ g.table = j.tab))).map (fun g => (g.index, g.vals.map v32))))
  else
    match s.bufDesc j.c.gbuf with
    | none => (s, .ok [])
    | some b =>
      let z := mapReads (fun s x =>
        let y := s.rdTile b.tile (b.out + 4 * (j.c.goff + x * j.d.d)) (4 * j.d.d)
        (y.1, y.2.map (fun bs => (x, (leNums 4 j.d.d bs).map v32)))) s (s.homeRows j.d j.t)
      (z.1, z.2.mapError .inl)

/-- The column factors. -/
def State.colFactors (s : State) (t : TileId) (d : TableDesc) (c : Coef) : State × Except Nat (List Val) :=
  if c.cfen then
    let y := s.rdTile t (64 * c.cfa) (4 * d.d)
    (y.1, y.2.map (fun bs => (leNums 4 d.d bs).map v32))
  else (s, .ok [])

/-- An UPDATE that passed its checks runs. -/
def State.updateRun (s : State) (t : TileId) (k : EngCmd) (d : TableDesc) (v n : Nat) (c : Coef) : State :=
  let s := s.accept t 4 (Active.of k 16)
  let x := s.colFactors t d c
  match x.2 with
  | .error e => x.1.rowStop t k (.inl e)
  | .ok cf =>
    let j : UpdateJob := ⟨t, k, embTable k.word, d, v, n, c, clipScale c.clip s.normSq, cf⟩
    let y := x.1.updateRows j
    match y.2 with
    | .error e => y.1.rowStop t k e
    | .ok rows => updateAll j y.1 rows

/-- What the engine does with an UPDATE at the head of its queue. -/
def State.updateWork (t : TileId) (k : EngCmd) (s : State) : State :=
  let n := s.stepAt t
  let off := 64 * cmdFld k.word 127 111
  let tab := embTable k.word
  if !((s.tile t).act 4).isEmpty then s
  else
    match s.embReject t k n, s.table tab with
    | some (c, row), _ => s.rejectCmd t 4 k c row
    | none, none => s.rejectCmd t 4 k 5 2
    | none, some d =>
      if !s.sramOk t off 64 then s.rejectCmd t 4 k 5 6
      else
        let x := s.rdTile t off 64
        match x.2 with
        | .error c => x.1.embStop t k c
        | .ok bs =>
          let c := Coef.ofWords (leNums 8 8 bs)
          let v := s.currentAt tab n
          if c.cfen && !s.sramOk t (64 * c.cfa) (4 * d.d) then x.1.rejectCmd t 4 k 5 6
          else if !cmdCmt k.word then x.1.rejectCmd t 4 k 8 0
          else if s.updateBad t d v off c then x.1.rejectCmd t 4 k 5 8
          else x.1.updateRun t k d v n c

/-- UPDATE. -/
def execUpdate (t : TileId) (s : State) : Outcome State Fault Refusal :=
  .next (s.atHead t 4 (fun op => decide (op = 3)) (State.updateWork t))

end Sys2Proof.Machine
end

