-- ==== Sys2Proof/Machine/Cairn.lean ====
section
/-! DEFINITION. Cairns, the belay store, fills and rollbacks (R399 to R421). -/
namespace Sys2Proof.Machine

open Host (Outcome)

/-! ### Cairn state -/

/-- Changes the cairn machinery. -/
def State.updCairn (s : State) (f : CairnState → CairnState) : State := { s with cairn := f s.cairn }

/-- Changes the belay store. -/
def State.updBelay (s : State) (f : BelayState → BelayState) : State := { s with belay := f s.belay }

/-- Sends a BELAY message to the partner, if there is one. -/
def State.toPartner (s : State) (step : Nat) (b : BelayBody) : State :=
  match s.partner with
  | some p => s.sendBelay p step b
  | none => s

/-! ### Cadence (R410) -/

/-- M of R410 in aon cycles, as numerator and denominator. -/
def State.mtbf (s : State) : Nat × Nat :=
  let own := s.aon.toNat
  let k := 1 + (s.reg (hubReg 4 0x080)).toNat
  let job := wfld (s.reg rMtbf) 31 0 * 25000000
  if job = 0 then (own, k) else (job * own, job * k + own)

/-- The interval to the next cairn in steps. -/
def State.interval (s : State) : Nat :=
  match s.cairn.cost with
  | none => 1000
  | some k =>
    let m := s.mtbf
    let n := s.cairn.times.length
    let sum := s.cairn.times.sum
    if sum = 0 then 1000
    else
      let r := (isqrt (8 * k * m.1 * n * n / (m.2 * sum * sum)) + 1) / 2
      max 10 (min 10000 r)

/-- The first boundary at or after step c that ends a learning step (R401). -/
def State.cairnFrom (s : State) (c : Nat) : Nat :=
  let period := match s.job.img.bind (·.phase) with | some (g, l) => g + l | none => 1
  match (List.range (period + 1)).find? (fun i => decide (0 < c + i) && s.learning (c + i - 1)) with
  | some i => c + i
  | none => c

/-- The earliest boundary that the leader can still call: it has decided no step before it. -/
def State.earliest (s : State) : Nat :=
  match s.step.decision with
  | some (d, n, _) => if Decision.advances d then n + 2 else n + 1
  | none => s.step.no + 1

/-! ### The call (R403) -/

/-- What a belay store keeps of its wards when a cairn above c is abandoned: the newest complete cairn, the records, and the rows that a
VREADY has streamed, which are of slots other than the current one (R409, R415). -/
def State.withoutOpen (s : State) (c : Nat) : List BelayRec :=
  s.belay.store.filterMap (fun e => match e.item with
    | .record _ => some e
    | .row t v _ _ =>
      if e.cairn ≤ c then some e
      else if v = ((s.cairn.slotsC.get (fun _ => [0, 3, 3, 3]) t).findIdx (· = 0)) then none else some { e with cairn := c }
    | _ => if e.cairn ≤ c then some e else none)

/-- The cairn in progress, if any, is abandoned with what this device holds of its wards' (R409); one that an ASK wanted is still wanted. -/
def State.abandonCairn (s : State) : State :=
  let c := s.cairn.lastC
  (s.updBelay (fun b => { b with store := s.withoutOpen c, got := b.got.filter (fun e => decide (e.2.1 ≤ c)), expOpen := [] })).updCairn
    (fun k => { k with next := 0, st := 0, acks := [], dones := [], frozen := [], listed := [], copied := [], msgs := 0,
                       early := k.early || (s.findDeferral 7 none).isSome })

/-- A member learns of cairn c: it records the call and answers. -/
def State.takeCall (s : State) (c : Nat) : State :=
  if s.job.baseRun then s else
  let early := s.cairn.early
  let s := ((s.abandonCairn).record 5 0 0 c 0 [0]).updCairn (fun k => { k with
    next := c, st := 1, sealAsked := false, sealed := false, exported := false, early := early })
  if s.leader = s.devId then (s.updCairn (fun k => { k with acks := withOne k.acks s.devId })).leaderDecide
  else s.sendBelay s.leader c .callack

/-- Whether the leader calls now: by ASK, or two steps ahead of the cadence's boundary; and the boundary. -/
def State.dueCairn (s : State) : Option Nat :=
  let want := s.cairn.lastC + s.interval
  let e := s.earliest
  if s.leader ≠ s.devId ∨ s.job.st ≠ .running ∨ s.job.baseRun = true ∨ s.cairn.next ≠ 0 ∨ s.cairn.st ≠ 0 ∨ s.step.halted.isSome then none
  else if s.cairn.early then some (s.cairnFrom e)
  else if want ≤ e + 1 then some (s.cairnFrom (max want e))
  else none

/-- CAIRN_CALL_ISSUE: CALL to every member; an early call counts (R403, R410, R411). -/
def execCairnCallIssue (s : State) : Outcome State Fault Refusal :=
  .next (match s.dueCairn with
    | none => s
    | some c =>
      let s := if s.cairn.early then (s.count (hubReg 8 0x068) 1).updCairn (fun k => { k with early := false }) else s
      (s.others.foldl (fun s d => s.sendBelay d c .call) s).takeCall c)

/-- A BELAY message in the inbox, taken and acted on, unless writes stop (R32); one that comes before this device's START waits for it. -/
def State.atBelay (s : State) (m : Msg) (act : State → State) : State :=
  if decide (m ∈ s.inbox ∧ s.job.st = .running) && !s.writesStop then act (s.takeMsg m) else s

/-- CALLACK at the leader, which may now decide step C − 1. -/
def execCallack (m : Msg) (s : State) : Outcome State Fault Refusal :=
  .next (match m.body with
    | .belay .callack => s.atBelay m (fun s =>
        if m.step = s.cairn.next then (s.updCairn (fun k => { k with acks := withOne k.acks m.src })).leaderDecide else s)
    | _ => s)

/-- ASK at the leader: a cairn at the earliest boundary, and an RTBFULL deferral (R411). -/
def execAsk (m : Msg) (s : State) : Outcome State Fault Refusal :=
  .next (match m.body with
    | .belay .ask => s.atBelay m (fun s => (s.updCairn (fun k => { k with early := true })).ensureDeferral 7 2 0x10 noUnit 0)
    | _ => s)

/-! ### Marking and copying (R404 to R406) -/

/-- The addresses of a row's images: its location, and its replica. -/
def State.imagesOf (s : State) (r : DirtyRow) : List Nat :=
  (s.rowLoc r.table r.slot r.index).toList ++ (s.hotRow r.tile r.table r.slot r.index).toList

/-- Sets DIRTY and CPEND of every image of a row. -/
def State.markRow (s : State) (r : DirtyRow) (cpend dirty : Bool) : State :=
  let c := match s.table r.table with
    | some d => s.checkReads (s.imageReads d r.table r.slot r.index)
    | none => (s, none)
  match c.2 with
  | some b => c.1.memError r.tile 0 4 b
  | none => (c.1.imagesOf r).foldl (fun s a =>
      let y := s.readMem a 16
      match y.2 with
      | some hd => y.1.storeMem r.tile a (leBytes 16 (setFld (leVal hd) 42 41 ((if cpend then 2 else 0) + if dirty then 1 else 0)))
      | none => y.1.memError r.tile 0 4 a) c.1

/-- The bytes of a row as they are now. -/
def State.rowBytes (s : State) (r : DirtyRow) : State × Option (List Byte) :=
  match s.table r.table with
  | none => (s, none)
  | some d =>
    let c := s.checkReads (s.lookupReads d r.table r.slot r.index)
    match c.2, c.1.rowAt r.table r.slot r.index with
    | some a, _ => (c.1.memError r.tile 0 4 a, none)
    | none, none => (c.1, none)
    | none, some a =>
      let y := c.1.readMem a d.stride
      match y.2 with
      | some bs => (y.1, some bs)
      | none => (y.1.memError r.tile 0 4 a, none)

/-- Whether a row is live, by its checked header; one that cannot be read is an error of its home tile. -/
def State.liveRow (s : State) (d : TableDesc) (r : DirtyRow) : State × Bool :=
  let c := s.checkReads (s.lookupReads d r.table r.slot r.index)
  match c.2, c.1.rowAt r.table r.slot r.index with
  | some b, _ => (c.1.memError r.tile 0 4 b, false)
  | none, none => (c.1, false)
  | none, some a =>
    let y := c.1.readMem a 16
    match y.2 with
    | some hd => (y.1, bitOf (leVal hd) 40)
    | none => (y.1.memError r.tile 0 4 a, false)

/-- The rows of a full cairn of a home tile: every row of a CURRENT slot whose LIVE bit is 1, which this device owns. -/
def State.liveRows (s : State) (h : Nat) : State × List DirtyRow :=
  (List.range s.nTables).foldl (fun p t => match s.table t with
    | none => p
    | some d =>
      (s.homeRows d h).foldl (fun (p : State × List DirtyRow) x =>
        let r : DirtyRow := ⟨h, t, s.currentNow t, x⟩
        let y := p.1.liveRow d r
        (y.1, if y.2 then p.2 ++ [r] else p.2)) p) (s, [])

/-- The marking pass of a home tile: its dirty list becomes the cairn list; a row in T2 or T3 goes at once, and so do, in a full cairn, the rows of
gathered tables, which join no list (R407; log 166). -/
def State.markTile (s : State) (h : Nat) : State :=
  let l := if s.cairn.full then s.liveRows h else (s, s.cairn.dirty.filter (fun r => decide (r.tile = h)))
  let s := l.1
  let rows := l.2
  let far := fun (r : DirtyRow) => match s.rowLoc r.table r.slot r.index with
    | some a => decide (tierOf a = .t2 ∨ tierOf a = .t3)
    | none => false
  let s := s.updCairn (fun k => { k with
    st := 2, dirty := k.dirty.filter (fun r => decide (r.tile ≠ h)),
    frozen := k.frozen ++ rows.filter (fun r => !far r && !s.gathered r.table),
    listed := k.listed ++ rows.filter (fun r => !s.gathered r.table), copied := withOne k.copied h })
  rows.foldl (fun s r =>
    if s.gathered r.table then
      let y := s.rowBytes r
      match y.2 with
      | some bs => y.1.copyRow r.table r.slot r.index bs
      | none => y.1
    else if far r then
      let y := s.rowBytes r
      match y.2 with
      | some bs => (y.1.copyRow r.table r.slot r.index bs).markRow r false false
      | none => y.1
    else s.markRow r true false) s

/-- Sends the shadows of every tile, at most 4,096 bytes to a message (R408). -/
def State.sendShadows (s : State) : State :=
  match s.job.img with
  | none => s
  | some i => i.sections.foldl (fun s x => (s.shadowRanges x).foldl (fun s r =>
      (List.range (ceilDiv r.2 4096)).foldl (fun s j =>
        let off := r.1 + 4096 * j
        let n := min 4096 (r.2 - 4096 * j)
        let bs := (List.range n).map (fun b => s.book.shadow.get (fun _ => 0) (sram x.tile (off + b)))
        (s.cairnMsg (.shadow x.tile off bs 0)).exportItem (.shadow x.tile off bs)) s) s) s

/-- This device's part is complete: it tells the leader (R408). -/
def State.sendDone (s : State) : State :=
  let c := s.cairn.next
  let s := s.updCairn (fun k => { k with st := 4, sealed := true })
  s.sendBelay s.leader c .done

/-- Whether a record is kept when cairn c completes: later steps, outcomes and the commit set, and the last two decisions. -/
def keptRecord (c : Nat) (last2 : List RtbRec) (r : RtbRec) : Bool :=
  decide (c ≤ r.step ∨ r.type = 8 ∨ r.type = 9) || decide (r ∈ last2)

/-- Frees a list's records of steps before cairn c. -/
def freeRecords (c : Nat) (l : List RtbRec) : List RtbRec :=
  let decs := l.filter (fun r => decide (r.type = 4))
  l.filter (keptRecord c (decs.drop (decs.length - 2)))

/-- An item as bytes: its fields as a BELAY message has them, and its body. -/
def BelayItem.bytes : BelayItem → List Byte
  | .row t v x bs => leBytes 16 (belayRow t v x) ++ bs
  | .shadow t o bs => leBytes 16 (belayShadow t o) ++ bs
  | .record r => r.bytes

/-- The export copy of cairn c is sealed: the rows and shadows of the copy before it that the cairn has not changed, with those that it has, in the
slot of the copy before that (R414). The records that the older of the two still needs stay. -/
def State.sealExport (s : State) (c : Nat) : State :=
  if !s.exporting then s.updBelay (fun b => { b with expOpen := [] })
  else
    let a := s.exportAddr
    let mine := s.belay.expSlots.filter (fun k => decide (k.addr = a ∧ k.cairn < c))
    let last := mine.drop (mine.length - 1)
    let open' := s.belay.expOpen
    let base := (last.flatMap (·.items)).filter (fun i => (match i with | .record _ => false | _ => true) && !open'.any i.same)
    let items := base ++ open'
    let oldest := (last.map (·.cairn)).headD c
    let recs := freeRecords oldest ((s.belay.expBook.filter (fun e => decide (e.1 = a))).map (·.2))
    s.updBelay (fun b => { b with
      expOpen := [],
      expSlots := b.expSlots.filter (fun k => decide (k.addr ≠ a)) ++ last ++ [⟨a, c, crc32c (items.flatMap BelayItem.bytes), items⟩],
      expBook := b.expBook.filter (fun e => decide (e.1 ≠ a)) ++ recs.map (fun r => (a, r)) })

/-- Every list has ended: the export copy gets its seal, once the host link serves T2 and every FEED has come, and the partner is asked to seal;
without a partner the part is complete (R399, R408, R414). -/
def State.maybeSeal (s : State) : State :=
  if s.cairn.st ≠ 3 || s.cairn.sealAsked || !s.cairn.frozen.isEmpty || (s.exporting && (!s.hostUp || !s.fedAll)) then s
  else
    let c := s.cairn.next
    let s := (s.updCairn (fun k => { k with sealAsked := true, exported := true })).sealExport c
    match s.partner with
    | some p => s.sendBelay p c (.sealOf s.cairn.msgs)
    | none => s.sendDone

/-- What the cairn holds beside rows and shadows, as a record of it says: SKIPRUN, the digest, and every table's version slot states and base
pointers (R401, R416). -/
def State.cairnWords (s : State) : List Nat :=
  [1, s.step.skipRun, s.book.digest] ++ (List.range s.nTables).flatMap (fun t =>
    ((List.range 4).map (fun v => (s.slotStates t).getD v 3 * 4 ^ v)).sum ::
    (List.range 4).map (fun v => (match s.table t with | some d => d.vbase | none => []).getD v 0))

/-- The version slot states in such a record. -/
def slotsOfWords (n : Nat) (w : List Nat) : SMap (List Nat) :=
  (List.range n).foldl (fun m t =>
    let x := w.getD (3 + 5 * t) 0xFC
    m.put (fun _ => [0, 3, 3, 3]) t ((List.range 4).map (fun v => x / 4 ^ v % 4))) []

/-- The record of what cairn c holds beside rows and shadows, in a route book. -/
def cairnRecord (l : List RtbRec) (c : Nat) : Option (List Nat) :=
  ((l.filter (fun r => decide (r.type = 5 ∧ r.step = c ∧ r.body.headD 0 = 1))).getLast?).map (·.body)

/-- Takes what a record says of the newest complete cairn. -/
def State.takeCairn (s : State) (l : List RtbRec) : State :=
  match cairnRecord l s.cairn.lastC with
  | some w => s.updCairn (fun k => { k with slotsC := slotsOfWords s.nTables w, skipC := w.getD 1 0, dC := w.getD 2 0 })
  | none => s

/-- Every home tile has passed the cairn's boundary: tiles without a step mark their rows now, what is neither row nor shadow is recorded, the
shadows go, and copying begins. -/
def State.startCopies (s : State) : State :=
  let s := allTiles.foldl (fun s h => if h ∈ s.cairn.copied then s else s.markTile h) s
  let c := s.cairn.next
  let w := s.cairnWords
  let s := s.updCairn (fun k => { k with st := 3, full := false, dAt := s.book.digest, slotsAt := s.emb.slots, skipAt := s.step.skipRun })
  (((s.record 5 0 0 c 0 w).exportItem (.record ⟨5, 0, 0, c, 0, w⟩)).sendShadows).maybeSeal

/-- The next row of a tile's cairn list (R406). -/
def State.copyNext (s : State) (t : Nat) : State :=
  match s.cairn.frozen.find? (fun r => decide (r.tile = t)) with
  | none => s
  | some r =>
    let y := s.rowBytes r
    match y.2 with
    | none => y.1
    | some row =>
      let s := y.1.updCairn (fun k => { k with frozen := k.frozen.erase r })
      let s := if rowCpend row then (s.copyRow r.table r.slot r.index row).markRow r false (rowDirty row) else s
      s.maybeSeal

/-- CAIRN_ROW_COPY; it waits while writes stop (R357). -/
def execCairnRowCopy (t : TileId) (s : State) : Outcome State Fault Refusal :=
  .next (if decide (s.cairn.st = 2 ∨ s.cairn.st = 3) && !s.writesStop then s.copyNext t else s)

/-! ### The belay store (R412, R413) -/

/-- Bytes of an item. -/
def BelayItem.size : BelayItem → Nat
  | .row _ _ _ bs => bs.length
  | .shadow _ _ bs => bs.length
  | .record r => recSize r

/-- An entry of a dirty list as the reserve holds it (R405). -/
def DirtyRow.word (r : DirtyRow) : Nat := r.table % 64 * 2 ^ 58 + r.slot % 4 * 2 ^ 56 + r.index % 2 ^ 40

/-- The bytes of the home tiles' dirty and cairn lists in the reserve (R405). -/
def State.listBytes (s : State) : List Byte := (s.cairn.dirty ++ s.cairn.listed).flatMap (fun r => leBytes 8 r.word)

/-- The bytes that the tiles' shadows take in the reserve (R402). -/
def State.shadowSize (s : State) : Nat :=
  match s.job.img with
  | none => 0
  | some i => (i.sections.map (fun x => ((s.shadowRanges x).map (·.2)).sum)).sum

/-- The room of the store: the part of the staging reserve that the route book, the lists and the shadows leave, the T1 area and the spill area
(R402, R405, R412). -/
def State.belayRoom (s : State) : Nat :=
  ((s.stage).2 - s.bookShare - (s.listBytes).length - s.shadowSize) + unit16M * wfld (s.reg (hubReg 9 0x010)) 15 0 + 2 ^ 30 * wfld (s.reg (hubReg 9 0x020)) 31 0

/-- An entry of a class that R373 does not give: its CLASS and CAUSE are free values (log 28). -/
def State.unclassed (s : State) (d5 : Nat) : State :=
  let w := s.draw
  w.2.logEntry ⟨0, wfld w.1 3 0, wfld w.1 11 4, 2, 0, 0, 0, 0, 0, 0, noUnit, 0, 0xF, d5, 0, 0⟩

/-- Stores an item of a ward's cairn, replacing a duplicate; a full store keeps nothing and records a RESOURCE error, whose class
and cause R373 does not give (log 28). -/
def State.keepItem (s : State) (ward c : Nat) (i : BelayItem) : State :=
  let rest := s.belay.store.filter (fun e => !(decide (e.ward = ward ∧ e.cairn = c) && e.item.same i))
  if s.belayRoom < (rest.map (fun e => e.item.size)).sum + i.size then
    s.unclassed ward
  else s.updBelay (fun b => { b with store := rest ++ [⟨ward, c, i⟩] })

/-- Stores an item of a cairn that its SEAL counts. -/
def State.storeCounted (s : State) (ward c : Nat) (i : BelayItem) : State :=
  let n := s.belay.store
  let s := s.keepItem ward c i
  if s.belay.store = n ∧ ⟨ward, c, i⟩ ∉ n then s
  else
    let hit := fun (e : Nat × Nat × Nat) => decide (e.1 = ward ∧ e.2.1 = c)
    s.updBelay (fun b => { b with
      got := if b.got.any hit then b.got.map (fun e => if hit e then (e.1, e.2.1, e.2.2 + 1) else e) else b.got ++ [(ward, c, 1)] })

/-- ROWCOPY of a ward. -/
def execRowcopy (m : Msg) (s : State) : Outcome State Fault Refusal :=
  .next (match m.body with
    | .belay (.rowcopy t v x row) => s.atBelay m (fun s => if m.src ∈ s.wards then s.storeCounted m.src m.step (.row t v x row) else s)
    | _ => s)

/-- A shadow's bytes. -/
def State.fillShadow (s : State) (t off : Nat) (bs : List Byte) : State :=
  { s with book := { s.book with shadow := (List.range bs.length).foldl (fun m i =>
      SMap.put (fun _ => 0) m (sram t (off + i)) (bs.getD i 0)) s.book.shadow } }

/-- SHADOW: of a ward's cairn, or of a fill of this device. -/
def execShadow (m : Msg) (s : State) : Outcome State Fault Refusal :=
  .next (match m.body with
    | .belay (.shadow t o bs n) => s.atBelay m (fun s =>
        if n ≠ 0 then (if s.belay.fill ≠ 0 ∧ s.partner = some m.src then s.fillShadow t o bs else s)
        else if m.src ∈ s.wards then s.storeCounted m.src m.step (.shadow t o bs) else s)
    | _ => s)

/-- Whether a fill brings the route book back: a START's, and that of a reset that has lost it (R417). -/
def State.fillsBook (s : State) : Bool := decide (s.belay.fill = 2 ∨ (s.belay.fill = 3 ∧ 2 ∈ s.rst.bad))

/-- RTBREC: of a ward, held beside its cairn, or of a fill of this device. -/
def execRtbrec (m : Msg) (s : State) : Outcome State Fault Refusal :=
  .next (match m.body with
    | .belay (.rtbrec r n) => s.atBelay m (fun s =>
        if n ≠ 0 then (if s.fillsBook && decide (s.partner = some m.src) then { s with book := { s.book with recs := s.book.recs ++ [r] } } else s)
        else if m.src ∈ s.wards then s.keepItem m.src r.step (.record r) else s)
    | _ => s)

/-- The messages of a ward's cairn that this device has stored. -/
def State.stored (s : State) (ward c : Nat) : Nat :=
  match s.belay.got.find? (fun e => decide (e.1 = ward ∧ e.2.1 = c)) with
  | some e => e.2.2
  | none => 0

/-- SEAL is answered once every message that it counts is stored (R408). -/
def execBelaySeal (m : Msg) (s : State) : Outcome State Fault Refusal :=
  .next (match m.body with
    | .belay (.sealOf n) =>
      if n ≤ s.stored m.src m.step then s.atBelay m (fun s => s.sendBelay m.src m.step (.sealedOf n)) else s
    | _ => s)

/-- SEALED: the device's part is complete; a VREADY that waits for its rows completes (R408, R415). -/
def execBelaySealed (m : Msg) (s : State) : Outcome State Fault Refusal :=
  .next (match m.body with
    | .belay (.sealedOf n) => s.atBelay m (fun s =>
        let s := match s.job.readyReq with
          | some (q, tag, c, k, t, v) =>
            if m.step = c ∧ k ≤ n then (({ s with job := { s.job with readyReq := none } } : State).setSlotState t v 1).hostDone q tag 0 0 else s
          | none => s
        if m.step = s.cairn.next ∧ s.cairn.st = 3 ∧ s.cairn.sealAsked = true ∧ n = s.cairn.msgs then s.sendDone else s)
    | _ => s)

/-! ### Completion (R408) -/

/-- The belay store of wards after cairn c completes: one item of each row, the newest of c or before, beside later ones. -/
def settleStore (c : Nat) (st : List BelayRec) : List BelayRec :=
  let recs := st.filterMap (fun e => match e.item with | .record r => some (e.ward, r) | _ => none)
  let keep := (recs.map (·.1)).eraseDups.map (fun w => (w, freeRecords c ((recs.filter (fun p => decide (p.1 = w))).map (·.2))))
  st.filter (fun e => match e.item with
    | .record r => keep.any (fun k => decide (k.1 = e.ward ∧ r ∈ k.2))
    | i => !(decide (e.cairn < c) && st.any (fun f => decide (f.ward = e.ward ∧ e.cairn < f.cairn ∧ f.cairn ≤ c) && f.item.same i)))

/-- Cairn c is complete on this device. The digest counts from it on; a recorded one says from which cairn it counts (R416). -/
def State.completeCairn (s : State) (c : Nat) : State :=
  let d := s.cairn.dAt
  let s := { s with book := { s.book with recs := freeRecords c s.book.recs, full := false, held := [], asked := false,
                                          digest := s.book.digest ^^^ d } }
  let s := s.updCairn (fun k => { k with
    lastC := c, next := 0, st := 0, frozen := [], listed := [], slotsC := k.slotsAt, skipC := k.skipAt, dC := d, msgsC := k.msgs, ended := true })
  let s := s.updBelay (fun b => { b with store := settleStore c b.store })
  ((s.count (hubReg 8 0x060) 1).closeDeferral 7 none).bookCheck

/-- BELAY DONE at the leader: with every member's, COMPLETE goes to all. -/
def execBelayDone (m : Msg) (s : State) : Outcome State Fault Refusal :=
  .next (match m.body with
    | .belay .done => s.atBelay m (fun s =>
        if m.step ≠ s.cairn.next ∨ s.leader ≠ s.devId then s
        else
          let s := s.updCairn (fun k => { k with dones := withOne k.dones m.src })
          if s.memberIds.all (fun d => decide (d ∈ s.cairn.dones)) then
            (s.others.foldl (fun s d => s.sendBelay d m.step .complete) s).completeCairn m.step
          else s)
    | _ => s)

/-- BELAY COMPLETE at a member. -/
def execBelayComplete (m : Msg) (s : State) : Outcome State Fault Refusal :=
  .next (match m.body with
    | .belay .complete => s.atBelay m (fun s => if m.step = s.cairn.next then s.completeCairn m.step else s)
    | _ => s)

/-! ### Gathered tables and feeds (R399, R407) -/

/-- GATHER: header and vector go into this device's own copy; a ward's row of the commit before a cairn is also stored into that cairn (R407). -/
def execGather (m : Msg) (s : State) : Outcome State Fault Refusal :=
  .next (match m.body with
    | .belay (.gather t v x row) => s.atBelay m (fun s =>
        let s := match s.rowAt t v x, s.table t with
          | some a, some d => s.storeMem (d.home x) a (row.take d.shared)
          | _, _ => s
        if m.src ∈ s.wards ∧ s.cairn.next = m.step + 1 then s.keepItem m.src (m.step + 1) (.row t v x row) else s)
    | _ => s)

/-- Whether a row of a gathered table that step n changed on its owner has still to come, which keeps the tiles from passing (R407). -/
def State.gatherOut (s : State) (n : Nat) : Bool :=
  (List.range s.nTables).any (fun t => s.gathered t && (match s.table t with
    | none => false
    | some d => (List.range d.nrows).any (fun x => decide (s.ownerOf d x ≠ s.devId) && (match s.rowAt t (s.currentAt t n) x with
        | some a => let h := s.peek a 16; bitOf h 40 && decide (fld h 39 0 ≠ (n + 1) % 2 ^ 40)
        | none => false))))

/-- QW3 of a START completion (R336): bit 0 when some member has no partner, bit 1 when the pair is correlated and this device's export tier is not
enabled. -/
def State.missing (s : State) : Nat :=
  (if s.job.members.any (fun m => m.partner.isNone) then 1 else 0) + (if s.belay.corr && !bitOf s.exportCtl 0 then 2 else 0)

/-- A START completes once its fill has ended and every FEED has come, so that it can say what is missing (R399, R417). -/
def State.startDone (s : State) : State :=
  match s.job.startReq with
  | some (q, tag) =>
    if decide (s.belay.fill = 0) && s.fedAll then ({ s with job := { s.job with startReq := none } } : State).hostDone q tag 0 s.missing else s
  | none => s

/-- FEED of the partner or a ward: equal codes make the pair correlated; a ward that is not this device's partner is answered, so that both know.
An export copy that waited for it is sealed. -/
def execFeed (m : Msg) (s : State) : Outcome State Fault Refusal :=
  .next (match m.body with
    | .belay (.feed code) => s.atBelay m (fun s =>
        if s.partner ≠ some m.src ∧ m.src ∉ s.wards then s
        else
          let s := s.updBelay (fun b => { b with fed := withOne b.fed m.src, corr := b.corr || decide (code = b.feed) })
          let s := if s.partner = some m.src then s else s.sendBelay m.src 0 (.feed s.belay.feed)
          (s.maybeSeal).startDone)
    | _ => s)

/-! ### Fills (R417, R418) -/

/-- The row index that asks for a ward's whole stream, and the one that asks for its shadows: the manual gives FILLREQ no
encoding for either (log 29). -/
def wholeStream : Nat × Nat × Nat := (63, 3, 2 ^ 40 - 1)

/-- The same for the shadows alone. -/
def shadowStream : Nat × Nat × Nat := (63, 2, 2 ^ 40 - 1)

/-- The ward's items that stand in the newest complete cairn: for each row or shadow the newest at or before it. -/
def State.wardItems (s : State) (ward : Nat) : List BelayItem :=
  let c := s.cairn.lastC
  let es := s.belay.store.filter (fun e => decide (e.ward = ward) && (match e.item with | .record _ => true | _ => decide (e.cairn ≤ c)))
  (es.filter (fun e => !es.any (fun f => decide (e.cairn < f.cairn) && f.item.same e.item))).map (·.item)

/-- An item as a fill carries it, with its number. -/
def BelayItem.fill (n : Nat) : BelayItem → BelayBody
  | .row t v x bs => .fill n t v x bs
  | .shadow t o bs => .shadow t o bs n
  | .record r => .rtbrec r n

/-- Sends the messages of a fill, numbered from 1. -/
def State.sendFills (s : State) (dst : Nat) (items : List BelayItem) : State :=
  items.foldl (fun s i =>
    (s.updBelay (fun b => { b with fillSeq := b.fillSeq + 1 })).sendBelay dst s.cairn.lastC (i.fill (1 + s.belay.fillSeq % (2 ^ 32 - 1)))) s

/-- A row without bytes. -/
def noRow (r : Nat × Nat × Nat) : BelayItem := .row r.1 r.2.1 r.2.2 []

/-- The image of a row in the newest complete cairn that this device holds: a ward's, or a gathered row's, which stands among its owner's
(R407, R418). -/
def State.heldRow (s : State) (ward : Nat) (r : Nat × Nat × Nat) : BelayItem :=
  let of := match s.gathered r.1, s.table r.1 with
    | true, some d => s.ownerOf d r.2.2
    | _, _ => ward
  ((s.wardItems of).find? (fun i => i.same (noRow r))).getD (noRow r)

/-- FILLREQ. -/
def execFillreq (m : Msg) (s : State) : Outcome State Fault Refusal :=
  .next (match m.body with
    | .belay (.fillreq t v x) => s.atBelay m (fun s =>
        let items := s.wardItems m.src
        let shadows := items.filter (fun i => match i with | .shadow _ _ _ => true | _ => false)
        if (t, v, x) = wholeStream then s.sendFills m.src (items ++ [noRow wholeStream])
        else if (t, v, x) = shadowStream then s.sendFills m.src (shadows ++ [noRow shadowStream])
        else s.sendFills m.src [s.heldRow m.src (t, v, x)])
    | _ => s)

/-- The device that holds a row's image of the newest complete cairn: this one's partner, or of a gathered row the owner's. -/
def State.holder (s : State) (r : Nat × Nat × Nat) : Option Nat :=
  match s.gathered r.1 && decide (r ≠ wholeStream ∧ r ≠ shadowStream), s.table r.1 with
  | true, some d => (s.job.members.find? (fun m => decide (m.id = s.ownerOf d r.2.2))).bind (·.partner)
  | _, _ => s.partner

/-- Asks for rows where they are held, and waits for them. -/
def State.askFill (s : State) (mode : Nat) (rows : List (Nat × Nat × Nat)) : State :=
  let s := s.updBelay (fun b => { b with fill := mode, fillLeft := rows })
  rows.foldl (fun s r => match s.holder r with
    | some p => s.sendBelay p s.cairn.lastC (.fillreq r.1 r.2.1 r.2.2)
    | none => s) s

/-- Writes a row of a cairn where the row lies, and into its replica; what the row's bytes do not reach is 0 (R186, R281). -/
def State.fillRow (s : State) (t v x : Nat) (bs : List Byte) : State :=
  match s.table t with
  | none => s
  | some d =>
    let row := withHeader bs (setFld (headerOf bs) 42 41 0) ++ List.replicate (d.stride - bs.length) 0
    (s.imagesOf ⟨d.home x, t, v, x⟩).foldl (fun s a => s.storeMem (d.home x) a row) s

/-- Every tile's committed ranges take their bytes from its shadow (R402). -/
def State.fromShadow (s : State) : State :=
  match s.job.img with
  | none => s
  | some i => i.sections.foldl (fun s x => s.tileShadow x.tile) s

/-- Every tile stands at the start of step n, its step-set contexts as their save records hold them. -/
def State.standAt (s : State) (n : Nat) : State :=
  let s := { s with step := { s.step with no := n, att := 0, phase := 0, decision := none, stopped := false, resume := false,
                                          finished := [], arrivals := [], halted := none, commit := none, barred := [] } }
  let s := (s.stepTiles).foldl (fun s t =>
    let s := s.updTile t (fun x => { x with decision := none, arrived := false, passed := false })
    s.setReg (rTileStep t) (BitVec.ofNat 64 n)) s
  (s.allStepCtxs).foldl (fun s l =>
    if (s.ctx l).alive then (s.loadSave l).updCtx l (fun c => { c with epoch := (s.tile l.tile).bounds }) else s) s

/-- The recorded inputs from cairn c on: host commands, TILEIN entries, input reads, VREADYs. Type-2 records of a queue whose entry still stands in
its ring are not given again. -/
def State.replayable (s : State) (c : Nat) : List RtbRec :=
  let ins := s.book.recs.filter (fun r => decide ((r.type = 1 ∨ r.type = 2 ∨ r.type = 3 ∨ r.type = 6) ∧ c ≤ r.step))
  let qs := ((ins.filter (fun r => decide (r.type = 2))).map (fun r => r.body.headD 0)).eraseDups
  let drop := (qs.map (fun q =>
    let mine := ins.filter (fun r => decide (r.type = 2 ∧ r.body.headD 0 = q))
    mine.drop (mine.length - if s.book.field then 0 else (s.desc q).used))).flatten
  ins.filter (fun r => decide (r ∉ drop))

/-- The switches that the route book holds for step c and later (R418). -/
def State.recordedSwitches (s : State) (c : Nat) : List (Nat × Nat × Nat) :=
  (s.book.recs.filter (fun r => decide (r.type = 6 ∧ r.body.headD 0 = 1))).filterMap (fun r =>
    let n := r.body.getD 3 0
    if c ≤ n then some (r.body.getD 1 0, r.body.getD 2 0, n) else none)

/-- The step after the last one from cairn c on whose digest the route book holds, if any: as far as the job had come (R417). -/
def State.recordedEnd (s : State) (c : Nat) : Option Nat :=
  let l := (s.book.recs.filter (fun r => decide (r.type = 7 ∧ c ≤ r.step))).map (fun r => r.step + 1)
  if l.isEmpty then none else some (l.foldl max 0)

/-- The device goes back to the newest complete cairn, with the inputs of its route book given again up to step n, if there is one (R417,
R418). -/
def State.backTo (s : State) (n : Option Nat) : State :=
  let c := s.cairn.lastC
  let s := { (s.abandonCairn).endDeferrals 5 with
    step := { s.step with no := c, att := 0, decision := none, skipRun := s.cairn.skipC },
    book := { s.book with target := n, replay := s.replayable c, digest := 0, part := 0 },
    emb := { s.emb with pins := [], waiting := [], plans := [], asked := [], poolAsked := [], mirror := [], slots := s.cairn.slotsC,
                        switches := s.recordedSwitches c } }
  s.updCairn (fun k => { k with dirty := [], st := if n.isSome then 6 else 0 })

/-- A fill has ended: a rollback runs from the cairn; a START announces rejoin there, and completes; a device reset goes on with its reload. -/
def State.fillDone (s : State) : State :=
  let mode := s.belay.fill
  let c := s.cairn.lastC
  let s := s.updBelay (fun b => { b with fill := 0, fillLeft := [] })
  match mode with
  | 1 => (s.fromShadow).standAt c
  | 2 =>
    let s := s.takeCairn s.book.recs
    ((((s.fromShadow).backTo (s.recordedEnd c)).standAt c).announce c).startDone
  | _ => s

/-- FILL at the device that asked. -/
def execBelayFill (m : Msg) (s : State) : Outcome State Fault Refusal :=
  .next (match m.body with
    | .belay (.fill _ t v x row) => s.atBelay m (fun s =>
        if s.belay.fill = 0 then s
        else
          let s := if row.isEmpty then s else s.fillRow t v x row
          let s := s.updBelay (fun b => { b with fillLeft := b.fillLeft.filter (fun r => decide (r ≠ (t, v, x))) })
          if s.belay.fillLeft.isEmpty then s.fillDone else s)
    | _ => s)

/-! ### Rows of a version that a VREADY streams (R415) -/

/-- The cairn that rows of a VREADY belong to: the one in progress, or the newest. -/
def State.cairnTag (s : State) : Nat := if s.cairn.next = 0 then s.cairn.lastC else s.cairn.next

/-- Messages of that cairn sent so far. -/
def State.tagCount (s : State) : Nat := if s.cairn.next = 0 then s.cairn.msgsC else s.cairn.msgs

/-- Sends every live row of a slot that this device owns to its partner, and asks it to seal them. -/
def State.streamSlot (s : State) (p t v : Nat) : State :=
  let c := s.cairnTag
  let s := match s.table t with
    | none => s
    | some d => (List.range d.nrows).foldl (fun s x =>
        match decide (s.ownerOf d x = s.devId), s.rowAt t v x with
        | true, some _ =>
          let y := s.rowBytes ⟨d.home x, t, v, x⟩
          (match y.2 with
          | some row =>
            if rowLive row then
              (y.1.updCairn (fun k => if k.next = 0 then { k with msgsC := k.msgsC + 1 } else { k with msgs := k.msgs + 1 })).sendBelay p c
                (.rowcopy t v x row)
            else y.1
          | none => y.1)
        | _, _ => s) s
  s.sendBelay p c (.sealOf s.tagCount)

/-- A VREADY waits for its partner's seal of what it streams. -/
def State.awaitSeal (s : State) (p q tag t v : Nat) : State :=
  let s := s.streamSlot p t v
  { s with job := { s.job with readyReq := some (q, tag, s.cairnTag, s.tagCount, t, v) } }

/-! ### Rollback (R418) -/

/-- The rows that a rollback fetches: those on its lists since the newest complete cairn, and those of every gathered table. -/
def State.changedRows (s : State) : List (Nat × Nat × Nat) :=
  ((s.cairn.dirty ++ s.cairn.listed).map (fun r => (r.table, r.slot, r.index)) ++
   (List.range s.nTables).flatMap (fun t => match s.table t with
    | some d => if s.gathered t then (List.range d.nrows).map (fun x => (t, (s.cairn.slotsC.get (fun _ => [0, 3, 3, 3]) t).findIdx (· = 0), x)) else []
    | none => [])).eraseDups

/-- The whole job rolls back to the newest complete cairn: this device's part. What this device holds itself it writes back at once; a job whose
rows have no holder ends with an event (R27). A VREADY that waits for the seal of an abandoned cairn streams its rows again. -/
def State.rollback (s : State) : State :=
  let rows := s.changedRows
  let n := s.curStep
  let s := (((s.stopAttempt).clearReductions).backTo (some n)).count (hubReg 8 0x078) 1
  if s.partner.isNone || rows.any (fun r => (s.holder r).isNone) then s.failJob
  else
    let own := rows.filter (fun r => decide (s.holder r = some s.devId))
    let s := own.foldl (fun s r => match s.heldRow s.devId r with
      | .row t v x (b :: bs) => s.fillRow t v x (b :: bs)
      | _ => s) s
    let s := s.askFill 1 (rows.filter (fun r => decide (r ∉ own)) ++ [shadowStream])
    match s.job.readyReq, s.partner with
    | some (q, tag, c, _, t, v), some p => if c = s.cairn.lastC then s else s.awaitSeal p q tag t v
    | _, _ => s

/-! ### REJOIN (R376, R418) -/

/-- Bit d of ERR_PEERDOWN. -/
def State.peerDown (s : State) (d : Nat) : Bool := bitOf (s.reg (rPeerDown (d / 64))).toNat (d % 64)

/-- Whether any device is flagged. -/
def State.anyPeerDown (s : State) : Bool := (List.range 64).any (fun w => decide (s.reg (rPeerDown w) ≠ 0))

/-- The PEER deferral is open while any bit is set (R374). -/
def State.peerDeferral (s : State) (d : Nat) : State :=
  if s.anyPeerDown then (if (s.findDeferral 6 none).isSome then s else s.openDeferral 6 2 0x18 noUnit d)
  else s.closeDeferral 6 none

/-- The device sets or clears bit d itself: an event of TYPE 0x04 for each change (R381). -/
def State.setPeerDown (s : State) (d : Nat) (down : Bool) : State :=
  if s.peerDown d = down then s
  else
    let w := s.reg (rPeerDown (d / 64))
    let s := s.setReg (rPeerDown (d / 64)) (wset w (d % 64) (d % 64) (if down then 1 else 0))
    (s.peerDeferral d).post none 4 0 0 0 (d + if down then 0 else 4096)

/-- A device whose fill for this one runs comes back (R420). One that comes back at the cairn itself was lost, and a START or a reset has
then no copy left to fill from: the job ends with an event, from which the host restores every member. Else what the fill still waits for
is asked for again (log 148). -/
def State.fillAgain (s : State) (n : Nat) : State :=
  if decide (s.belay.fill ≠ 1 ∧ n = s.cairn.lastC) then s.failJob else s.askFill s.belay.fill s.belay.fillLeft

/-- A device that was flagged comes back at the newest complete cairn. A partner has then lost what it held, and a ward was restored: the next cairn
is a full one (R419). A cairn called and not begun is abandoned with it (R409). -/
def State.lostDevice (s : State) (m : Msg) : State :=
  let s := s.updCairn (fun k => { k with full := k.full || decide (m.step = k.lastC ∧ (s.partner = some m.src ∨ m.src ∈ s.wards)) })
  if decide (s.cairn.st = 1 ∧ s.curStep < s.cairn.next ∧ m.step = s.cairn.lastC) then s.abandonCairn else s

/-- What a member does with a REJOIN of step n, its peer flag cleared. One of the newest complete cairn below its own step makes it roll back, once
no other device is flagged (R418, R420); one of another step below is of an attempt that is over. The leader keeps one of a later step, or one that comes while its decision is being applied, until it is its turn. -/
def State.takeRejoin (s : State) (m : Msg) : State :=
  let lead := decide (s.leader = s.devId)
  if s.job.st ≠ .running then s.takeMsg m
  else if decide (s.belay.fill ≠ 0) && s.belay.fillLeft.any (fun r => decide (s.holder r = some m.src)) then (s.takeMsg m).fillAgain m.step
  else if m.step < s.curStep then
    if m.step ≠ s.cairn.lastC then s.takeMsg m else if s.anyPeerDown then s else (s.takeMsg m).rollback
  else if lead && (decide (s.curStep < m.step) || s.step.decision.isSome) then s
  else if lead then
    let s := s.takeMsg m
    ({ s with step := { s.step with rejoined := true } } : State).leaderDecide
  else s.takeMsg m

/-- REJOIN. -/
def execRejoin (m : Msg) (s : State) : Outcome State Fault Refusal :=
  .next (if m ∉ s.inbox ∨ m.body ≠ .rejoin then s
    else (if s.peerDown m.src then (s.setPeerDown m.src false).lostDevice m else s).takeRejoin m)

end Sys2Proof.Machine
end

