-- ==== Sys2Proof/Machine/Boundary.lean ====
section
/-! DEFINITION. Step boundaries: what a tile does as it passes its boundary, what the device does when every tile has, and how a
job stops there (R149, R221, R228, R233, R238, R256, R270, R273, R338, R402, R416). -/
namespace Sys2Proof.Machine

open Host (Outcome)

/-! ### Whether a tile passes (R149) -/

/-- Whether a gated command of the tile's present step is queued or running. -/
def State.gatedLeft (s : State) (t : TileId) : Bool :=
  let x := s.tile t
  let mine := fun (k : EngCmd) => cmdCmt k.word && s.ownDecision t k
  x.queues.toList.any (fun q => q.any mine) || x.active.toList.any (fun q => q.any (fun a => mine a.cmd))

/-- The contexts of the step set that have ended the step. -/
def State.ended (s : State) (t : TileId) (c : CtxId) : Bool :=
  decide ((s.tile t).bounds < ((s.tile t).ctxs[c]).epoch)

/-- Rewinds the contexts that the device holds: those of the step set that have not ended the attempt, and any other that an error has held and
no hang search recovers (R155, R375). -/
def State.rewindHeld (s : State) (t : TileId) : State :=
  allCtxs.foldl (fun s c =>
    let l : Loc := ⟨t, c⟩
    if (s.ctx l).mode ≠ .held then s
    else if c ∈ s.stepCtxs t then (if s.ended t c then s else s.rewindCtx l)
    else if (s.tile t).search.isSome then s else s.loadSave l) s

/-- Whether a home tile's marking pass of a called cairn would have to read a row beyond T1 that cannot be reached now (R318, R404). -/
def State.markWaits (s : State) (h n : Nat) : Bool :=
  decide (s.cairn.next = n + 1 ∧ 0 < s.cairn.st ∧ s.cairn.st < 3) && !s.hostUp &&
  (if s.cairn.full then (List.range s.nTables).any (fun t => match s.table t with
      | some d => bitOf d.place 0 || bitOf d.place 1
      | none => false)
   else s.cairn.dirty.any (fun r => decide (r.tile = h) && s.rowFar r.table r.slot r.index))

/-- Whether the tile passes its boundary under a decision. -/
def State.canPass (s : State) (t : TileId) (d : Decision) : Bool :=
  let cs := s.stepCtxs t
  !s.writesStop && !s.gatedLeft t && !(Decision.advances d && s.markWaits t (s.stepAt t)) &&
  (match d with
    | .discard => cs.all (fun c => !((s.tile t).ctxs[c]).alive || s.ended t c)
    | .halt => false
    | _ => cs.all (s.ended t) && !(decide (d = .commit) && s.learning (s.stepAt t) && s.gatherOut (s.stepAt t)))

/-! ### Hot sets at a boundary (R221, R238) -/

/-- The addresses of the entries of a tile's hot set, with their row slots. -/
def State.hotWays (s : State) (h : Nat) : List (Nat × Nat) :=
  let cfg := s.hotCfg h
  if !bitOf cfg 42 then []
  else (List.range (4 * 2 ^ fld cfg 46 43)).map (fun i =>
    (sram h (64 * fld cfg 63 47 + 16 * i), sram h (64 * (fld cfg 41 25 + i * fld cfg 24 13))))

/-- A pass over the granules of a tile's hot-set directory: an uncorrectable word is an error of the tile (R165). -/
def State.checkHot (s : State) (h : Nat) : State :=
  ((s.hotWays h).filter (fun w => decide (w.1 % 64 = 0))).foldl (fun s w =>
    let y := s.readT0 w.1 64
    match y.2 with
    | some _ => y.1
    | none => y.1.memError h 0 4 w.1) s

/-- The ways whose directory granule the pass could read: nothing is done with the others. -/
def State.goodWays (s : State) (h : Nat) : List (Nat × Nat) := (s.hotWays h).filter (fun w => !s.unreadable (w.1 / 64 * 64) 64)

/-- Copies a way's row to T1 when the step has written it; what the copy reads is checked. -/
def State.hotCopy (s : State) (h n : Nat) (w : Nat × Nat) : State :=
  let e := s.peek w.1 16
  let t := fld e 87 82
  match bitOf e 0, s.table t with
  | true, some d =>
    let y := s.readT0 w.2 16
    match y.2 with
    | none => y.1.memError h 0 4 w.2
    | some hd =>
      if fld (leVal hd) 39 0 = (n + 1) % 2 ^ 40 then
        let c := y.1.checkReads (y.1.dirReads t (fld e 81 80) (fld e 127 88))
        match c.2, c.1.rowLoc t (fld e 81 80) (fld e 127 88) with
        | some b, _ => c.1.memError h 0 4 b
        | none, none => c.1
        | none, some a =>
          let z := c.1.readT0 w.2 d.stride
          match z.2 with
          | some row => z.1.storeMem h a row
          | none => z.1.memError h 0 4 w.2
      else y.1
  | _, _ => s

/-- Copies the rows that the step has written in T0 to T1. -/
def State.hotCopies (s : State) (h n : Nat) : State := (s.goodWays h).foldl (fun s w => s.hotCopy h n w) s

/-- Halves the hit counts of a tile's hot set. -/
def State.hotDecay (s : State) (h : Nat) : State :=
  (s.goodWays h).foldl (fun s w =>
    let e := s.peek w.1 16
    if bitOf e 0 then s.storeMem h w.1 (leBytes 16 (setFld e 79 72 (fld e 79 72 / 2))) else s) s

/-- The hit count of a released pin: its row's directory entry, or its own (log 30). -/
def State.pinHits (s : State) (p : Pin) : Nat :=
  match s.findEntry p.table p.slot p.index with
  | some a => fld (s.dirEntry a) 71 64
  | none => p.hits

/-- The way of a set with the lowest hits: an empty way counts 0. -/
def State.coldWay (s : State) (h t x : Nat) : Nat × Nat :=
  [0, 1, 2, 3].foldl (fun (b : Nat × Nat) w =>
    let e := s.peek (sram h (hotWayAt (s.hotCfg h) t x w)) 16
    let k := if bitOf e 0 then fld e 79 72 else 0
    if k < b.2 then (w, k) else b) (0, 256)

/-- Promotes a released pin's row when it has earned it. A row that no way could hold counts in EMB_CNT_NODIR whatever its hits (R226; DESIGN
CHOICE, log 155). -/
def State.promote (s : State) (h n : Nat) (p : Pin) : State :=
  let cfg := s.hotCfg h
  match s.table p.table with
  | none => s
  | some d =>
    if !bitOf cfg 42 || !bitOf d.place 3 || decide (s.currentAt p.table (n + 1) ≠ p.slot) then s
    else
      let c := s.checkReads (s.imageReads d p.table p.slot p.index)
      match c.2, c.1.rowLoc p.table p.slot p.index with
      | some b, _ => c.1.memError h 0 4 b
      | none, none => c.1
      | none, some a =>
        let s := c.1
        if (s.hotWay h p.table p.slot p.index).isSome || decide (tierOf a ≠ .t1) then s
        else if 64 * fld cfg 24 13 < d.stride then s.count (embCnt h 0x0B0) 1
        else
          let k := s.pinHits p
          let w := s.coldWay h p.table p.index
          if (s.tierDesc p.table).prom ≤ k ∧ w.2 < k then
            let y := s.readMem a d.stride
            match y.2 with
            | none => y.1.memError h 0 4 a
            | some row =>
              let s := (y.1.storeMem h (sram h (hotRowAt cfg p.table p.index w.1)) row).count (embCnt h 0x098) 1
              s.storeMem h (sram h (hotWayAt cfg p.table p.index w.1)) (leBytes 16 (mkHot p.table p.slot p.index k))
          else s

/-- Inserts a pin in the order of its index. -/
def insPin (p : Pin) : List Pin → List Pin
  | [] => [p]
  | q :: r => if p.index < q.index then p :: q :: r else q :: insPin p r

/-! ### What a home tile does at a boundary that advances -/

/-- Releases the pins of step n, after considering their rows for T0 (R228, R238). -/
def State.releasePins (s : State) (h n : Nat) : State :=
  let mine := s.emb.pins.filter (fun p => decide (p.tile = h ∧ p.step ≤ n))
  let s := mine.foldl (fun l p => insPin p l) [] |>.foldl (fun s p => s.promote h n p) s
  s.updEmb (fun e => { e with pins := e.pins.filter (fun p => !decide (p.tile = h ∧ p.step ≤ n)) })

/-- A home tile passes the boundary of step n. -/
def State.homeBoundary (s : State) (h n : Nat) : State :=
  let s := (((s.checkHot h).hotCopies h n).hotDecay h).releasePins h n
  let s := s.sendImages h (n + 1)
  if s.cairn.next = n + 1 ∧ 0 < s.cairn.st ∧ s.cairn.st < 3 then s.markTile h else s

/-- An item of a shadow granule in the digest (R416). -/
def shadowItem (t off : Nat) (bs : List Byte) : List Byte := leBytes 1 2 ++ leBytes 2 t ++ leBytes 4 off ++ bs

/-- The granules that a list of ranges touches. -/
def granules (l : List (Nat × Nat)) : List Nat :=
  ((l.map (fun r => (List.range (ceilDiv (r.1 % 64 + r.2) 64)).map (fun i => r.1 / 64 * 64 + 64 * i))).flatten).eraseDups

/-- A granule of a tile goes into its shadow, and into the digest where it holds committed state; one that cannot be read is an error of
the tile and leaves its shadow as it was. -/
def State.shadowGranule (s : State) (t : Nat) (digest : Bool) (off : Nat) : State :=
  let y := s.readT0 (sram t off) 64
  match y.2 with
  | none => y.1.memError t 0 0xF (sram t off)
  | some new =>
    let s := y.1
    let old := (List.range 64).map (fun i => s.book.shadow.get (fun _ => 0) (sram t (off + i)))
    if new = old then s
    else (if digest then s.hashChange (shadowItem t off old) (shadowItem t off new) else s).fillShadow t off new

/-- Writes a tile's changed granules of committed state to its shadow, and into the digest (R402, R416); the save records' alone are in
no digest (log 70). -/
def State.shadowTile (s : State) (t : Nat) : State :=
  match s.sectionOf t with
  | none => s
  | some x =>
    let committed := granules x.committed
    let s := ((granules (s.saveRanges x)).filter (fun off => decide (off ∉ committed))).foldl (fun s off => s.shadowGranule t false off) s
    committed.foldl (fun s off => s.shadowGranule t true off) s

/-! ### TILE_STEP_BOUNDARY -/

/-- The contexts that sat step n out and serve step n + 1 run again (R214). -/
def State.rejoinPhase (s : State) (t : TileId) (n : Nat) : State :=
  (s.stepCtxs t).foldl (fun s c =>
    let l : Loc := ⟨t, c⟩
    if s.offPhase l n && !s.offPhase l (n + 1) && decide ((s.ctx l).mode = .wait) then
      s.updCtx l (fun c => { c with mode := .run, wait := .none, step := .start })
    else s) s

/-- The tile passes its boundary under a decision on step n. -/
def State.passTile (s : State) (t : TileId) (d : Decision) (n : Nat) : State :=
  let adv := Decision.advances d
  let s := s.updTile t (fun x => { x with decision := none, arrived := false, passed := true, bounds := x.bounds + 1 })
  let s := { s with step := { s.step with arrivals := s.step.arrivals.filter (fun v => decide (v.loc.tile ≠ t)) } }
  let s := (s.clearBuffers (fun h => decide (h = t.val))).clearCoalescer (fun h => decide (h = t.val))
  if adv then ((((s.homeBoundary t n).shadowTile t).setReg (rTileStep t) (BitVec.ofNat 64 (n + 1))).rejoinPhase t n).servePins else s

/-- TILE_STEP_BOUNDARY: under DISCARD the device first rewinds the contexts that it holds. -/
def execTileStepBoundary (t : TileId) (s : State) : Outcome State Fault Refusal :=
  .next (match s.step.decision, (s.tile t).decision with
    | some (_, n, _), some d =>
      let s' := if d = .discard then s.rewindHeld t else s
      if (s.tile t).passed then s else if s'.canPass t d then s'.passTile t d n else s'
    | _, _ => s)

/-! ### DEVICE_STEP_BOUNDARY (R270) -/

/-- Halts a replay or a rollback at step n: the first difference, or the end of the record with n = 0 (R418, R421). -/
def State.haltReplay (s : State) (n : Nat) : State :=
  let seq := s.log.next
  let s := s.unclassed (n % 2)
  ({ s with book := { s.book with divStep := n } } : State).haltJob seq

/-- The digest that the route book recorded for step n before this run of it, counted from the newest complete cairn (R416). -/
def State.oldDigest (s : State) (n : Nat) : Option Nat :=
  ((s.book.recs.filter (fun r => decide (r.type = 7 ∧ r.step = n))).getLast?).map (fun r =>
    let x := r.body.headD 0
    if r.body.getD 1 0 = s.cairn.lastC then x else x ^^^ s.cairn.dC)

/-- A table's version slot states in the digest (R416). -/
def State.slotItem (s : State) (t : Nat) : List Byte :=
  let base := match s.table t with | some d => d.vbase | none => []
  leBytes 1 3 ++ leBytes 1 t ++ ((s.slotStates t).map (leBytes 1)).flatten ++ (base.map (leBytes 8)).flatten

/-- The host commands of step n that change version slots, given again in a rollback or a field replay (R415, R418, R421): VBUILD as its entry says,
VREADY as its record does. -/
def State.replayCommands (s : State) (n : Nat) : State :=
  (s.book.replay.filter (fun r => decide (r.step = n))).foldl (fun s r =>
    let w := r.body.getD 1 0
    let t := fld w 5 0
    let v := fld w 9 8
    if r.type = 6 ∧ r.body.headD 1 = 0 then s.setSlotState (r.body.getD 1 0) (r.body.getD 2 0) 1
    else if r.type = 1 ∧ fld (r.body.headD 0) 63 56 = 5 ∧ s.slotState t v ≠ 0 then (s.setSlotState t v 2).dropPool t v
    else s) s

/-- Applies the switches of step n: the outgoing slot becomes READY (R213). -/
def State.applySwitches (s : State) (n : Nat) : State :=
  let s := (s.switchesOf n).foldl (fun s w =>
    let old := s.slotItem w.1
    let s := (s.setSlotState w.1 (s.currentNow w.1) 1).setSlotState w.1 w.2 0
    s.hashChange old (s.slotItem w.1)) s
  s.updEmb (fun e => { e with switches := e.switches.filter (fun w => decide (w.2.2 ≠ n)) })

/-- Writes the digest of step n with the cairn that it counts from, compared with the recorded one in a rollback or a field replay. A TILEIN entry is
given again until it is taken. -/
def State.closeDigest (s : State) (n a : Nat) : State :=
  let dg := s.book.digest ^^^ s.book.part
  let old := s.oldDigest n
  let again := s.book.target.isSome || s.book.field
  let s := { s with book := { s.book with digest := dg, part := 0, replay := s.book.replay.filter (fun r => decide (n < r.step ∨ r.type = 2)) } }
  if again then
    match old with
    | some o => if o = dg then s else s.haltReplay n
    | none => s.record 7 0 0 n a [dg, s.cairn.lastC]
  else s.record 7 0 0 n a [dg, s.cairn.lastC]

/-- A rollback that has run its steps again is over; a field replay that has reached the end of its record halts. -/
def State.endReplay (s : State) (n : Nat) : State :=
  let s := match s.book.target with
    | some k => if k ≤ n + 1 then
        ({ s with book := { s.book with target := none } } : State).updCairn (fun c => { c with st := if c.st = 6 then 0 else c.st })
      else s
    | none => s
  if s.book.field && s.step.halted.isNone &&
     !(s.book.recs.any (fun r => decide (r.type = 7 ∧ n < r.step))) then s.haltReplay 0
  else s

/-- Durations of steps on the leader, for the cadence (R410): the step in which a cairn completed is the last of its cost. -/
def State.timeStep (s : State) : State :=
  let dur := s.aon.toNat - s.cairn.mark
  s.updCairn (fun k =>
    let run := k.run + (dur - k.times.getLastD 0)
    if k.ended then { k with mark := s.aon.toNat, run := 0, cost := some run, ended := false }
    else if 2 ≤ k.st ∧ k.st ≤ 4 then { k with mark := s.aon.toNat, run := run }
    else
      let l := k.times ++ [dur]
      { k with mark := s.aon.toNat, times := l.drop (l.length - 16) })

/-- What the device does with an advancing step n: home tiles without a step, switches, digest, mirror, cairn. -/
def State.advanceStep (s : State) (d : Decision) (n a : Nat) : State :=
  let s := (allTiles.filter (fun h => decide (h ∉ s.stepTiles))).foldl (fun s h => s.homeBoundary h n) s
  let s := s.replayCommands n
  let s := if d = .commit then s.applySwitches n
    else s.updEmb (fun e => { e with switches := e.switches.map (fun w => if w.2.2 = n then (w.1, w.2.1, n + 1) else w) })
  let s := s.closeDigest n a
  let s := s.updEmb (fun e => { e with
    mirror := e.mirror.filter (fun m => decide (n < m.step)), asked := e.asked.filter (fun m => decide (n < m.step)),
    plans := e.plans.filter (fun p => decide (n < p.step)),
    poolAsked := e.poolAsked.filter (fun r => ((s.tile r.1).queues[4]).any (fun k => decide (k.serial = r.2.1))) })
  let s := s.releaseAsks
  let s := (s.timeStep).endReplay n
  if s.cairn.next = n + 1 ∧ 0 < s.cairn.st ∧ s.cairn.st < 3 then s.startCopies else s

/-- The device enters its next step or attempt: what home tiles without a step have gathered goes too, and the commit set is freed (R205,
R256, R270). -/
def State.nextStep (s : State) (adv : Bool) (a : Nat) : State :=
  let s := ((s.clearReductions).clearBuffers (fun h => decide (h ∉ s.stepTiles))).clearCoalescer (fun h => decide (h ∉ s.stepTiles))
  let s : State := { s with book := { s.book with recs := s.book.recs.filter (fun r => decide (r.type ≠ 9)) } }
  let s := if s.step.resume then s.count (hubReg 8 0x058) 1 else s
  let rst : Recovery := if s.rst.phase = .rejoining then { s.rst with phase := .none, failRun := 0 } else s.rst
  let s : State := { s with rst := { rst with levelOne := rst.levelOne && !adv }, step := { s.step with
    decision := none, att := if adv then 0 else a + 1, phase := if s.step.halted.isSome then 4 else 0,
    stopped := false, resume := false, finished := [], barred := s.step.barred.erase (s.curStep, a) } }
  let s := (s.stepTiles).foldl (fun s t => s.updTile t (fun x => { x with passed := false })) s
  let s := s.closeDeferral (if adv then 8 else 0xA) none
  let s := if adv then s else (allTiles.filter (fun h => decide (h ∉ s.stepTiles))).foldl (fun s h => if h' : h < 640 then s.rewindHeld ⟨h, h'⟩ else s) s
  let s := s.servePins
  let s := if s.learning s.curStep then (s.stepTiles).foldl (fun s t => if (s.tile t).arrived then s.closeBuffers t else s) s else s
  s.allArrived

/-- DEVICE_STEP_BOUNDARY: every tile has passed, and writes go (R357). A device that finished the step after a reset announces its rejoin at the
next one (R389), and a STOP that waited stops the job here. -/
def execDeviceStepBoundary (s : State) : Outcome State Fault Refusal :=
  .next (match s.step.decision with
    | none => s
    | some (d, n, a) =>
      if d = .halt || !s.everyStepTile (·.passed) || s.writesStop || (Decision.advances d && allTiles.any (fun h => s.markWaits h n)) then s
      else
        let adv := Decision.advances d
        let s := if adv then s.advanceStep d n a else s
        let s := s.nextStep adv a
        (if s.rst.phase = .recovering then s.comeBack s.step.no else s).finishStop)

end Sys2Proof.Machine
end

