-- ==== Sys2Proof/Machine/Queue.lean ====
section
/-! DEFINITION. The queue message engine, queue messages between devices, NVMe completions, and the completion of engine commands
(R139 to R141, R331 to R334, R339). -/
namespace Sys2Proof.Machine

open Host (Outcome)

/-! ### SEND, RECV and PEEK (R331, R332) -/

/-- QID of a command. -/
def qmQid (w : BitVec 128) : Nat := cmdFld w 110 91

/-- COUNT. -/
def qmCount (w : BitVec 128) : Nat := cmdFld w 90 83 + 1

/-- The SRAM offset of a command's entries. -/
def qmAddr (w : BitVec 128) : Nat := 64 * cmdFld w 127 111

/-- The bytes that a command moves to or from SRAM. -/
def qmLen (w : BitVec 128) : Nat := if cmdOp w = 3 then 8 else 64 * qmCount w

/-- Whether a context owns a queue. -/
def QDesc.ownedBy (d : QDesc) (l : Loc) : Bool := decide (d.tile = l.tile.val ∧ d.ctx = l.ctx.val)

/-- The first case of R331 that applies, counted in its order, and R143. A reserved operation code counts as a reserved bit, and a
RECV of a queue that is no TILEIN queue as one from no owner (log 31). -/
def State.qmReject (s : State) (t : TileId) (k : EngCmd) : Option (Nat × Nat) :=
  let d := s.desc (qmQid k.word)
  let op := cmdOp k.word
  let l := k.loc t
  if !d.valid then some (5, 1)
  else if decide (op = 1) && (decide (d.cls ≠ 1 ∧ d.cls ≠ 2 ∧ d.cls ≠ 6) || (decide (d.cls = 1) && d.rsend)) then some (5, 2)
  else if (decide (op = 1 ∧ d.cls = 2) && !d.ownedBy l) || (decide (op = 2) && (decide (d.cls ≠ 1) || !d.ownedBy l)) then some (5, 3)
  else if !s.sramOk t (qmAddr k.word) (qmLen k.word) then some (5, 4)
  else if op = 0 ∨ 3 < op ∨ cmdFld k.word 82 32 ≠ 0 then some (5, 5)
  else if decide (op ≠ 1) && !cmdCmt k.word && s.committedTile t (qmAddr k.word) (qmLen k.word) then some (8, 0)
  else none

/-- Changes the accepted queue message command of a serial number. -/
def State.updQm (s : State) (t : TileId) (serial : Nat) (f : Active → Active) : State :=
  s.updTile t (fun x => x.setAct 5 ((x.act 5).map (fun a => if a.cmd.serial = serial then f a else a)))

/-- Stops a queue message command at a memory error. -/
def State.qmStop (s : State) (t : TileId) (k : EngCmd) (cause : Nat) : State :=
  (s.updQm t k.serial (fun a => { a with stopped := true })).tmemError cause t k.ctx 5

/-- The ring entry that a SEND makes of an SRAM entry (R334). -/
def State.sentEntry (s : State) (cls : Nat) (bs : List Byte) : List Byte :=
  if cls = 6 then bs.take 4 ++ [0, 0, 0, 0x10] ++ leBytes 8 s.step.no ++ leBytes 8 s.aon.toNat ++ (bs.drop 24).take 40 else bs

/-- Whether an entry fits: an EVENT queue first takes what the hub holds for it. -/
def State.qmRoom (s : State) (q : Nat) : Bool :=
  let d := s.desc q
  decide (0 < d.room) && (decide (d.cls ≠ 6) || ((s.heldEvents q).isEmpty && decide (SMap.get (fun _ => 0) s.qm.lost q = 0)))

/-- Moves up to n entries of a SEND, the first of which is number i. -/
def State.sendSome (s : State) (t : TileId) (k : EngCmd) (i : Nat) : Nat → State
  | 0 => s.updQm t k.serial (fun a => { a with done := true })
  | n + 1 =>
    let q := qmQid k.word
    if !s.qmRoom q then s
    else
      let y := s.rdTile t (qmAddr k.word + 64 * i) 64
      match y.2 with
      | .error c => y.1.qmStop t k c
      | .ok bs =>
        let s := (y.1.useQueue q).append q (y.1.sentEntry (y.1.desc q).cls bs)
        (s.updQm t k.serial (fun a => { a with bytes := i + 1 })).sendSome t k (i + 1) n

/-- The recorded entries of a queue that a rollback or a field replay gives again. -/
def State.fedEntries (s : State) (q : Nat) : List RtbRec := s.book.replay.filter (fun r => decide (r.type = 2 ∧ r.body.headD 0 = q))

/-- The ring entries of a queue from HEAD on; none when a burst is uncorrectable. -/
def State.ringEntries (s : State) (d : QDesc) : Nat → Nat → State × Option (List (List Byte))
  | _, 0 => (s, some [])
  | i, n + 1 =>
    let y := s.readMem (d.entryAt (d.head + i)) 64
    match y.2 with
    | none => (y.1, none)
    | some bs =>
      let z := y.1.ringEntries d (i + 1) n
      (z.1, z.2.map (fun l => bs :: l))

/-- RECV with entries in hand: into SRAM, recorded for a later replay. -/
def State.recvDone (s : State) (t : TileId) (k : EngCmd) (es : List (List Byte)) : State :=
  let y := s.writeT0 (sram t (qmAddr k.word)) es.flatten
  if y.2 then y.1.updQm t k.serial (fun a => { a with done := true }) else y.1.qmStop t k 4

/-- RECV takes its entries when there are enough: recorded ones of a rollback first, then the ring's; a field replay reads no ring (R418, R421). -/
def State.recvTry (s : State) (t : TileId) (k : EngCmd) : State :=
  let q := qmQid k.word
  let n := qmCount k.word
  let d := s.desc q
  let fed := (s.fedEntries q).take n
  if fed.length + (if s.book.field && !d.rsend then 0 else d.used) < n then s
  else
    let y := s.ringEntries d 0 (n - fed.length)
    match y.2 with
    | none => (y.1.updQm t k.serial (fun a => { a with stopped := true })).memError t k.ctx 5 d.ring
    | some es =>
      let all := fed.map (fun r => (((r.body.drop 1).take 8).map (leBytes 8)).flatten) ++ es
      let s := { y.1 with book := { y.1.book with replay := y.1.book.replay.filter (fun r => decide (r ∉ fed)) } }
      let s := ((s.useQueue q).setHead q ((d.head + es.length) % 2 ^ 32)).recvDone t k all
      s.recordOutcome (k.loc t) (.entries q all)

/-- A replayed RECV is given what the route book recorded, and then waits (R383). -/
def State.recvReplay (s : State) (t : TileId) (k : EngCmd) : State :=
  match s.nextFeed (k.loc t) with
  | some (.entries _ es) => (s.takeFeed (k.loc t)).recvDone t k es
  | _ => s

/-- The commands accepted and not done with that SEND to a queue, on any tile. -/
def State.sendsTo (s : State) (q : Nat) : List Active :=
  s.tiles.flatMap (fun e => (e.2.active[5]).filter (fun a => decide (a.queue = some q ∧ cmdOp a.cmd.word = 1) && !a.done && !a.stopped))

/-- Whether a SEND is the earliest accepted of those to its queue: entries land in acceptance order (R331). Its number stands in `desc`. -/
def State.sendTurn (s : State) (a : Active) : Bool :=
  (s.sendsTo (qmQid a.cmd.word)).all (fun b => decide (a.desc.headD 0 ≤ b.desc.headD 0))

/-- The number of the next command accepted: above those of the SENDs under way to its queue. -/
def State.nextSend (s : State) (q : Nat) : Nat := ((s.sendsTo q).map (fun b => b.desc.headD 0)).foldl max 0 + 1

/-- TAIL − HEAD of a queue; of a PEERROW ring the entries that its messages fill (R328, R340). -/
def State.queueUsed (s : State) (q : Nat) : Nat :=
  let d := s.desc q
  if d.cls = 3 then (d.used + s.ringUsed q 0 + s.ringUsed q 1) % 2 ^ 32 else d.used

/-- What an accepted queue message command does as far as it can; one whose ring cannot be reached waits (R318, R445), and nothing is written
while writes stop (R357). -/
def State.qmTry (s : State) (t : TileId) (a : Active) : State :=
  let k := a.cmd
  let q := qmQid k.word
  if a.stopped || a.done || s.writesStop || (decide (cmdOp k.word ≠ 3) && !s.replaying (k.loc t) && s.memWaits (s.desc q).ring) then s
  else
    match cmdOp k.word, s.replaying (k.loc t) with
    | 1, true => s.updQm t k.serial (fun a => { a with done := true })
    | 1, false => if s.sendTurn a then s.sendSome t k a.bytes (qmCount k.word - a.bytes) else s
    | 2, true => s.recvReplay t k
    | 2, false => s.recvTry t k
    | _, _ =>
      let y := (s.useQueue q).writeT0 (sram t (qmAddr k.word)) (leBytes 8 (s.queueUsed q))
      if y.2 then y.1.updQm t k.serial (fun a => { a with done := true }) else y.1.qmStop t k 4

/-- A use of the descriptor that a command names: one that does not exist is not looked up (R326). -/
def State.lookQueue (s : State) (q : Nat) : State := if s.queueExists q then s.useQueue q else s

/-- What the engine does with the command at the head of its queue: sixteen run at once, and one that names a queue of a running one
waits (R178, R332). -/
def State.qmWork (t : TileId) (k : EngCmd) (s : State) : State :=
  let q := qmQid k.word
  let act := (s.tile t).act 5
  if 16 ≤ act.length then s
  else
    let s := s.lookQueue q
    match s.qmReject t k with
    | some (c, row) => s.rejectCmd t 5 k c row
    | none =>
      if act.any (fun a => decide (a.queue = some q)) then s
      else
        let a : Active := { Active.of k 0 with queue := some q, done := false, desc := [s.nextSend q] }
        (s.accept t 5 a).qmTry t a

/-- SEND; the row also rejects a reserved operation code at the head of the queue. -/
def execSend (t : TileId) (s : State) : Outcome State Fault Refusal :=
  .next (s.atHead t 5 (fun op => decide (op ≠ 2 ∧ op ≠ 3)) (State.qmWork t))

/-- RECV. -/
def execRecv (t : TileId) (s : State) : Outcome State Fault Refusal :=
  .next (s.atHead t 5 (fun op => decide (op = 2)) (State.qmWork t))

/-- PEEK. -/
def execPeek (t : TileId) (s : State) : Outcome State Fault Refusal :=
  .next (s.atHead t 5 (fun op => decide (op = 3)) (State.qmWork t))

/-! ### Completion of commands (R139 to R141, R379) -/

/-- The counters of the engines that count completed commands. -/
def State.engCounts (s : State) (t : TileId) (e : Fin 6) (a : Active) : State :=
  match e.val with
  | 0 => s.count (tileReg t 1 0x070) 1
  | 1 => s.count (tileReg t 2 0x048) 1
  | 2 => s.count (tileReg t 4 0x040) 1
  | 3 => (s.count (tileReg t 5 0x040) 1).count (tileReg t 5 0x048) a.bytes
  | _ => s

/-- A command completes: it leaves its engine, its summaries are written (R116), its token increments, and its context's progress counter
advances. -/
def State.complete (s : State) (t : TileId) (e : Fin 6) (a : Active) : State :=
  let s := s.updTile t (fun x => x.setAct e ((x.act e).filter (fun b => decide (b.cmd.serial ≠ a.cmd.serial))))
  let s := s.updCtx (a.cmd.loc t) (fun c => c.writeSummaries a.sbase a.sums)
  ((s.bumpToken (a.cmd.loc t) a.cmd.word).engProgress (a.cmd.loc t) e).engCounts t e a

/-- Whether a message is a row update. -/
def Msg.isUpdate (m : Msg) : Bool :=
  match m.body with
  | .rowUpdate _ _ _ _ _ => true
  | _ => false

/-- Bank-conflict waits of tiles, counted (R163). -/
def State.countWaits (s : State) (ws : List (TileId × Nat)) : State :=
  ws.foldl (fun s w => s.count (tileReg w.1 0 0x130) w.2) s

/-- COMMAND_COMPLETION of the kth accepted command of an engine; a queue message command first goes on with what it waits for. Its `waits` are
the bank-conflict waits that any accesses have met up to then, which are timing: the command carries them, and so the cycles in which it moved data (R163, R379, logs 133 and 147). An embedding command waits for room
for the row updates that a full ring holds back (R340, log 141). -/
def execCommandCompletion (t : TileId) (e : Fin 6) (k : Ending) (s : State) : Outcome State Fault Refusal :=
  .next (match ((s.tile t).act e)[k.place]? with
    | none => s
    | some a =>
      if e.val ∈ (s.tile t).engStop || (decide (e = 4) && s.qm.backlog.any Msg.isUpdate) then s
      else
        let s := if e = 5 then s.qmTry t a else s
        match ((s.tile t).act e)[k.place]? with
        | some a => if a.done && !a.stopped && a.waits.isEmpty then ((s.complete t e a).dataProgress (a.cmd.loc t) e k.moved).countWaits k.waits else s
        | none => s)

/-! ### Messages of TILEOUT queues (R333) -/

/-- The entries of a TILEOUT queue sent and not acknowledged. -/
def State.inFlight (s : State) (q : Nat) : Nat := s.qm.sent.get (fun _ => 0) q

/-- Sets that number. -/
def State.setInFlight (s : State) (q n : Nat) : State := { s with qm := { s.qm with sent := s.qm.sent.put (fun _ => 0) q n } }

/-- TILEOUT_FORWARD: the next entry goes as a QMSG; an uncorrectable one is an error of the step (R462). -/
def execTileoutForward (q : Nat) (s : State) : Outcome State Fault Refusal :=
  let d := s.desc q
  let i := (d.seq + s.inFlight q) % 2 ^ 32
  .next (if !d.valid || d.cls ≠ 2 || q ∈ s.qm.stopped || i = d.tail || s.farWaits d.ring then s
    else
      let y := (s.useQueue q).readMem (d.entryAt i) 64
      match y.2 with
      | none => y.1.memError noUnit 0 0xF (d.entryAt i)
      | some bs => (y.1.setInFlight q (s.inFlight q + 1)).send d.peerdev s.curStep 0 (.qmsg d.peerq i bs))

/-- The entries in flight are sent again from SEQ on. -/
def State.resend (s : State) (q : Nat) : State := (s.count (hubReg 5 0x108) (s.inFlight q)).setInFlight q 0

/-- QMSG_RESEND_TIMEOUT: no QACK within 20 µs. -/
def execQmsgResendTimeout (q : Nat) (s : State) : Outcome State Fault Refusal :=
  .next (if (s.desc q).valid && decide ((s.desc q).cls = 2 ∧ q ∉ s.qm.stopped) then s.resend q else s)

/-- Answers a QMSG. -/
def State.qackTo (s : State) (m : Msg) (q status : Nat) : State := s.send m.src s.curStep 0 (.qack q (s.desc q).seq status)

/-- Whether a queue takes queue messages from a device. -/
def QDesc.takesFrom (d : QDesc) (dev : Nat) : Bool := d.valid && decide (d.cls = 1 ∧ d.peerdev = dev) && d.rsend

/-- Whether an index lies before SEQ, modulo 2^32. -/
def QDesc.behind (d : QDesc) (i : Nat) : Bool := decide (i ≠ d.seq ∧ (d.seq + 2 ^ 32 - i) % 2 ^ 32 < 2 ^ 31)

/-- An arriving entry of a queue that takes it: placed, a duplicate, or full. -/
def State.placeEntry (s : State) (m : Msg) (q i : Nat) (entry : List Byte) : State :=
  let d := s.desc q
  if decide (i = d.seq ∧ 0 < d.room) then ((s.append q entry).setSeq q ((d.seq + 1) % 2 ^ 32)).qackTo m q 0
  else if d.behind i then (s.count (hubReg 5 0x110) 1).qackTo m q 0
  else s.qackTo m q 1

/-- QMSG: the receiver's table of R333. -/
def execQmsg (m : Msg) (s : State) : Outcome State Fault Refusal :=
  .next (match m.body with
    | .qmsg q i entry =>
      if m ∉ s.inbox || s.writesStop || s.farWaits (s.desc q).ring then s
      else if (s.desc q).takesFrom m.src then ((s.takeMsg m).useQueue q).placeEntry m q i entry
      else (((s.takeMsg m).lookQueue q).logError 6 4 noUnit 0 0xF q 0 0).qackTo m q 2
    | _ => s)

/-- The TILEOUT queue that sends to a queue of a device. -/
def State.outQueue (s : State) (dev q : Nat) : Option Nat :=
  s.queueIds.find? (fun i =>
    let d := s.desc i
    d.valid && decide (d.cls = 2 ∧ d.peerdev = dev ∧ d.peerq = q))

/-- QACK: placed frees entries, full sends again, refused stops the queue with an event. -/
def execQack (m : Msg) (s : State) : Outcome State Fault Refusal :=
  .next (match m.body with
    | .qack q seq status =>
      if m ∉ s.inbox then s
      else
        let s := s.takeMsg m
        match s.outQueue m.src q with
        | none => s
        | some o =>
          let d := s.desc o
          let n := (seq + 2 ^ 32 - d.seq) % 2 ^ 32
          match status with
          | 0 => if 0 < n ∧ n ≤ (d.tail + 2 ^ 32 - d.seq) % 2 ^ 32 then
              (((s.useQueue o).setSeq o (seq % 2 ^ 32)).setHead o (seq % 2 ^ 32)).setInFlight o (s.inFlight o - n) else s
          | 1 => (s.useQueue o).resend o
          | _ => ({ s.useQueue o with qm := { (s.useQueue o).qm with stopped := withOne s.qm.stopped o } } : State).post (some d.evq) 5 0 0 o 2
    | _ => s)

/-! ### NVMe (R239 to R241, R339) -/

/-- The request of a command identifier. -/
def State.nvmeReq (s : State) (cid : Nat) : Option Request := s.qm.nvme.find? (fun r => decide (r.tag = cid))

/-- Forgets a request. -/
def State.dropNvme (s : State) (cid : Nat) : State :=
  { s with qm := { s.qm with nvme := s.qm.nvme.filter (fun r => decide (r.tag ≠ cid)) } }

/-- The completion queue of a controller. -/
def State.nvmeCq (s : State) (addr : Nat) : Option (Nat × Nat) :=
  (s.nvmeSq (s.nvmeCtl addr)).map (fun q => (q, (s.desc q).pair))

/-- The phase tag of entry i of a completion queue: it changes each time round (R339). -/
def QDesc.phase (d : QDesc) (i : Nat) : Nat := if i / 2 ^ d.log2n % 2 = 0 then 1 else 0

/-- The drive writes an entry at the completion queue's TAIL: the submission head and queue, the command, the phase tag and the status; its first
eight bytes are the command's own, which the manual does not give. -/
def State.driveEntry (s : State) (addr cid status : Nat) : State :=
  match s.nvmeCq addr with
  | none => s
  | some (q, c) =>
    let d := s.desc c
    let w := s.draw
    let bs := leBytes 8 w.1.toNat ++ leBytes 4 (((s.desc q).head + 1) % 2 ^ (s.desc q).log2n % 2 ^ 16 + d.nvqid % 2 ^ 16 * 2 ^ 16) ++
      leBytes 4 (cid % 2 ^ 16 + d.phase d.tail * 2 ^ 16 + status % 2 ^ 15 * 2 ^ 17)
    ((w.2.useQueue c).writeMem (d.entryAt d.tail) bs).1.setTail c ((d.tail + 1) % 2 ^ 32)

/-- The queue manager finds the entry at the completion queue's HEAD by its phase tag and takes it: HEAD goes on and is written to the controller,
and the submission entry is free (R339). The entry's command and status; none where there is no new one, or it cannot be read. -/
def State.takeCq (s : State) (addr : Nat) : State × Option (Nat × Nat) :=
  match s.nvmeCq addr with
  | none => (s, none)
  | some (q, c) =>
    let d := s.desc c
    let y := s.readMem (d.entryAt d.head) 16
    match y.2 with
    | none => (y.1.memError noUnit 0 0xF (d.entryAt d.head), none)
    | some bs =>
      let w := leVal (bs.drop 12)
      if d.head = d.tail ∨ fld w 16 16 ≠ d.phase d.head then (y.1, none)
      else
        let head := (d.head + 1) % 2 ^ 32
        let cfg := (s.reg (rNvctl (s.nvmeCtl addr))).toNat
        let at' := fld cfg 63 12 * 4096 + (2 * d.nvqid + 1) * (4 * 2 ^ fld cfg 11 8)
        let s := (y.1.setHead c head).setHead q (((s.desc q).head + 1) % 2 ^ 32)
        ({ s with out := s.out ++ [Sent.busWrite at' (leBytes 4 (head % 2 ^ d.log2n))] }, some (fld w 15 0, fld w 31 17))

/-- A command's entry: its row or move goes on, or fails with HOST 0x02. One that timed out has failed already. -/
def State.nvmeDone (s : State) (r : Request) (status : Nat) : State :=
  if (s.nvmeReq r.tag).isNone then { s with qm := { s.qm with late := s.qm.late.filter (fun q => decide (q.tag ≠ r.tag)) } }
  else if status = 0 then (s.dropNvme r.tag).requestDone r
  else (s.dropNvme r.tag).requestFailed r 2 status

/-- NVME_COMPLETION_ENTRY: the drive's entry lands, the queue manager takes the entry at HEAD, and the command that it names goes on or fails; what
waited for room in the submission queue goes. The status of a command that failed is a free value other than 0. T3 waits like T2 for the host
link (R318), and nothing is written while writes stop (R357). Where no submission queue names the controller any more, there is no ring, and
the command ends by itself (log 159). -/
def execNvmeCompletionEntry (cid : Nat) (ok : Bool) (s : State) : Outcome State Fault Refusal :=
  .next (if !s.hostUp || s.writesStop then s else match (s.qm.nvme ++ s.qm.late).find? (fun r => decide (r.tag = cid)) with
    | none => s
    | some r =>
      if r.held then s
      else
        let w := s.draw
        let status := if ok then 0 else w.1.toNat % 32767 + 1
        if (w.2.nvmeCq r.addr).isNone then (w.2.nvmeDone r status).nvmeFlush
        else
          let y := (w.2.driveEntry r.addr cid status).takeCq r.addr
          match y.2 with
          | none => y.1
          | some (c, st) =>
            match (y.1.qm.nvme ++ y.1.qm.late).find? (fun q => decide (q.tag % 2 ^ 16 = c) && !q.held) with
            | some q => (y.1.nvmeDone q st).nvmeFlush
            | none => y.1.nvmeFlush)

/-- NVME_TIMEOUT: two seconds after the doorbell write. The command's submission entry stays in use until its completion entry comes. -/
def execNvmeTimeout (cid : Nat) (s : State) : Outcome State Fault Refusal :=
  .next (match s.nvmeReq cid with
    | none => s
    | some r =>
      if r.held then s
      else
        let s := s.dropNvme cid
        (({ s with qm := { s.qm with late := s.qm.late ++ [r] } } : State).requestFailed r 2 0).nvmeFlush)

end Sys2Proof.Machine
end

