-- ==== Sys2Proof/Machine/Link.lean ====
section
/-! DEFINITION. Link ports: configuration and training, retry, retrain, resets of the peer, arriving flits and messages
(R290 to R313, R381). -/
namespace Sys2Proof.Machine

open Host (Outcome)

/-! ### What a link holds -/

/-- The messages of a link of which a flit is unsent or unacknowledged: the last flit of each is in one of the two lists. -/
def Link.unfinished (k : Link) : List Msg := ((k.retry ++ k.queue).filter (·.eom)).map (·.msg)

/-- Partial messages that the link is receiving. -/
def Link.partials (k : Link) : Nat := (k.got.toList.filter (fun n => decide (0 < n))).length

/-- A link that starts again with empty buffers, keeping whom it last trained with. -/
def Link.fresh (k : Link) (state : Nat) : Link :=
  { Link.reset with state := state, peer := k.peer, peerPort := k.peerPort, toSom := k.toSom, skipped := k.skipped, ready := k.ready, holds := k.holds }

/-- The traffic of a link that is gone for good moves to the alternates or waits (R295, R301). -/
def State.moveAll (s : State) (l state : Nat) : State :=
  let ms := (s.link l).unfinished
  let s := s.updLink l (fun k => k.fresh state)
  ms.foldl (fun s m => s.dispatchMsg l m) s

/-! ### Configuration (R312) -/

/-- The setting of a link that LNK_CFG value c gives half h: its mode, the split, and whether it is enabled. -/
def cfgOf (c h : Nat) : Nat × Bool × Bool :=
  (fld c 7 6, bitOf c 5, if h = 0 then bitOf c 3 else bitOf c 5 && bitOf c 4)

/-- MODE 0b11, and Birov 2 unsplit, are reserved codes (R312). -/
def lnkCfgReserved (c : Nat) : Bool := decide (fld c 7 6 = 3) || (decide (fld c 7 6 = 2) && !bitOf c 5)

/-- One half after a LNK_CFG write that found the value `old`: a changed link, or one in FAILED, trains again if it is enabled. -/
def State.retrainHalf (s : State) (old p h : Nat) : State :=
  let l := 2 * p + h
  let now := cfgOf (s.lnkCfg l) h
  let changed := decide (cfgOf old h ≠ now)
  if changed || decide ((s.link l).state = 5) then
    let s := s.moveAll l (if now.2.2 then 1 else 0)
    if changed then s.updLink l (fun k => { k with peer := 0, peerPort := 0 }) else s
  else s

/-- A write of LNK_CFG that its port takes. -/
def State.writeLnkCfg (s : State) (p v : Nat) : State :=
  let old := s.lnkCfg (2 * p)
  let s := s.setReg (rLnkCfg p) (BitVec.ofNat 64 (v % 256 / 8 * 8))
  (s.retrainHalf old p 0).retrainHalf old p 1

/-! ### Training (R292, R295) -/

/-- Unacknowledged flits numbered from SEQ 0, each holding a credit of the receiver's full counts. -/
def Link.renumber (k : Link) (ded sh : Nat) : Link :=
  let retry := (List.range k.retry.length).filterMap (fun i => (k.retry[i]?).map (fun f => { f with seq := i }))
  let k : Link := { k with retry := retry, seq := retry.length, credits := Vector.replicate 8 ded, shared := sh,
                           used := Vector.replicate 8 0, owed := Vector.replicate 8 0 }
  retry.foldl (fun k f => (k.takeCredit f.vc).getD k) k

/-- Whether the quanta of a link's port are admitted: five steps of 91 mA (R347, R348). -/
def State.portPowered (s : State) (l : Nat) : Bool := s.hubUp && decide (s.budget (640 + l / 2) = 5 * 16 * 91)

/-! ### Messages that a link holds back (R297, R302, R305) -/

/-- Whether a message still waits to leave: for a link, held back, or with a flit unsent. -/
def State.stillHere (s : State) (m : Msg) : Bool :=
  decide (m ∈ s.netWait ∨ m ∈ s.qm.backlog) || s.links.any (fun e => e.2.queue.any (fun f => decide (f.msg = m)))

/-- Whether a VC of a link is stopped behind a message that has not been delivered, or has not left. -/
def Link.stopped (k : Link) (vc : Nat) : Bool := k.holds.any (fun e => decide (e.1 = vc)) || k.ready.any (fun m => decide (m.vc = vc))

/-- Flits of a message on a link whose flits carry `pay` bytes. -/
def Msg.flits (pay : Nat) (m : Msg) : Nat := ceilDiv (32 + m.body.len) pay

/-- The flits on a VC of the messages that a link still holds: whole ones, those on their way out, and the one that it is receiving. -/
def Link.holding (k : Link) (pay : Nat) (v : Fin 8) : Nat :=
  ((k.ready.filter (fun m => decide (m.vc = v.val))).map (Msg.flits pay)).sum +
  ((k.holds.filter (fun e => decide (e.1 = v.val))).map (fun e => ((e.2.map (Msg.flits pay)).foldl max 0))).sum + k.got[v]

/-- The buffers of what a link no longer holds empty: a credit for each (R297). -/
def Link.drain (k : Link) (pay : Nat) : Link :=
  (List.finRange 8).foldl (fun (k : Link) (v : Fin 8) =>
    let keep := min k.used[v] (k.holding pay v)
    { k with owed := k.owed.set v (k.owed[v] + (k.used[v] - keep)), used := k.used.set v keep }) k

/-- Takes what has left off a link's list, and returns the credits of what stood behind. -/
def State.settleLink (s : State) (l : Nat) : State :=
  let k := s.link l
  if k.holds.isEmpty then s
  else
    let kept := (k.holds.map (fun e => (e.1, e.2.filter s.stillHere))).filter (fun e => !e.2.isEmpty)
    let s := s.updLink l (fun k => ({ k with holds := kept } : Link).drain (flitPayload (s.lnkMode l)))
    if (s.link l).state = 2 then s.payCredits l 100 else s

/-- The same for every link. -/
def State.settle (s : State) : State := (List.range 24).foldl State.settleLink s

/-- After flits have gone: what waits for a link goes on, and incoming links take up again what stood behind (R301, R340). -/
def State.afterSend (s : State) : State := (s.reroute).settle

/-- LINK_TRAINED, with the port's quanta admitted: the peer is recorded, the unacknowledged flits are resent first, and waiting traffic
goes. -/
def execLinkTrained (l : LinkId) (peer peerPort : Nat) (s : State) : Outcome State Fault Refusal :=
  .next (if (s.link l).state ≠ 1 || !s.portPowered l then s
    else
      let b := s.bufferCounts l
      let s := s.updLink l (fun k => { k.renumber b.1 b.2 with
        state := 2, peer := peer % 4096, peerPort := peerPort % 32, fails := 0, rxSeq := 0, nakked := false, resends := 0 })
      let fs := (s.link l).retry
      let s := fs.foldl (fun s f => s.emitFlit l f) (s.count (rLnkCnt (l / 2) 0x040) fs.length)
      ((s.reroute).pumpLink l).settle)

/-- A member that a valid route entry reaches over no link that could come UP: each is FAILED or DISABLED (R295). -/
def State.stranded (s : State) (d : Nat) : Bool :=
  let r := s.route d
  let gone := fun (p : Nat) => decide (24 ≤ p ∨ (s.link p).state = 5 ∨ (s.link p).state = 0)
  decide (d ≠ s.devId) && bitOf r 15 && gone (fld r 4 0) && gone (fld r 12 8)

/-- A link fails: its traffic moves, and a member left without a usable route is an error of its own (R292, R295). -/
def State.failLink (s : State) (l : Nat) : State :=
  let unit := 0x500 + l / 2
  let s := (s.moveAll l 5).logError 5 2 unit 0 0xF (l % 32 + (s.link l).peer % 4096 * 2 ^ 16) 0 0
  match s.memberIds.find? s.stranded with
  | some d => s.logError 5 4 unit 0 0xF (l % 32 + d % 4096 * 2 ^ 16) 0 0
  | none => s

/-- LINK_TRAINING_TIMEOUT: the third attempt in a row that fails ends in FAILED. -/
def execLinkTrainingTimeout (l : LinkId) (s : State) : Outcome State Fault Refusal :=
  .next (if (s.link l).state ≠ 1 then s
    else
      let s := s.updLink l (fun k => { k with fails := k.fails + 1 })
      if 3 ≤ (s.link l).fails then s.failLink l else s)

/-- LINK_RETRAIN: local recovery that keeps the retry buffer and the partial messages. 16 fruitless resends are counted here; loss of
signal and uncorrectable codewords come from outside. -/
def execLinkRetrain (l : LinkId) (cause : RetrainCause) (s : State) : Outcome State Fault Refusal :=
  .next (if (s.link l).state ≠ 2 || decide (cause = .resends ∧ (s.link l).resends < 16) then s
    else
      let s := (s.count (rLnkCnt (l / 2) 0x070) 1).updLink l (fun k => { k with state := 1, fails := 0, resends := 0 })
      (s.failOver l).logError 5 1 (0x500 + l / 2) 0 0xF (l % 32 + (s.link l).peer % 4096 * 2 ^ 16) 0 0)

/-! ### Retry (R294) -/

/-- Resends every unacknowledged flit from a position on. -/
def State.resendFrom (s : State) (l i : Nat) : State :=
  let fs := (s.link l).retry.drop i
  if fs.isEmpty then s
  else
    let s := ((s.count (rLnkCnt (l / 2) 0x068) 1).count (rLnkCnt (l / 2) 0x040) fs.length).updLink l (fun k => { k with resends := k.resends + 1 })
    fs.foldl (fun s f => s.emitFlit l f) s

/-- NAK naming a SEQ: it acknowledges the flits before (R293, R294); its credits come with FLIT_RECEIVED of the flit (log 140). -/
def execNak (l : LinkId) (seq : Nat) (s : State) : Outcome State Fault Refusal :=
  .next (if (s.link l).state ≠ 2 ∨ s.hubUp = false then s
    else
      match (s.link l).retry.findIdx? (fun f => decide (f.seq = seq)) with
      | some i => (s.updLink l (fun k => { k with retry := k.retry.drop i, resends := if i = 0 then k.resends else 0 })).resendFrom l 0
      | none => s)

/-- ACK_TIMEOUT: as a NAK of the oldest flit. -/
def execAckTimeout (l : LinkId) (s : State) : Outcome State Fault Refusal :=
  .next (if (s.link l).state ≠ 2 ∨ s.hubUp = false then s else s.resendFrom l 0)

/-- Takes the acknowledgement and the credits of an intact flit. -/
def Link.takeAck (k : Link) (ded sh : Nat) (f : WireFlit) : Link :=
  let k := match k.retry.findIdx? (fun x => decide (x.seq = f.ack)) with
    | some i => { k with retry := k.retry.drop (i + 1), resends := 0 }
    | none => k
  k.giveCredits ded sh f.crvc f.crn

/-- The partial message on a VC. -/
def Link.part (k : Link) (vc : Nat) : Option RxPart := k.parts.get (fun _ => none) vc

/-- A flit that the returning device discards: it comes before the next SOM flit of its VC (R307). -/
def Link.skips (k : Link) (f : WireFlit) : Bool := decide (f.vc ∈ k.toSom) && !f.som

/-- The partial message on a VC with one more flit. -/
def Link.grown (k : Link) (f : WireFlit) : RxPart :=
  match f.som, k.part f.vc with
  | false, some p => { p with data := p.data ++ f.payload }
  | _, _ => ⟨f.src, f.dst, f.mc, f.hops, f.payload⟩

/-- One more flit of a message on its VC: it joins the partial message, which the last flit makes a whole one. It stays in its buffer until
its message has gone on; of a message longer than the VC's dedicated buffers, with nothing before it, the oldest flit goes on as the next
comes in (R297, R299; log 21). -/
def Link.takeFlit (k : Link) (mode : Nat) (f : WireFlit) : Link :=
  if h : f.vc < 8 then
    if k.skips f then { k with skipped := withOne k.skipped f.vc, owed := k.owed.set f.vc (k.owed[f.vc] + 1) }
    else
      let p := k.grown f
      let n := if f.som then 1 else k.got[f.vc] + 1
      let ded := if mode = 0 then 32 else 16
      let k := if k.stopped f.vc || decide (k.used[f.vc] < ded) then { k with used := k.used.set f.vc (k.used[f.vc] + 1) } else { k with owed := k.owed.set f.vc (k.owed[f.vc] + 1) }
      let k := { k with toSom := without k.toSom f.vc, skipped := without k.skipped f.vc, got := k.got.set f.vc (if f.eom then 0 else n),
                        parts := k.parts.put (fun _ => none) f.vc (if f.eom then none else some p) }
      if f.eom then { k with ready := k.ready ++ [msgOf mode p.src p.dst p.mc f.vc p.hops n p.data] } else k
  else k

/-- Whether a flit is the first that is discarded of a partial message (R307). -/
def Link.dropsAt (k : Link) (f : WireFlit) : Bool := k.skips f && decide (f.vc ∉ k.skipped)

/-- A flit that the FEC cannot correct or whose CRC fails: discarded, with a NAK at the first one (R294). -/
def State.badFlit (s : State) (l : Nat) (f : Flit) : State :=
  let s := if f.fecBad then s else s.count (rLnkCnt (l / 2) 0x060) 1
  if (s.link l).nakked then s
  else (s.emitNak l).updLink l (fun k => { k with nakked := true })

/-- A message flit: taken when its SEQ is the expected one, discarded otherwise. -/
def State.msgFlit (s : State) (l : Nat) (f : WireFlit) : State :=
  let k := s.link l
  if f.ftype ≠ 1 ∨ f.seq ≠ k.rxSeq then s
  else
    let s := s.count (rLnkCnt (l / 2) 0x048) 1
    let s := if k.dropsAt f then s.count (rLnkCnt (l / 2) 0x090) 1 else s
    (s.updLink l (fun k => { k.takeFlit (s.lnkMode l) f with rxSeq := (f.seq + 1) % s.seqMod l, nakked := false })).emitIdle l


/-! ### Resets of the peer (R306, R307) -/

/-- A link finds its peer in reset: the partial messages go, the peer is flagged, and waiting traffic fails over. -/
def State.peerGone (s : State) (l state : Nat) : State :=
  let k := s.link l
  let s := s.count (rLnkCnt (l / 2) 0x090) k.partials
  let s := s.updLink l (fun k => { k with state := state, got := Vector.replicate 8 0, parts := [], nakked := false, resends := 0 })
  (s.setPeerDown k.peer true).failOver l

/-- An intact flit: what it acknowledges and the credits that it returns, then what it holds: a message flit, a NAK naming the SEQ after its ACK,
or a reset notice; and what the link can send now (R293, R294, R306). -/
def State.takeWire (s : State) (l : Nat) (f : WireFlit) : State :=
  let b := s.bufferCounts l
  let s := s.updLink l (fun k => k.takeAck b.1 b.2 f)
  if f.ftype = 3 then s.peerGone l 3
  else (((if f.ftype = 2 then s.resendFrom l 0 else s.msgFlit l f)).pumpLink l).afterSend

/-- FLIT_RECEIVED on a link that is UP: the codewords that ended with it count by what the FEC made of them (R316). -/
def execFlitReceived (l : LinkId) (f : Flit) (s : State) : Outcome State Fault Refusal :=
  .next (if (s.link l).state ≠ 2 ∨ s.hubUp = false then s
    else
      let s := (s.count (rLnkCnt (l / 2) 0x050) f.corrected).count (rLnkCnt (l / 2) 0x058) f.uncorrected
      if f.fecBad || crcFails (s.lnkMode l) f.bytes then s.badFlit l f else s.takeWire l (wireFlitOf (s.lnkMode l) f.bytes))

/-- RESET_NOTICE; its credits come with FLIT_RECEIVED of the flit (log 140). -/
def execResetNotice (l : LinkId) (s : State) : Outcome State Fault Refusal :=
  .next (if (s.link l).state = 2 then s.peerGone l 3 else s)

/-- PEER_LOST. -/
def execPeerLost (l : LinkId) (s : State) : Outcome State Fault Refusal :=
  .next (if (s.link l).state = 2 then s.peerGone l 4 else s)

/-- PEER_RETURN. -/
def execPeerReturn (l : LinkId) (s : State) : Outcome State Fault Refusal :=
  .next (if (s.link l).state = 3 ∨ (s.link l).state = 4 then s.updLink l (fun k => { k with state := 1, fails := 0 }) else s)

/-- A write of ERR_PEERDOWN_w by the host or the management bus: no event is posted (R381). -/
def State.writePeerDown (s : State) (w : Nat) (v : Word) : State :=
  let old := s.reg (rPeerDown w)
  let s := s.setReg (rPeerDown w) v
  s.peerDeferral (64 * w + ((List.range 64).find? (fun i => v.getLsbD i && !old.getLsbD i)).getD 0)

/-! ### Arriving messages (R299 to R305, R310) -/

/-- A message that R300 discards: a reserved type or BELAY sub-operation, a wrong class, length or multicast. -/
def State.badMsg (s : State) (l : Nat) (m : Msg) : Bool :=
  match m.body.cls with
  | none => true
  | some c =>
    (match m.body with | .belay (.reserved _) => true | _ => false) || !m.lenOk || (m.mc && decide (c ≠ 2)) ||
    decide (m.vc ≠ (if s.lnkMode l = 0 then 2 * c + m.vc % 2 else if c = 0 then 0 else 1))

/-- A whole message arrives: discarded, or delivered and forwarded as its destinations say. The hub consumes a CALL at once: no row
of the table is its own. -/
def State.arriveMsg (s : State) (l : Nat) (m : Msg) : State :=
  let cnt := fun (off : Nat) => (s.count (rLnkCnt (l / 2) off) 1).discardEntry l m
  if s.lnkMode l ≠ 0 ∧ (birovCarries (s.lnkMode l) m && s.birovDirect l m) = false then cnt 0x098
  else if s.badMsg l m then cnt 0x088
  else if 63 ≤ m.hops then cnt 0x080
  else if m.body = .belay .call ∧ (m.dst = s.devId ∨ m.mc = true ∧ m.dst2 = s.devId) then
    let s := if s.job.st = .running then s.takeCall m.step else s
    let far := if m.dst = s.devId then m.dst2 else m.dst
    if m.mc then (if far = s.devId then s else s.dispatchMsg l { m with dst := far, mc := false, dst2 := 0, hops := m.hops + 1 }).count (rLnkCnt (l / 2) 0x078) 1
    else s
  else if m.dst = s.devId ∧ m.mc = false then s.intoInbox m
  else s.dispatchMsg l { m with hops := m.hops + 1 }

/-- Whether a message is the oldest whole one of its VC, with nothing of the VC still on its way out. -/
def Link.nextOf (k : Link) (m : Msg) : Bool :=
  decide ((k.ready.find? (fun x => decide (x.vc = m.vc))) = some m) && !k.holds.any (fun e => decide (e.1 = m.vc))

/-- Whether a message would come to this device for a row ring that is full: the link is its producer, and holds it (R340). -/
def State.holdsUp (s : State) (m : Msg) : Bool :=
  (decide (m.dst = s.devId) && !s.ringFits m 0) ||
  (m.mc && decide (m.dst2 = s.devId) && !s.ringFits { m with dst := m.dst2 } 0)

/-- A link gives up a message: what of it has still to leave holds its VC, and what stood behind it comes free otherwise. -/
def State.passOn (s : State) (l : Nat) (m : Msg) : State :=
  let copies := [{ m with hops := m.hops + 1 }, { m with hops := m.hops + 1, mc := false, dst2 := 0 },
                 { m with dst := m.dst2, hops := m.hops + 1, mc := false, dst2 := 0 }]
  let raised := copies.map (fun c => { c with vc := c.vc + 1 })
  let left := (copies ++ raised).filter s.stillHere
  let s := s.updLink l (fun k =>
    ({ k with ready := k.ready.erase m, holds := if left.isEmpty then k.holds else k.holds ++ [(m.vc, left)] } : Link).drain
      (flitPayload (s.lnkMode l)))
  if (s.link l).state = 2 then s.payCredits l 100 else s

/-- MESSAGE_DELIVERY of the oldest whole message of a VC. -/
def execMessageDelivery (l : LinkId) (m : Msg) (s : State) : Outcome State Fault Refusal :=
  .next (if !(s.link l).nextOf m || !s.hubUp || s.holdsUp m then s else (s.arriveMsg l m).passOn l m)

end Sys2Proof.Machine
end

