-- ==== Sys2Proof/Machine/RegCheck.lean ====
section
/-! DEFINITION. The values that a register does not take: reserved codes and values outside a field's range (R7), and the job
image's writes of registers (R21). -/
namespace Sys2Proof.Machine

/-! ### Reserved codes (R7) -/

/-- EMB_COAL_CFG of a tile: the region's start and length. -/
def State.coalRegion (s : State) (t : Nat) : Nat × Nat :=
  let w := s.reg (tileReg t 6 0x000)
  (64 * wfld w 63 47, 64 * wfld w 46 30)

/-- The hot-set directory of an EMB_HOT_CFG value: start and length. -/
def hotDir (v : Nat) : Nat × Nat := (64 * fld v 63 47, 64 * 2 ^ fld v 46 43)

/-- Its row slots. -/
def hotSlots (v : Nat) : Nat × Nat := (64 * fld v 41 25, 4 * 2 ^ fld v 46 43 * (64 * fld v 24 13))

/-- Whether a range of SRAM offsets does not fit below 6 MiB. -/
def beyondSram (r : Nat × Nat) : Bool := decide (sramSize < r.1 + r.2)

/-- Whether two ranges share a byte. -/
def meets (a b : Nat × Nat) : Bool := overlaps a.1 a.2 b.1 b.2

/-- Whether the bits that a write reaches are some of bits hi down to lo. -/
def reaches (mask hi lo : Nat) : Bool := decide (mask &&& maskOf hi lo ≠ 0)

/-- EMB_HOT_CFG values that are reserved codes (R227). A code of one field is judged when the write reaches that field; whether
the set fits is judged on the register as it would be (log 127). -/
def State.hotReserved (s : State) (t mask v : Nat) : Bool :=
  (reaches mask 46 43 && decide (12 < fld v 46 43)) || (reaches mask 24 13 && decide (fld v 24 13 = 0)) ||
  beyondSram (hotDir v) || beyondSram (hotSlots v) ||
  meets (hotDir v) (s.coalRegion t) || meets (hotSlots v) (s.coalRegion t)

/-- EMB_COAL_CFG values that are reserved codes (R217): a BASE that is no address of tile SRAM, a SIZE larger than it. -/
def coalReserved (mask v : Nat) : Bool :=
  (reaches mask 63 47 && decide (sramSize ≤ 64 * fld v 63 47)) || (reaches mask 46 30 && decide (sramSize < 64 * fld v 46 30))

/-- EMB_SPILL values that are reserved codes (R217): an area that begins outside the general region of R172. With SIZE 0 there is
no area, and BASE is not judged (log 127). -/
def State.spillReserved (s : State) (v : Nat) : Bool :=
  decide (fld v 15 0 ≠ 0) && !inside (fld v 35 16 * unit16M) 1 t1Base ((s.stage).1 - t1Base)

/-- Tile registers, where a write reaches the bits of `mask`. -/
def State.tileReserved (s : State) (t b off mask v : Nat) : Bool :=
  match b with
  | 0 => offIn off 0x0C0 4 8 && decide (6144 ≤ v % 2 ^ 13)
  | 6 =>
    if off = 0x000 then coalReserved mask v
    else if off = 0x008 then s.spillReserved v
    else if off = 0x010 then s.hotReserved t mask v
    else decide (off = 0x018) && decide (fld v 46 31 = 0 ∨ fld v 46 31 ≤ fld v 30 15)
  | _ => false

/-- Hub registers. -/
def hubReserved (k off v : Nat) : Bool :=
  match k, off with
  | 3, 0x000 => decide (fld v 12 8 < 4 ∨ 16 < fld v 12 8)
  | 3, 0x008 => decide (v % 2 ^ 12 < 1600 ∨ 3200 < v % 2 ^ 12)
  | 4, 0x000 => decide (v % 2 ^ 33 < 2500 ∨ 2 ^ 32 < v % 2 ^ 33)
  | 4, 0x008 => decide (v % 2 ^ 16 < 4 ∨ 64 < v % 2 ^ 16)
  | 5, 0x008 => decide (v % 2 ^ 16 < 1 ∨ 4 < v % 2 ^ 16)
  | 5, 0x018 => decide (fld v 25 24 = 3)
  | 6, 0x008 => decide (8 < v % 16)
  | 7, 0x000 => decide (v % 16 = 0)
  | 7, 0x008 => decide (v % 2 ^ 16 < 1024 ∨ 16384 < v % 2 ^ 16)
  | 9, 0x030 => decide (v % 4 = 3)
  | 0x10, _ => decide (0x8000 ≤ off) && decide (24 ≤ v % 2 ^ 5 ∨ (24 ≤ fld v 12 8 ∧ fld v 12 8 ≤ 30))
  | _, _ => false

/-- Whether a write that reaches the bits of `mask` would give a register a reserved code by leaving it at value v. -/
def State.regReserved (s : State) (a mask : Nat) (v : Word) : Bool :=
  match tileRegAt a with
  | some (t, b, off) => s.tileReserved t b off mask v.toNat
  | none =>
    match hubRegAt a with
    | some (k, off) => (decide (0x10 ≤ k ∧ off = 0) && lnkCfgReserved v.toNat) || hubReserved k off v.toNat
    | none => false

/-! ### Storing (R5, R6) -/

/-- The value of a register after its RW bits of a mask have taken a value. -/
def mergeRw (i : RegInfo) (old v : Word) (mask : Nat) : Word :=
  let m := BitVec.ofNat 64 (i.rw &&& mask)
  (old &&& ~~~m) ||| (v &&& m)

/-- Stores a register's RW fields; LNK_CFG and ERR_PEERDOWN_w act. -/
def State.storeReg (s : State) (a : Nat) (v : Word) : State :=
  match hubRegAt a with
  | some (k, off) =>
    if 0x10 ≤ k ∧ off = 0 then s.writeLnkCfg (k - 0x10) v.toNat
    else if k = 4 && offIn off 0x400 64 8 then s.writePeerDown ((off - 0x400) / 8) v
    else s.setReg a v
  | none => s.setReg a v

/-- One write of a job image. -/
def State.imageWrite (s : State) (w : Nat × Word) : State :=
  match regInfo w.1 with
  | some i => s.storeReg w.1 (mergeRw i (s.reg w.1) w.2 (2 ^ 64 - 1))
  | none => s

/-- Whether a job image may write a register with a value: the register has RW fields, and no code is reserved in the state
that all the image's writes leave (R21). -/
def State.imageWriteBad (s after : State) (w : Nat × Word) : Bool :=
  match regInfo w.1 with
  | some i => decide (i.rw = 0) || after.regReserved w.1 (2 ^ 64 - 1) (mergeRw i (s.reg w.1) w.2 (2 ^ 64 - 1))
  | none => true

end Sys2Proof.Machine
end

