-- ==== Sys2Proof/Machine/HostCmd.lean ====
section
/-! DEFINITION. Host commands: the next entry of the HOSTCMD queues, LOAD, START, STOP, UNLOAD and the version commands (R21, R125,
R210 to R213, R260, R289, R311, R329, R335 to R338, R399, R417, R447). -/
namespace Sys2Proof.Machine

open Host (Outcome)

/-! ### The next entry (R335, R462) -/

/-- The HOSTCMD queue in turn: queues in ascending order, round-robin among those with entries. -/
def State.cmdQueue (s : State) : Option Nat :=
  let qs := s.queueIds.filter (fun q => let d := s.desc q; d.valid && decide (d.cls = 0 ∧ d.head ≠ d.tail))
  (qs.find? (fun q => decide (s.qm.cmdFrom ≤ q))).orElse (fun _ => qs.head?)

/-- Whether a field replay runs: it takes its inputs from the record and reads no host ring (R421). -/
def State.fieldReplay (s : State) : Bool := s.book.field && decide (s.job.st = .running) && s.step.halted.isNone

/-- Whether the hub takes a command: it runs, no earlier one waits, and no field replay runs. -/
def State.hostReady (s : State) : Bool :=
  s.hubUp && decide (s.sec.boot = .running ∧ (s.rst.phase = .none ∨ s.rst.phase = .rejoining)) && s.rst.trigger.isNone &&
  s.job.stopReq.isNone && s.job.startReq.isNone && s.job.readyReq.isNone && !s.fieldReplay

/-- The operand bits of QW1 to QW4 of an operation code; none for a reserved code (R336). -/
def operandBits (opc : Nat) : Option (List Nat) :=
  let all := 2 ^ 64 - 1
  match opc with
  | 1 => some [all, all, 0, 0]
  | 2 => some [all, all, all, 0x1FFF]
  | 3 => some [1, 0, 0, 0]
  | 4 => some [0, 0, 0, 0]
  | 5 => some [0x33F, 0, 0, 0]
  | 6 => some [0x33F, 0, 0, 0]
  | 7 => some [0x33F, all, 0, 0]
  | _ => none

/-- A reserved operation code, or a nonzero unused bit. -/
def cmdInvalid (w : List Nat) : Bool :=
  match operandBits (fld (w.getD 0 0) 63 56) with
  | none => true
  | some ms => decide (fld (w.getD 0 0) 39 0 ≠ 0) ||
      (List.range 7).any (fun i => decide (w.getD (i + 1) 0 ≠ (w.getD (i + 1) 0) &&& ms.getD i 0))

/-- A command's row, which the route book records in a running job (R415): it acts when the entry in turn is one of its own. An entry that is no valid command completes with status 0x09
under any row, and one that cannot be read with TAG 0 as well. -/
def State.hostCommand (s : State) (mine : List Nat → Bool) (act : Nat → Nat → List Nat → State → State) : State :=
  match s.hostReady, s.cmdQueue with
  | true, some q =>
    let d := s.desc q
    if s.farWaits (d.entryAt d.head) then s
    else
    let y := s.readMem (d.entryAt d.head) 64
    let s' := (y.1.useQueue q).setHead q ((d.head + 1) % 2 ^ 32)
    let s' := { s' with qm := { s'.qm with cmdFrom := q + 1 } }
    match y.2 with
    | none => (s'.noteError (farClass (d.entryAt d.head)) 1 (d.entryAt d.head)).hostDone q 0 9 0
    | some bs =>
      let w := bodyOf bs
      let tag := fld (w.getD 0 0) 55 40
      let kept := if s'.job.st = .running then s'.record 1 0 0 s'.step.no s'.step.att w else s'
      if cmdInvalid w then kept.hostDone q tag 9 0
      else if !mine w then s
      else act q tag w kept
  | _, _ => s

/-- Whether an entry has an operation code. -/
def hasOpc (n : Nat) (w : List Nat) : Bool := decide (fld (w.getD 0 0) 63 56 = n)

/-! ### LOAD: checks (R21, R183, R185, R222, R247, R248, R258, R336) -/

/-- A range list of offsets lies below 6 MiB. -/
def rangesFit (l : List (Nat × Nat)) : Bool := l.all (fun r => !beyondSram r)

/-- A program section beyond its tile's SRAM, or a step set with a context that has no entry point. -/
def sectionBad (x : TileSection) : Bool :=
  decide (640 ≤ x.tile) || !rangesFit (x.chunks.map (fun c => (c.1, c.2.length))) || !rangesFit x.committed ||
  !rangesFit x.commitInputs || x.stepSet.any (fun c => !x.entries.any (fun e => decide (e.1 = c))) ||
  x.entries.any (fun e => decide (4 ≤ e.1))

/-- The checks of a queue descriptor (R329), with the reserves as they will be. -/
def State.queueDescBad (s : State) (q : Nat) (w : List Nat) : Bool :=
  let d := QDesc.ofWords (fun i => w.getD i 0)
  let len := entrySize d.cls * 2 ^ d.log2n
  !s.queueExists q || decide (d.cls = 7 ∨ d.log2n < 4 ∨ 20 < d.log2n ∨ d.ring % 64 ≠ 0) || !s.hostReadable d.ring len

/-- A buffer's STORE, OUT and RREC ranges. -/
def BufDesc.ranges (b : BufDesc) : List (Nat × Nat) := [(b.store, 16 * b.nelem), (b.out, 4 * b.nelem), (b.rrec, 64)]

/-- The declared step outputs in a tile's window, as window ranges (R266). -/
def outputsOf (i : JobImage) (t : Nat) : List (Nat × Nat) :=
  let base := t * tileSpan
  (i.outputs.filter (fun r => overlaps r.1 r.2 base sramSize)).map (fun r => (r.1 - base, r.1 + r.2 - max r.1 base))

/-- The ranges of a tile that the job record must not touch (R258). -/
def State.recordBars (s : State) (i : JobImage) (x : TileSection) : List (Nat × Nat) :=
  let pin := s.reg (tileReg x.tile 6 0x018)
  let hot := (s.reg (tileReg x.tile 6 0x010)).toNat
  s.shadowRanges x ++ outputsOf i x.tile ++
  ((i.buffers.map BufDesc.ofWords).filter (fun b => decide (b.tile = x.tile))).flatMap BufDesc.ranges ++
  [s.coalRegion x.tile, (64 * wfld pin 63 47, 16 * wfld pin 46 31)] ++
  (if bitOf hot 42 then [hotDir hot, hotSlots hot] else [])

/-- The job record's place in every tile of a step set. -/
def State.recordBad (s : State) (i : JobImage) : Bool :=
  let r := (64 * fld (i.redHeader.getD 0 0) 46 30, 64)
  i.sections.any (fun x => !x.stepSet.isEmpty && (beyondSram r || (s.recordBars i x).any (meets r)))

/-- The identity of an image: SM3 over every byte but those of the digest that it carries (R21). -/
def imageDigest (i : JobImage) (bs : List Byte) : Nat := sm3 (bs.take i.digestAt ++ bs.drop (i.digestAt + 32))

/-- The digest that an image carries. -/
def imageCarried (i : JobImage) (bs : List Byte) : Nat := beVal ((bs.drop i.digestAt).take 32)

/-- What makes an image invalid (status 0x03), with its bytes; `after` holds the values that its writes leave. -/
def State.imageBad (s after : State) (i : JobImage) (bs : List Byte) : Bool :=
  decide (i.headerLen ≠ bs.length ∨ bs.length < i.digestAt + 32 ∨ imageDigest i bs ≠ imageCarried i bs ∨ 64 < i.tables.length ∨ i.tiers.length ≠ i.tables.length ∨ 1024 < i.buffers.length) ||
  !i.sectionsInside || i.sections.any sectionBad || decide (¬ (i.sections.map (·.tile)).Nodup) ||
  decide (i.phase = some (0, 0)) || i.regWrites.any (s.imageWriteBad after) || after.recordBad i ||
  i.queues.any (fun q => after.queueDescBad q.1 q.2)

/-- A table descriptor that breaks R185, R280 (residue with another rounding than RTZ) or R282 (a reserved OPT, or a momentum
without a first moment). -/
def TableDesc.bad (d : TableDesc) : Bool :=
  decide (d.fmt ∉ [1, 2, 0xB, 0xC, 0xD]) || (d.res && decide (d.fmt ≠ 2)) || decide (d.stride < d.rowSize ∨ 640 < d.tbase + d.nt) ||
  (!d.hash && decide (d.shrows * d.nsh < d.nrows)) ||
  (List.range 4).any (fun v =>
    let b := d.vbase.getD v 0
    if v < d.vcnt then decide (b = 0 ∨ b % 64 ≠ 0) else decide (b ≠ 0)) ||
  !(bitOf d.place 3 || bitOf d.place 2) || (bitOf d.place 3 && !bitOf d.place 2) ||
  (d.res && decide (d.urnd ≠ 1)) || decide (3 < d.opt) || (decide (d.opt = 1 ∨ d.opt = 3) && !d.m1)

/-- A tier descriptor that breaks R222. The load knows no membership: every job but a base camp job has members besides this device
(R289, R447), so a table that is not gathered, and thus whole on every device, is one of which some device holds no shard or only a part. -/
def State.tierBad (s : State) (n : Nat) (d : TableDesc) (k : TierDesc) (baseCamp : Bool) : Bool :=
  (d.hash && decide (k.dirLog = 0)) ||
  (List.range d.vcnt).any (fun v => decide (tierOf (d.vbase.getD v 0) = .t2 ∧ k.dirBase.getD v 0 = 0)) ||
  decide (k.dirLog ≠ 0 ∧ k.poolRows = 0) ||
  (!s.gathered n && decide (k.mirSets = 0) && !(baseCamp && decide (s.owners d = [s.devId])))

/-- Whether some table's descriptors are invalid (status 0x04). -/
def State.tablesBad (s : State) (i : JobImage) : Bool :=
  (List.range i.tables.length).any (fun n =>
    let d := TableDesc.ofWords (i.tables.getD n [])
    d.bad || s.tierBad n d (.ofWords (i.tiers.getD n [])) i.baseCamp)

/-- A buffer descriptor that breaks R248. -/
def bufBad (w : List Nat) : Bool :=
  let b := BufDesc.ofWords w
  let q := fun i => w.getD i 0
  decide (2 ≤ b.kind ∨ 640 ≤ b.tile ∨ b.nelem = 0 ∨ 262144 < b.nelem ∨ (b.mode = 1 ∧ b.kind ≠ 1)) ||
  decide (fld (q 0) 33 0 ≠ 0 ∨ fld (q 1) 9 0 ≠ 0 ∨ fld (q 2) 46 0 ≠ 0) || [3, 4, 5, 6, 7].any (fun i => decide (q i ≠ 0)) ||
  !rangesFit b.ranges

/-- Whether the buffers are invalid (status 0x05). -/
def buffersBad (i : JobImage) : Bool :=
  let bs := i.buffers.map BufDesc.ofWords
  i.buffers.any bufBad ||
  (List.range bs.length).any (fun n => (List.range bs.length).any (fun m =>
    match bs[n]?, bs[m]? with
    | some a, some b => decide (a.tile = b.tile) &&
        ((decide (n ≠ m) && meets (a.store, 16 * a.nelem) (b.store, 16 * b.nelem)) ||
         meets (a.store, 16 * a.nelem) (b.out, 4 * b.nelem) || meets (a.store, 16 * a.nelem) (b.rrec, 64))
    | _, _ => false)) ||
  bs.any (fun b => !i.sections.any (fun x => decide (x.tile = b.tile) && !x.stepSet.isEmpty))

/-- A coalescer, spill or pin configuration of a tile that does not fit (status 0x07). -/
def State.configMisfit (s : State) (t : Nat) : Bool :=
  let sp := s.reg (tileReg t 6 0x008)
  let pin := s.reg (tileReg t 6 0x018)
  let base := wfld sp 35 16 * unit16M
  let len := wfld sp 15 0 * unit16M
  beyondSram (s.coalRegion t) || beyondSram (64 * wfld pin 63 47, 16 * wfld pin 46 31) ||
  (decide (len ≠ 0) && !inside base len t1Base ((s.stage).1 - t1Base))

/-- The tiles whose registers an image writes. -/
def imageTiles (i : JobImage) : List Nat :=
  (i.regWrites.filterMap (fun w => (tileRegAt w.1).map (·.1))).eraseDups

/-! ### LOAD: effect -/

/-- Registers that a load clears: RC counters other than those kept through device reset, sticky flags, fault and error records (R58,
R122, R154, R182). -/
def loadClears (a : Nat) : Bool :=
  match tileRegAt a, regInfo a with
  | some (_, b, off), some i => decide (i.rc ≠ 0) || (decide (b = 0) && (offIn off 0x040 4 8 || offIn off 0x0A0 4 8 || decide (off = 0x128)))
  | none, some i => decide (i.rc ≠ 0) && !keptReg a
  | _, none => false

/-- The reserve sizes that the size registers hold (R172). -/
def State.newSizes (s : State) : Nat × Nat × Nat :=
  (wfld (s.reg rDumpSize) 15 0, wfld (s.reg rDtabSize) 15 0, wfld (s.reg rStageSize) 15 0)

/-- The state that the image's register writes leave, under the new reserve sizes. -/
def State.configured (s : State) (i : JobImage) : State :=
  let s := i.regWrites.foldl State.imageWrite s
  { s with job := { s.job with sizes := s.newSizes } }

/-- Empties a tile's hot set (R238). -/
def State.emptyHot (s : State) (t : Nat) : State :=
  let hot := (s.reg (tileReg t 6 0x010)).toNat
  if bitOf hot 42 then s.wipe (sram t (hotDir hot).1) (hotDir hot).2 else s

/-- Writes the tile's initial SRAM contents, and empties its hot set (R21, R238). -/
def State.loadSection (s : State) (x : TileSection) : State := (s.putRuns x.tile x.chunks).emptyHot x.tile

/-- Writes the image's queue descriptors. -/
def State.loadQueues (s : State) (i : JobImage) : State :=
  i.queues.foldl (fun s q =>
    let s := s.pokeBurst (s.descAt q.1) (((List.range 8).map (fun j => leBytes 8 (q.2.getD j 0))).flatten)
    { s with qm := { s.qm with stopped := without s.qm.stopped q.1, sent := s.qm.sent.put (fun _ => 0) q.1 0 } }) s

/-- The contents of every reserve whose base or size has changed are undefined (R172). -/
def State.spoil (s old : State) : State :=
  let rs := ([(old.dumpRegion, s.dumpRegion), (old.dtab, s.dtab), (old.stage, s.stage)].filter (fun p => decide (p.1 ≠ p.2))).map (·.2)
  if rs.isEmpty then s
  else { s with
    mem := s.mem.filter (fun (c : Host.Cell) => !rs.any (fun r => inside c.1 1 r.1 r.2)),
    undef := rs.map (fun r => (s.freeCtr, r)) ++ s.undef, freeCtr := s.freeCtr + 1 }

/-- The tiles as a load finds them: nothing but where their patrol scrub stands (R166). -/
def State.freshTiles (s : State) : SMap Tile :=
  s.tiles.foldl (fun m e => m.put (fun _ => Tile.reset) e.1 { Tile.reset with scrub := e.2.scrub }) []

/-- Takes a checked image (R21, R212, R430). -/
def State.takeImage (s : State) (i : JobImage) (addr len ident : Nat) : State :=
  let s := { s with regs := s.regs.filter (fun r => !loadClears r.1), tiles := s.freshTiles, vpins := [], signals := [], bufs := [], emb := .reset }
  let s := ((s.configured i).spoil s).loadQueues i
  let s := i.sections.foldl State.loadSection s
  let s := allTiles.foldl State.emptyHot s
  { s with
    job := { s.job with st := .loaded, img := some i, addr := addr, len := len, ident := ident, members := [], baseRun := false },
    sec := { s.sec with meas := s.sec.meas.set 4 (extendMeas 0 ident) } }

/-- LOAD of an image that was read. -/
def State.loadImage (s : State) (i : JobImage) (bs : List Byte) (addr : Nat) : State × Nat :=
  let after := s.configured i
  if s.imageBad after i bs then (s, 3)
  else if after.tablesBad i then (s, 4)
  else if buffersBad i then (s, 5)
  else if (imageTiles i).any after.configMisfit then (s, 7)
  else (s.takeImage i addr bs.length (imageDigest i bs), 0)

/-- LOAD: the status, after the state. The command brings what the bytes spell (log 12), and a read of host memory that the host link fails; a read
that fails is logged. -/
def State.loadFrom (s : State) (img : ImageRead) (addr len : Nat) : State × Nat :=
  if s.job.st = .running then (s, 1)
  else if !s.hostReadable addr len || (s.mgmt.base && decide (tierOf addr ≠ .t2)) then (s, 3)
  else
    let y := s.readMem addr len
    match y.2, img with
    | none, _ => (y.1.noteError (farClass addr) 1 addr, 3)
    | some _, .unreadable =>
      let w := y.1.draw
      (w.2.noteError (farClass addr) 1 w.1.toNat, 3)
    | some _, .malformed => (y.1, 3)
    | some bs, .image i => y.1.loadImage i bs addr

/-- LOAD; one of an image in T2 waits for the host link (R318). -/
def execLoad (img : ImageRead) (s : State) : Outcome State Fault Refusal :=
  .next (s.hostCommand (fun w => hasOpc 1 w && (decide (s.job.st = .running) || !s.farWaits (w.getD 1 0))) (fun q tag w s =>
    let r := s.loadFrom img (w.getD 1 0) (w.getD 2 0)
    r.1.hostDone q tag r.2 0))

/-- What is left of a tile without a job: the side memory with its valid flags, the scrubber's place, and PARKED contexts (R119, R385). -/
def Tile.idle (x : Tile) : Tile :=
  { Tile.reset with side := x.side, sideValid := x.sideValid, scrub := x.scrub,
                    ctxs := x.ctxs.map (fun c => if c.mode = .parked then { Ctx.reset with mode := .parked } else Ctx.reset) }

/-- The tiles without a job. -/
def State.idleTiles (s : State) : SMap Tile := (s.tiles.map (fun e => (e.1, e.2.idle))).filter (fun e => decide (e.2 ≠ Tile.reset))

/-- UNLOAD. -/
def execUnload (s : State) : Outcome State Fault Refusal :=
  .next (s.hostCommand (hasOpc 4) (fun q tag _ s =>
    match s.job.st with
    | .running => s.hostDone q tag 1 0
    | .empty => s.hostDone q tag 2 0
    | .loaded =>
      ({ s with
        tiles := s.idleTiles, vpins := [], bufs := [], emb := .reset,
        job := { s.job with st := .empty, img := none, ident := 0, members := [], baseRun := false },
        sec := { s.sec with meas := s.sec.meas.set 4 0 } } : State).hostDone q tag 0 0))

/-! ### START: checks (R260, R265, R289, R311, R337, R447) -/

/-- One membership entry; none when it breaks R337. -/
def memberOf (e : Nat) : Option Member :=
  if decide (fld e 63 27 ≠ 0 ∨ fld e 25 24 = 3) || (!bitOf e 26 && decide (fld e 23 12 ≠ 0)) then none
  else some ⟨fld e 11 0, if bitOf e 26 then some (fld e 23 12) else none, fld e 25 24⟩

/-- Every entry, or none. -/
def membersOf : List Nat → Option (List Member)
  | [] => some []
  | e :: r => (memberOf e).bind (fun m => (membersOf r).map (m :: ·))

/-- A partner that is no other E640 member. -/
def partnerBad (ms : List Member) (m : Member) : Bool :=
  match m.partner with
  | none => false
  | some p => decide (p = m.id) || !ms.any (fun o => decide (o.id = p ∧ o.kind = 0))

/-- Whether a Birov member is reached over a direct link of its mode. -/
def State.birovReached (s : State) (m : Member) : Bool :=
  let r := s.route m.id
  let l := fld r 4 0
  bitOf r 15 && decide (s.lnkMode l = m.kind ∧ (s.link l).state = 2 ∧ (s.link l).peer = m.id)

/-- The conditions of R260 and R311 on a job with Birov members. -/
def State.birovBad (s : State) (i : JobImage) (ms : List Member) : Bool :=
  let birov := ms.filter (fun m => decide (m.kind ≠ 0))
  let low := (ms.map (·.id)).foldl min 4095
  !birov.isEmpty &&
  (i.buffers.any (fun w => decide ((BufDesc.ofWords w).mode = 0)) || birov.any (fun m => decide (m.id = low)) ||
   birov.any (fun m => !s.birovReached m) || (birov.any (fun m => decide (m.kind = 2)) && !bitOf (s.reg rStepCtl).toNat 0))

/-- Membership error. -/
def State.membersBad (s : State) (i : JobImage) (ms : List Member) : Bool :=
  decide (¬ (ms.map (·.id)).Nodup) || !ms.any (fun m => decide (m.id = s.devId)) || ms.any (partnerBad ms) || s.birovBad i ms

/-- The room that two commit sets take at most (R265). -/
def State.commitRoom (s : State) (i : JobImage) : Nat :=
  2 * (i.sections.map (fun x => (x.commitInputs.map (·.2)).sum + 1088 * x.stepSet.length)).sum +
  2 * (allTiles.map (fun t => s.coalSize t + s.spillSize t)).sum

/-- What a base camp job's image must meet (R447). -/
def baseImageBad (i : JobImage) : Bool :=
  (match i.phase with | some (g, l) => decide (g = 0 ∨ l ≠ 0) | none => true) || !i.buffers.isEmpty ||
  i.tables.any (fun w =>
    let d := TableDesc.ofWords w
    d.hash || (List.range d.vcnt).any (fun v => decide (tierOf (d.vbase.getD v 0) ≠ .t2)))

/-- The status of START for a membership that was read. -/
def State.startStatus (s : State) (i : JobImage) (ms : List Member) : Nat :=
  if s.mgmt.base && !i.baseCamp then 3
  else if i.baseCamp && (baseImageBad i || ms.any (fun m => m.partner.isSome) || decide (ms.length = 0 ∨ 4096 < ms.length)) then 3
  else if (!i.baseCamp && decide (ms.length < 8 ∨ 4096 < ms.length)) || s.membersBad i ms then 6
  else if !i.baseCamp && decide ((s.stage).2 < s.commitRoom i) then 7
  else 0

/-! ### START: effect -/

/-- The tile as a section starts it: contexts with an entry point run there, but a PARKED one stays so (R125, R385). -/
def startedTile (x : TileSection) (base : Tile) : Tile :=
  x.entries.foldl (fun t e =>
    if h : e.1 < 4 then if (t.ctxs[e.1]).mode = .parked then t else t.setCtx ⟨e.1, h⟩ { Ctx.reset with mode := .run, tag := Vector.replicate 16 3, pc := BitVec.ofNat 24 e.2 } else t)
    base

/-- Starts a tile: its contexts, their save records, TILE_STEP. -/
def State.startTile (s : State) (n : Nat) (x : TileSection) : State :=
  if h : x.tile < 640 then
    let s := (s.setTile x.tile (startedTile x (s.tile x.tile))).setReg (rTileStep x.tile) (BitVec.ofNat 64 n)
    allCtxs.foldl (fun s c =>
      let l : Loc := ⟨⟨x.tile, h⟩, c⟩
      if (s.ctx l).mode = .run then ((s.writeSave l (s.ctx l).pc).1).sitOut l n else s) s
  else s

/-- Version slots at job start: slot 0 CURRENT, a slot that was CURRENT READY (R210). -/
def startSlots (l : SMap (List Nat)) : SMap (List Nat) :=
  l.filterMap (fun e =>
    let st := (e.2.map (fun x => if x = 0 then 1 else x)).set 0 0
    if st = [0, 3, 3, 3] then none else some (e.1, st))

/-- The T1 pool slots in use, as the directories show them (R223, R232). -/
def State.poolScan (s : State) : List PoolSlot :=
  (List.range s.nTables).flatMap (fun t =>
    let k := s.tierDesc t
    let stride := match s.table t with | some d => d.stride | none => 1
    (List.range 4).flatMap (fun v =>
      let b := k.dirBase.getD v 0
      if k.dirLog = 0 ∨ b = 0 then []
      else
        let at' := if s.undef.all (fun r => decide (r.2.1 + r.2.2 ≤ t1Base)) then
            (s.mem.filter (fun (c : Host.Cell) => inside c.1 1 b (64 * 2 ^ k.dirLog) && decide ((c.1 - b) % 32 = 0) && c.2.getLsbD 0)).map (·.1)
          else ((List.range (2 * 2 ^ k.dirLog)).map (fun i => b + 32 * i)).filter (fun a => (s.byte a).getLsbD 0)
        at'.filterMap (fun a =>
        let e := s.dirEntry a
        let loc := fld e 255 192
        if inside loc 1 k.poolBase (k.poolRows * stride) then some (⟨t, (loc - k.poolBase) / stride, v, fld e 127 88⟩ : PoolSlot) else none)))

/-- The shadows of every shadowed range as SRAM holds it (R402); a range that cannot be read is an error of its tile. -/
def State.firstShadows (s : State) (i : JobImage) : State :=
  i.sections.foldl (fun s x => (s.shadowRanges x).foldl (fun s r =>
    let y := s.readT0 (sram x.tile r.1) r.2
    match y.2 with
    | some bs => y.1.fillShadow x.tile r.1 bs
    | none => y.1.memError x.tile 0 0xF (sram x.tile r.1)) s) s

/-- The sealed export copy of cairn n, in the region that BLY_EXPORT names. -/
def State.exportOf (s : State) (n : Nat) : Option ExportSlot :=
  s.belay.expSlots.find? (fun k => decide (k.addr = s.exportAddr ∧ k.cairn = n ∧ k.crc = crc32c (k.items.flatMap BelayItem.bytes)))

/-- Restores the device from a sealed export copy (R414, R420, R421); a restored row has no residue, and contexts that are not PARKED go on from the
restart points of that cairn (log 70). The recorded inputs and switches are given again. -/
def State.fromExports (s : State) (k : ExportSlot) : State :=
  let s := k.items.foldl (fun s i => match i with
    | .row t v x bs => s.fillRow t v x bs
    | .shadow t o bs => s.fillShadow t o bs
    | .record _ => s) s
  let recs := (s.belay.expBook.filter (fun e => decide (e.1 = k.addr))).map (·.2)
  let s := { s with book := { s.book with recs := recs } }
  let s := (s.updCairn (fun c => { c with lastC := k.cairn })).takeCairn (k.items.filterMap (fun i => match i with | .record r => some r | _ => none))
  let s := (s.fromShadow).backTo (if s.book.field then none else s.recordedEnd k.cairn)
  ((s.allStepCtxs).filter (fun l => (s.ctx l).alive)).foldl State.loadSave s

/-- The first cairn is of the starting step, a full one (R401, R404); a base camp job takes none. -/
def State.firstCairn (s : State) (n : Nat) : State :=
  if s.job.baseRun then s
  else (s.updCairn (fun k => { k with next := n, st := 1, full := true, mark := s.aon.toNat })).startCopies

/-- START waits for its fill: no step-set context issues anything before (R417). -/
def State.startFill (s : State) (n : Nat) : State :=
  let s := (s.allStepCtxs).foldl State.holdCtx s
  let s := { s with step := { s.step with stopped := true } }
  (s.updCairn (fun k => { k with lastC := n, st := 5, full := true, mark := s.aon.toNat })).askFill 2 [wholeStream]

/-- The job starts (R125, R262, R399). A restore without a source that holds the cairn ends it again (R27, R420); a base camp job has none. -/
def State.startJob (s : State) (q tag : Nat) (i : JobImage) (ms : List Member) (seed n : Nat) : State :=
  let src : Nat := wfld (s.reg (hubReg 9 0x030)) 1 0
  let s := { s with
    job := { s.job with st := .running, seed := seed, members := ms, baseRun := i.baseCamp, startReq := some (q, tag) },
    tiles := s.idleTiles, signals := [], bufs := [],
    rst := { s.rst with levelOne := false },
    step := { StepState.reset with no := n },
    emb := { EmbState.reset with slots := startSlots s.emb.slots },
    cairn := CairnState.reset,
    book := { RouteBook.reset with field := bitOf (s.reg rReplay).toNat 0 },
    belay := { s.belay with store := [], got := [], fed := [], corr := false, fill := 0, fillSeq := 0, fillLeft := [], expOpen := [] } }
  let s := { s with emb := { s.emb with pool := s.poolScan } }
  let s := (i.sections.foldl (fun s x => s.startTile n x) s).firstShadows i
  let s := ((s.clearBuffers (fun _ => true)).toPartner 0 (.feed s.belay.feed)).recordRings
  let go := fun (s : State) => (((s.firstCairn n).allArrived).servePins).startDone
  if i.baseCamp then go s
  else match src with
    | 1 => if s.partner.isSome then s.startFill n else s.failJob
    | 2 => (match s.exportOf n with
      | some k => go (s.fromExports k)
      | none => s.failJob)
    | _ => go s

/-- The membership table's words; none when the table cannot be read. -/
def State.readMembers (s : State) (addr n : Nat) : State × Option (List Nat) :=
  if !s.hostReadable addr (8 * n) then (s, none)
  else
    let y := s.readMem addr (8 * n)
    match y.2 with
    | some bs => (y.1, some (bodyOf bs))
    | none => (y.1.noteError (farClass addr) 1 addr, none)

/-- START with the job LOADED. -/
def State.startWith (s : State) (q tag : Nat) (i : JobImage) (w : List Nat) : State :=
  let y := s.readMembers (w.getD 3 0) (fld (w.getD 4 0) 12 0)
  match y.2.bind membersOf with
  | none => y.1.hostDone q tag 6 0
  | some ms =>
    match y.1.startStatus i ms with
    | 0 => y.1.startJob q tag i ms (w.getD 1 0) (w.getD 2 0)
    | st => y.1.hostDone q tag st 0

/-- START; one with its membership table in T2 waits for the host link (R318). -/
def execStart (s : State) : Outcome State Fault Refusal :=
  .next (s.hostCommand (fun w => hasOpc 2 w && (decide (s.job.st ≠ .loaded) || !s.farWaits (w.getD 3 0))) (fun q tag w s =>
    match s.job.st, s.job.img with
    | .loaded, some i => s.startWith q tag i w
    | _, _ => s.hostDone q tag 2 0))

/-! ### STOP (R338) -/

/-- Whether the commit point of the step has passed. -/
def State.pastCommit (s : State) : Bool :=
  match s.step.decision with
  | some (d, _, _) => Decision.advances d
  | none => false

/-- A STOP that finds no step to finish ends the job at once; another waits for the boundary. -/
def State.stopJob (s : State) (now : Bool) (q tag : Nat) : State :=
  if now then (s.endJob).hostDone q tag 0 0 else { s with job := { s.job with stopReq := some (q, tag) } }

/-- STOP with IMMEDIATE = 0: a halted job, and one without a step set, reach no boundary. -/
def execStop (s : State) : Outcome State Fault Refusal :=
  .next (s.hostCommand (fun w => hasOpc 3 w && !bitOf (w.getD 1 0) 0) (fun q tag _ s =>
    if s.job.st ≠ .running then s.hostDone q tag 2 0
    else s.stopJob (s.step.halted.isSome || s.stepTiles.isEmpty) q tag))

/-- STOP with IMMEDIATE = 1: past the commit point the step is finished first. -/
def execStopImmediate (s : State) : Outcome State Fault Refusal :=
  .next (s.hostCommand (fun w => hasOpc 3 w && bitOf (w.getD 1 0) 0) (fun q tag _ s =>
    if s.job.st ≠ .running then s.hostDone q tag 2 0 else s.stopJob (!s.pastCommit) q tag))

/-! ### Versions (R210 to R213, R415) -/

/-- Whether the slot that a command names exists. -/
def State.slotExists (s : State) (t v : Nat) : Bool :=
  match s.table t with
  | some d => decide (v < d.vcnt)
  | none => false

/-- A version command in its states: the table and the slot. -/
def State.versionCommand (s : State) (opc : Nat) (runOnly : Bool) (waits : Nat → Bool) (act : Nat → Nat → List Nat → Nat → Nat → State → State) :
    State :=
  s.hostCommand (fun w => hasOpc opc w && !waits (fld (w.getD 1 0) 5 0)) (fun q tag w s =>
    let t := fld (w.getD 1 0) 5 0
    let v := fld (w.getD 1 0) 9 8
    if s.job.st = .empty ∨ (runOnly = true ∧ s.job.st = .loaded) ∨ s.slotExists t v = false then s.hostDone q tag 2 0
    else act q tag w t v s)

/-- VBUILD: the slot's old rows lose their pool slots (R232; log 158). -/
def execVbuild (s : State) : Outcome State Fault Refusal :=
  .next (s.versionCommand 5 false (fun _ => false) (fun q tag _ t v s =>
    let pinned := s.vpins.any (fun e => decide (e.2.2 = (t, v))) || s.emb.pins.any (fun p => decide (p.table = t ∧ p.slot = v))
    if s.slotState t v = 0 ∨ pinned = true then s.hostDone q tag 8 0
    else ((s.setSlotState t v 2).dropPool t v).hostDone q tag 0 0))

/-- Whether a VREADY of a table waits: rows that it has to stream may lie beyond T1, and the host link serves none now (R318). -/
def State.streamWaits (s : State) (t : Nat) : Bool :=
  decide (s.job.st = .running) && s.partner.isSome && !s.hostUp &&
  (match s.table t with | some d => bitOf d.place 0 || bitOf d.place 1 | none => false)

/-- VREADY: with a partner, it completes once the partner has sealed the slot's rows. -/
def execVready (s : State) : Outcome State Fault Refusal :=
  .next (s.versionCommand 6 false s.streamWaits (fun q tag _ t v s =>
    if s.slotState t v ≠ 2 then s.hostDone q tag 2 0
    else
      let s := if s.job.st = .running then s.record 6 0 0 s.step.no s.step.att [0, t, v] else s
      match decide (s.job.st = .running), s.partner with
      | true, some p => s.awaitSeal p q tag t v
      | _, _ => (s.setSlotState t v 1).hostDone q tag 0 0))

/-- VSWITCH: of two for one table and step the later counts. -/
def execVswitch (s : State) : Outcome State Fault Refusal :=
  .next (s.versionCommand 7 true (fun _ => false) (fun q tag w t v s =>
    let n := w.getD 2 0
    if s.slotState t v ≠ 1 ∨ n < s.step.no then s.hostDone q tag 2 0
    else
      let s := s.record 6 0 0 s.step.no s.step.att [1, t, v, n]
      (s.updEmb (fun e => { e with
        switches := e.switches.filter (fun x => !decide (x.1 = t ∧ x.2.2 = n)) ++ [(t, v, n)] })).hostDone q tag 0 0))

end Sys2Proof.Machine
end

