-- ==== Sys2Proof/Machine/View.lean ====
section
/-! DEFINITION. What a read of a register returns: the RO fields that stand elsewhere in State, beside the stored ones (R17, R98,
R123, R126, R147, R237, R275, R277, R313, R341, R367, R369, R397, R422 to R424, R440, R450, R451). -/
namespace Sys2Proof.Machine

/-- 1 or 0. -/
def bit (b : Bool) : Nat := if b then 1 else 0

/-! ### Tile registers -/

/-- STATE codes of R126. -/
def CtxMode.code : CtxMode → Nat
  | .idle => 0 | .run => 1 | .wait => 2 | .halted => 3 | .faulted => 4 | .held => 5 | .parked => 6

/-- Whether the command at the head of an engine's queue waits for admission, and for nothing else (R146). -/
def State.headWaits (s : State) (t : TileId) (e : Fin 6) (k : EngCmd) : Bool :=
  let x := s.tile t
  decide (s.runLevel t < engineNeed e.val) && !(cmdFen k.word && x.earlier k.ctx k.serial) &&
  (!cmdCmt k.word || decide ((if s.ownDecision t k then x.decision else none) = some .commit))

/-- The engine at whose head a command of the context waits for admission; with a token, one that increments it. -/
def State.admissionWait (s : State) (l : Loc) (tok : Option (Fin 32)) : Option (Fin 6) :=
  ([0, 1, 2, 3, 4, 5] : List (Fin 6)).find? (fun e => match (s.tile l.tile).queue e with
    | k :: _ => decide (k.ctx = l.ctx) && s.headWaits l.tile e k &&
        (match tok with | some n => decide (cmdTok k.word = n) && !cmdNt k.word | none => true)
    | [] => false)

/-- WAIT and WOBJ of a context (R126). Under WAIT 5 WOBJ is the engine whose queue head waits, as under WAIT 4 (DESIGN CHOICE, log 151). -/
def State.waitCode (s : State) (l : Loc) : Nat × Nat :=
  match (s.ctx l).mode, (s.ctx l).wait with
  | .wait, .token n _ =>
    (match s.admissionWait l (some n) with
    | some e => (5, e.val)
    | none => (1, n.val))
  | .wait, .sem n _ => (2, n.val)
  | .wait, .decision _ => (3, 0)
  | .wait, .queueFull e _ => (4, e.val)
  | _, _ => (0, 0)

/-- TILE_CTX_Cn. -/
def State.ctxStat (s : State) (l : Loc) : Nat :=
  let w := s.waitCode l
  (s.ctx l).pc.toNat * 2 ^ 24 + w.2 * 2 ^ 8 + w.1 * 2 ^ 4 + (s.ctx l).mode.code

/-- TILE_POS (R17). -/
def tilePos (t : Nat) : Nat :=
  (if t % 32 < 16 then 0 else 2 ^ 23) + t / 32 * 2 ^ 18 + t % 32 * 2 ^ 13 + t

/-- MQ_ASTAT_n: the row that the spare replaces, if it is in use (R98). -/
def State.arrayStat (s : State) (t n : Nat) : Nat :=
  match s.sec.rowMap.find? (fun e => decide (e.1 = 4 * t + n)) with
  | some e => 67 * 2 ^ 24 + 35 * 2 ^ 16 + 2 ^ 7 + e.2 % 64
  | none => 66 * 2 ^ 24 + 34 * 2 ^ 16 + 63

/-- EMB_PIN_STAT (R237). -/
def State.pinStat (s : State) (t : Nat) : Nat :=
  let n := s.stepAt t
  let of := fun k => (s.emb.pins.filter (fun p => decide (p.tile = t ∧ p.step = k))).length
  of n * 2 ^ 32 + of (n + 1) * 2 ^ 16 + (s.plansOf t).length

/-- A register of a tile, as a read returns it. -/
def State.viewTile (s : State) (t b off : Nat) : Nat :=
  let v := (s.reg (tileReg t b off)).toNat
  match b, off with
  | 0, 0x000 => tilePos t
  | 0, 0x110 => s.admitted t * 2 ^ 8 + s.requested t
  | 4, 0x000 => (s.tile t).sideValid.length
  | 6, 0x028 => s.pinStat t
  | 0, _ =>
    if h : offIn off 0x080 4 8 = true ∧ t < 640 ∧ (off - 0x080) / 8 < 4 then s.ctxStat ⟨⟨t, h.2.1⟩, ⟨(off - 0x080) / 8, h.2.2⟩⟩ else v
  | 1, _ => if off < 0x020 then s.arrayStat t (off / 8) else v
  | _, _ => v

/-! ### Hub registers -/

/-- An error log entry's word (R372). -/
def LogEntry.word (e : LogEntry) (w : Nat) : Nat :=
  match w with
  | 0 => e.seq % 2 ^ 32 * 2 ^ 32 + e.cls % 16 * 2 ^ 28 + e.cause % 256 * 2 ^ 20 + e.state % 4 * 2 ^ 18 + e.win % 8 * 2 ^ 15 + e.defm % 32 * 2 ^ 10
  | 1 => e.tstart
  | 2 => e.tend
  | 3 => e.step
  | 4 => e.att % 2 ^ 16 * 2 ^ 48 + e.unit % 2 ^ 16 * 2 ^ 32 + e.ctx % 4 * 2 ^ 30 + e.eng % 16 * 2 ^ 26
  | 5 => e.d5
  | 6 => e.d6
  | _ => e.d7

/-- Word w of a log slot; a slot with no entry yet reads 0. -/
def State.logWord (s : State) (i w : Nat) : Nat :=
  match s.log.slots.get (fun _ => none) i with
  | some e => e.word w
  | none => 0

/-- Word w of a change log slot (R440). -/
def State.chgWord (s : State) (i w : Nat) : Nat :=
  match s.chg.get (fun _ => none) i with
  | some e => (match w with
    | 0 => e.seq % 2 ^ 32 * 2 ^ 32 + e.iface % 16 * 2 ^ 28 + e.kind % 16 * 2 ^ 24
    | 1 => e.time
    | 2 => e.addr
    | _ => e.value)
  | none => 0

/-- The log entries that satisfy p. -/
def State.entriesWith (s : State) (p : LogEntry → Bool) : Nat :=
  (s.log.slots.filter (fun x => match x.2 with | some e => p e | none => false)).length

/-- STATE of ERR_DEVSTAT (R397). -/
def State.devState (s : State) : Nat :=
  match s.rst.phase with
  | .failed => 4
  | .rejoining => 3
  | .none => if s.rst.handling.isSome || s.step.stopped || !s.step.finished.isEmpty then 1 else 0
  | _ => 2

/-- The state sensors of PLDM (R443): 16 the device state, 17 the mode, 18 the job state, with R336's EMPTY, LOADED and RUNNING as 0, 1 and 2
(log 168). -/
def State.stateSensor (s : State) (id : Nat) : Option Nat :=
  match id with
  | 16 => some s.devState
  | 17 => some (bit s.mgmt.base)
  | 18 => some (match s.job.st with | .empty => 0 | .loaded => 1 | .running => 2)
  | _ => none

/-- SLU_STAT (R367). -/
def State.sluStat (s : State) : Nat :=
  let k := s.sluice
  ((k.budget.map (·.2)).sum / 16) % 2 ^ 20 * 2 ^ 44 + k.up.length % 2 ^ 12 * 2 ^ 32 + k.down.length % 2 ^ 12 * 2 ^ 20 +
  k.capDuty * 2 ^ 14 + k.thDuty * 2 ^ 12 + s.duty * 2 ^ 10 + bit s.power.feedFail * 2 ^ 9 + bit s.power.ttrip * 2 ^ 8 +
  bit (!k.down.isEmpty) * 2 ^ 7

/-- CXL_STAT (R341). -/
def HostPort.stat (h : HostPort) : Nat :=
  h.pbrid % 2 ^ 12 * 2 ^ 16 + h.ide * 2 ^ 8 + bit h.degr * 2 ^ 7 + h.rate * 2 ^ 5 + h.width

/-- CRN_STEPSTAT (R277). -/
def StepState.stat (p : StepState) : Nat :=
  p.att % 2 ^ 16 * 2 ^ 48 + p.skipRun % 256 * 2 ^ 8 + p.lastDec * 2 ^ 4 + p.phase

/-- Whether the hub's registers stand as a device reset has left them: until the device takes its job up again (R9; log 134). -/
def State.justReset (s : State) : Bool := decide (s.rst.phase = .restart ∨ s.rst.phase = .reload ∨ s.rst.phase = .waiting)

/-- BLY_CFG (R9, R422). -/
def State.blyCfg (s : State) : Nat :=
  s.belay.feed % 16 * 2 ^ 24 +
  if s.justReset then 0 else (s.partner.getD 0) % 2 ^ 12 * 2 ^ 12 + bit s.partner.isSome * 2 + bit s.belay.corr

/-- LNK_STAT_h of a logical port (R313). -/
def Link.stat (k : Link) : Nat :=
  if k.state = 0 then 0 else k.peerPort % 32 * 2 ^ 24 + k.peer % 4096 * 2 ^ 12 + k.state

/-- MGT_STATE (R451). -/
def State.mgtState (s : State) : Nat :=
  let up := (List.range 12).filter (fun p => decide ((s.link (2 * p)).state = 2 ∨ (s.link (2 * p + 1)).state = 2))
  up.length * 2 ^ 8 + s.mgmt.joined.length * 2 ^ 3 + bit s.mgmt.base

/-- SEC_STAT (R450). -/
def Security.stat (k : Security) : Nat :=
  bit k.idok * 16 + k.cfgCopy % 2 * 8 + bit k.fallback * 4 + bit k.pendAct * 2 + k.bootSlot % 2

/-- Word w of measurement register i: bytes 8w to 8w + 7, in little-endian order (R450). -/
def Security.measWord (k : Security) (i w : Nat) : Nat := leVal (((beBytes 32 (k.meas.toList.getD i 0)).drop (8 * w)).take 8)

/-- A register of a hub or rim block, as a read returns it. -/
def State.viewHub (s : State) (k off : Nat) : Nat :=
  let v := (s.reg (hubReg k off)).toNat
  match k, off with
  | 0, 0x000 => s.aon.toNat
  | 1, 0x000 => s.mgtState
  | 1, 0x018 => v + s.mgmt.fwStatus % 16 * 2 ^ 4
  | 1, 0x020 => s.mgmt.fail1 % 1024 * 2 ^ 22 + s.mgmt.fail0 % 1024 * 2 ^ 12 + bit s.mgmt.selfBusy * 2
  | 1, 0x028 => v + s.chgNext % 2 ^ 32 * 2 ^ 32
  | 2, 0x000 => s.sec.stat
  | 2, 0x008 => s.flash.counter % 2 ^ 32 * 2 ^ 32 + s.sec.svn % 2 ^ 32
  | 3, 0x010 => s.sluStat
  | 4, 0x010 => s.log.next % 2 ^ 32 * 2 ^ 32 + s.entriesWith (fun e => decide (e.state = 3)) * 2 ^ 8 + s.entriesWith (fun e => decide (e.state ≤ 1))
  | 4, 0x018 => s.rst.failRun % 4 * 2 ^ 8 + s.devState
  | 4, 0x028 => bit s.rst.copyBusy * 8 + s.rst.dumpNewest % 2 * 4 + s.rst.dumpValid % 4
  | 6, 0x000 => s.host.stat
  | 7, 0x010 => s.bookUsed / unit16M % 2 ^ 32 * 2 ^ 32 + bit s.book.full
  | 7, 0x018 => v % 2 + s.book.divStep / 2 * 2
  | 8, 0x000 => s.step.no
  | 8, 0x010 => s.step.stat
  | 8, 0x018 => s.cairn.lastC
  | 8, 0x020 => if s.justReset then 0 else s.cairn.next
  | 8, 0x028 => if s.justReset then 0 else s.cairn.st % 8
  | 9, 0x000 => s.blyCfg
  | _, _ =>
    if k = 1 ∧ 0x8000 ≤ off then s.chgWord ((off - 0x8000) / 32) ((off - 0x8000) % 32 / 8)
    else if k = 2 then s.sec.measWord ((off - 0x100) / 32) ((off - 0x100) % 32 / 8)
    else if k = 4 ∧ 0x1000 ≤ off then s.logWord ((off - 0x1000) / 64) ((off - 0x1000) % 64 / 8)
    else if 0x10 ≤ k ∧ (off = 0x008 ∨ off = 0x010) then (s.link (2 * (k - 0x10) + (off - 8) / 8)).stat
    else v

/-- A register as a read returns it; an address that names none reads 0. -/
def State.view (s : State) (a : Nat) : Word :=
  match regInfo a, tileRegAt a, hubRegAt a with
  | some _, some (t, b, off), _ => BitVec.ofNat 64 (s.viewTile t b off)
  | some _, none, some (k, off) => BitVec.ofNat 64 (s.viewHub k off)
  | _, _, _ => 0

end Sys2Proof.Machine
end

