-- ==== Sys2Proof/Machine/Recover.lean ====
section
/-! DEFINITION. The handling of errors: the log's entries in turn, abandoning, finishing and halting, hang searches, the patrol
scrubber and channel retrains (R166, R371 to R386, R391). -/
namespace Sys2Proof.Machine

open Host (Outcome)

/-! ### Outcomes inside a step (R373, R375 to R378) -/

/-- Whether the device can abandon its attempt now: it has not reached the commit point, and has not stopped already. -/
def State.canAbandon (s : State) : Bool :=
  decide (s.job.st = .running) && s.step.halted.isNone && !s.step.stopped && !s.pastCommit

/-- Abandons the attempt for an entry. -/
def State.abandonFor (s : State) (e : LogEntry) : State := if s.canAbandon then s.abandon e.seq e.cls e.cause else s

/-- Abandons or finishes for an entry of a tile. -/
def State.recoverTile (s : State) (e : LogEntry) (t : Nat) : State :=
  if decide (s.job.st = .running) && s.committedStep t then s.finishTile e.seq t else s.abandonFor e

/-- Whether an entry's tile has passed the boundary of a step whose commit point has passed: the error is of the next step, which the
device has not entered. -/
def State.early (s : State) (t : Nat) : Bool := s.pastCommit && (s.tile t).passed

/-! ### Memory errors (R373) -/

/-- The window offset that TILE_ECC_LAST names (R182). -/
def eccOffset (w : Nat) : Nat := (if bitOf w 29 then sramSize else 0) + 8 * fld w 22 3

/-- Whether a tile memory error calls for a device reset: program, save record or committed state. -/
def State.tmemFatal (s : State) (t d5 : Nat) : Bool :=
  let g := eccOffset d5 / 64 * 64
  (decide (g < sramSize) && (s.programAt t g 64 || s.saveAt t g 64)) || s.committedTile t g 64

/-- Whether an address lies in a spill area. -/
def State.inSpill (s : State) (a : Nat) : Bool :=
  allTiles.any (fun t => inside a 1 (wfld (s.reg (tileReg t 6 0x008)) 35 16 * unit16M) (s.spillSize t))

/-- Whether an address lies in a remote-row mirror. -/
def State.inMirror (s : State) (a : Nat) : Bool :=
  (List.range s.nTables).any (fun t => match s.table t with
    | some d => let k := s.tierDesc t; inside a 1 k.mirBase (k.mirSets * 4 * (64 + d.stride))
    | none => false)

/-- The tile of the TILEOUT or PEERROW queue whose ring holds an address; 0 where there is none. -/
def State.ringTile (s : State) (a : Nat) : Nat :=
  match s.queueIds.find? (fun q => let d := s.desc q; decide (d.cls = 2 ∨ d.cls = 3) && inside a 1 d.ring (64 * 2 ^ d.log2n)) with
  | some q => (s.desc q).tile
  | none => 0

/-- The hub's read of a ring entry failed: the step is abandoned, or past the commit point finished at the ring's tile (R462; log 82). -/
def State.ringHandle (s : State) (e : LogEntry) : State := s.recoverTile e (s.ringTile e.d5)

/-- An uncorrectable LPDDR5X error; one that the ERR_ block met is an error of the recovery machinery (R387). -/
def State.dmemHandle (s : State) (e : LogEntry) : State :=
  if e.unit = noUnit then s.ringHandle e
  else if e.unit = 0x704 then s.escalate 6 e.seq
  else if s.inSpill e.d5 || s.inMirror e.d5 then s.recoverTile e e.unit
  else s.escalate 1 e.seq

/-! ### Hang searches (R382 to R385) -/

/-- Whether a context has a command queued or accepted on an engine. -/
def Tile.uses (x : Tile) (c : CtxId) (e : Fin 6) : Bool :=
  (x.queue e).any (fun k => decide (k.ctx = c)) || (x.act e).any (fun a => decide (a.cmd.ctx = c))

/-- Whether the window of a context on a unit runs: unit 0 is the control core, unit 1 + e engine e (R380). -/
def State.windowRuns (s : State) (l : Loc) (u : Fin 7) : Bool :=
  if h : 0 < u.val then (s.tile l.tile).uses l.ctx ⟨u.val - 1, by omega⟩
  else decide ((s.ctx l).mode = .run ∨ (s.ctx l).mode = .wait)

/-- The other devices whose images a POOL waits for: it has asked for the rows, and they are not here (R233). -/
def State.imageDevs (s : State) (t : TileId) (k : EngCmd) : List Nat :=
  match s.table (embTable k.word) with
  | none => []
  | some d =>
    let n := s.cmdStep t k
    ((s.emb.poolAsked.filter (fun r => decide (r.1 = t.val ∧ r.2.1 = k.serial))).filter (fun r =>
      (s.mirrorRow (embTable k.word) (s.namedSlot k n) r.2.2 n).isNone)).map (fun r => s.ownerOf d r.2.2)

/-- The devices that a context's commands wait on: the peers of its queue message commands, and the owners of the rows that a POOL at its
queue's head still waits for. -/
def State.waitDevs (s : State) (l : Loc) : List Nat :=
  let x := s.tile l.tile
  let peer := fun (q : Nat) => let d := s.desc q; if d.valid && (decide (d.cls = 2) || (decide (d.cls = 1) && d.rsend)) then [d.peerdev] else []
  let queued := (x.act 5).flatMap (fun a => if decide (a.cmd.ctx = l.ctx) && !a.done then (match a.queue with | some q => peer q | none => []) else [])
  let pool := match x.queue 4 with
    | k :: _ => if decide (k.ctx = l.ctx ∧ cmdOp k.word = 1) then s.imageDevs l.tile k else []
    | [] => []
  (queued ++ pool).filter (fun d => decide (d ≠ s.devId))

/-- Whether an accepted command of the context reaches a memory channel that retrains. -/
def State.channelWait (s : State) (l : Loc) : Bool :=
  (s.tile l.tile).active.toList.any (fun q => q.any (fun a => decide (a.cmd.ctx = l.ctx) && (a.reads ++ a.writes).any (fun r =>
    decide (tierOf r.1 = .t1) && s.rst.chBusy.any (fun c => decide ((c + 96 - channelOf r.1) % 96 ≤ (r.1 % 256 + r.2 - 1) / 256)))))

/-- Whether the context waits on a token that a command of its own will increment (R148). -/
def State.ownWait (s : State) (l : Loc) : Bool :=
  match (s.ctx l).mode, (s.ctx l).wait with
  | .wait, .token n _ =>
    let mine := fun (k : EngCmd) => decide (k.ctx = l.ctx ∧ cmdTok k.word = n) && !cmdNt k.word
    (s.tile l.tile).queues.toList.any (fun q => q.any mine) || (s.tile l.tile).active.toList.any (fun q => q.any (fun a => mine a.cmd))
  | _, _ => false

/-- Whether a row that a POOL of a tile wants is held by a full pin table of this device, by its own request or its plan's; a hold at another
owner is not seen from here (R230, log 146). -/
def State.heldFor (s : State) (t : Nat) (k : EngCmd) : Bool :=
  s.emb.waiting.any (fun a => a.held && decide (a.tile = some t ∧ a.table = embTable k.word) &&
    (a.plan && decide (a.step = s.stepAt t) || decide ((t, k.serial, a.index) ∈ s.emb.poolAsked)))

/-- Whether a POOL of the context is held for a pin. -/
def State.pinWait (s : State) (l : Loc) : Bool :=
  match (s.tile l.tile).queue 4 with
  | k :: _ => decide (k.ctx = l.ctx ∧ cmdOp k.word = 1) && s.heldFor l.tile k
  | [] => false

/-- The pauses of R380, and that of R411. -/
def State.windowPaused (s : State) (l : Loc) (u : Fin 7) : Bool :=
  (s.admissionWait l none).isSome || decide ((s.waitCode l).1 = 3) || (decide (u = 0) && s.ownWait l) || s.pinWait l ||
  decide ((l.tile.val, l.ctx.val) ∈ s.book.held) || (s.waitDevs l).any (fun d => s.peerDown d || (s.linkFor d).isNone) || s.channelWait l || decide ((s.ctx l).mode = .held ∨ (s.ctx l).mode = .parked)

/-- The number that marks a stopped unit: engine e by e, the control core by 6. -/
def stopMark (u : Fin 7) : Nat := if u = 0 then 6 else u.val - 1

/-- A stopped engine's accepted commands stop at their next granule (R382); the control core has none. -/
def Tile.stopUnit (x : Tile) (u : Fin 7) : Tile :=
  { x with engStop := x.engStop ++ [stopMark u],
           active := if h : 0 < u.val then
               have : u.val - 1 < 6 := by omega
               x.active.set (u.val - 1) ((x.active[u.val - 1]).map (fun a => { a with stopped := true }))
             else x.active }

/-- What an expiry leaves for its handling: the suspects, those with a command on the unit during the window (or in RUN or WAIT, for the control
core) that a replay can run, and where every context stood (R382, R384; log 162). -/
def State.expiry (s : State) (t : TileId) (x : Expiry) : Expired :=
  let y := s.tile t
  let now := fun (c : CtxId) => if h : 0 < x.unit.val then y.uses c ⟨x.unit.val - 1, by omega⟩ else decide ((y.ctxs[c]).mode = .run ∨ (y.ctxs[c]).mode = .wait)
  { seq := s.log.next, dseq := 0, unit := if x.unit = 0 then 0xE else x.unit.val - 1,
    suspects := allCtxs.filter (fun c => (now c || decide (c ∈ x.had)) && (y.ctxs[c]).alive),
    pos := allCtxs.map (fun c => (c.val, (y.ctxs[c]).pc.toNat, (y.ctxs[c]).prog.toList)) }

/-- HANG_DETECTED: the unit stops; the entry waits for its handling. A window that does not run or is paused cannot expire. -/
def execHangDetected (l : Loc) (x : Expiry) (s : State) : Outcome State Fault Refusal :=
  .next (if !s.windowRuns l x.unit || s.windowPaused l x.unit || (s.tile l.tile).search.isSome || decide (stopMark x.unit ∈ (s.tile l.tile).engStop) then s
    else
      let k := s.expiry l.tile x
      let s := (s.count (hubReg 4 0x040) 1).updTile l.tile (·.stopUnit x.unit)
      let s := s.logError 8 1 l.tile l.ctx (if x.unit = 0 then 0xE else x.unit.val - 1) 0 0 0
      let dseq := s.log.next
      (s.openDeferral 9 4 0x10 l.tile l.tile).updTile l.tile (fun x => { x with expired := x.expired ++ [{ k with dseq := dseq }] }))

/-- The outcomes that the route book recorded for a context since its restart point (R383). -/
def State.outcomesOf (s : State) (l : Loc) : List Recorded :=
  (s.book.recs.filter (fun r => decide (r.type = 8 ∧ r.tile = l.tile.val ∧ r.ctx = l.ctx.val))).map (fun r => recordedOf r.body)

/-- Starts the replay of the next suspect, alone on the tile. -/
def State.nextReplay (s : State) (t : TileId) (k : Search) : State :=
  match k.todo with
  | [] => s
  | c :: _ =>
    let l : Loc := ⟨t, c⟩
    (s.updTile t (fun x => { x with search := some { k with feed := s.outcomesOf l }, engStop := [] })).loadSave l

/-- Every running context of a tile enters HELD, and its commands go; one that does not run (IDLE, HALTED, FAULTED, PARKED) has nothing to hold
(log 162). -/
def State.holdTile (s : State) (t : TileId) : State :=
  (allCtxs.foldl (fun s c =>
    let m := (s.ctx ⟨t, c⟩).mode
    s.updTile t (fun x =>
      let x := x.dropAll c
      if m = .run ∨ m = .wait then x.setCtx c (x.ctxs[c]).hold else x)) s).forgetRequests

/-- The masks of R382. -/
def maskBits (l : List CtxId) : Nat := (l.eraseDups.map (fun c => 2 ^ c.val)).sum

/-- The tile resumes (R385): contexts outside the step set rewind at once, the others by an abandonment or the finishing. -/
def State.resumeTile (s : State) (e : LogEntry) (t : TileId) : State :=
  let s := allCtxs.foldl (fun s c =>
    if decide ((s.ctx ⟨t, c⟩).mode = .held ∧ c.val ∉ s.stepSet t) then s.loadSave ⟨t, c⟩ else s) s
  if s.step.stopped then s else s.recoverTile e t

/-- The verdicts are in (R382, R384, R385). -/
def State.endSearch (s : State) (t : TileId) (k : Search) : State :=
  let dur := (s.aon.toNat - k.tstart) % 2 ^ 32
  let guilty := k.again.filter (fun c => decide (c ∉ k.peerWait))
  let d5 := maskBits k.suspects + maskBits k.again * 2 ^ 4 + maskBits k.peerWait * 2 ^ 8 + dur * 2 ^ 32
  let s := (s.updEntry k.seq (fun e => { e with d5 := d5 })).updTile t (fun x => { x with search := none, engStop := [] })
  let s := if guilty.isEmpty then s.count (hubReg 4 0x048) 1 else s.post none 7 0 0 0 k.seq
  let e : LogEntry := ⟨k.seq, 8, 1, 0, 0, 0, 0, 0, 0, 0, t, 0, 0, 0, 0, 0⟩
  let s := ((s.resumeTile e t).endEntry k.seq).endEntry k.dseq
  s.updRst (fun r => { r with handling := none })

/-- The handling of a HANG entry begins: steps 3 and 4 of R382. An entry whose search ended with its job is done. -/
def State.startSearch (s : State) (e : LogEntry) (t : TileId) : State :=
  match (s.tile t).expired.find? (fun x => decide (x.seq = e.seq)) with
  | none => (s.endEntry e.seq).updRst (fun r => { r with handling := none })
  | some x =>
    let k : Search := ⟨e.seq, x.dseq, x.unit, x.suspects, x.suspects, [], [], x.pos, s.aon.toNat, 0, []⟩
    let s := (s.updTile t (fun y => { y with expired := y.expired.filter (fun z => decide (z.seq ≠ e.seq)) })).holdTile t
    if x.suspects.isEmpty then s.endSearch t k else s.nextReplay t k

/-- The tile whose suspects are replayed now. -/
def State.searching (s : State) : Option (TileId × Search × CtxId) :=
  match s.tiles.find? (fun e => match e.2.search with | some k => !k.todo.isEmpty | none => false) with
  | some e =>
    if h : e.1 < 640 then
      (match e.2.search with
      | some k => k.todo.head?.map (fun c => (⟨e.1, h⟩, k, c))
      | none => none)
    else none
  | none => none

/-- Whether the replayed context has reached its position (R384). -/
def State.atPosition (s : State) (l : Loc) (k : Search) : Bool :=
  let c := s.ctx l
  let wait := match c.mode, c.wait with | .wait, .decision _ => true | _, _ => false
  decide (c.step = .arrived) || wait || (decide (c.mode = .run) &&
  (match k.pos.find? (fun p => decide (p.1 = l.ctx.val)) with
  | some (_, pc, prog) => decide (c.pc.toNat = pc) && (c.prog.toList.zip prog).all (fun p => decide (p.2 ≤ p.1))
  | none => false))

/-- A verdict on the replayed context: the next suspect's replay, or the end of the search. -/
def State.verdict (s : State) (t : TileId) (k : Search) : State :=
  let s := s.holdTile t
  let k := { k with todo := k.todo.tail }
  if k.todo.isEmpty then s.endSearch t k else s.nextReplay t k

/-- REPLAY_POSITION_REACHED: the suspect is clear. -/
def execReplayPositionReached (s : State) : Outcome State Fault Refusal :=
  .next (match s.searching with
    | some (t, k, c) => if s.atPosition ⟨t, c⟩ k && !s.early t then s.verdict t k else s
    | none => s)

/-- Whether what the context waits on is flagged in reset. -/
def State.waitsOnPeer (s : State) (l : Loc) : Bool := (s.waitDevs l).any s.peerDown

/-- REPLAY_HANG_AGAIN: guilty and PARKED, or a peer wait. -/
def execReplayHangAgain (s : State) : Outcome State Fault Refusal :=
  .next (match s.searching with
    | some (t, k, c) =>
      let l : Loc := ⟨t, c⟩
      if s.atPosition l k || s.early t then s
      else if s.waitsOnPeer l then
        (s.count (hubReg 4 0x050) 1).verdict t { k with again := k.again ++ [c], peerWait := k.peerWait ++ [c] }
      else
        let s := (s.count (hubReg 4 0x058) 1).updCtx l (fun x => { x with mode := .parked, wait := .none, clist := none })
        s.verdict t { k with again := k.again ++ [c] }
    | none => s)

/-- An error on a tile under search restarts it from its first step; the fourth restart escalates (R391). -/
def State.restartSearch (s : State) (t : TileId) (k : Search) : State :=
  if 3 ≤ k.restarts then (s.updTile t (fun x => { x with search := none })).escalate 1 k.seq
  else (s.holdTile t).nextReplay t { k with todo := k.suspects, again := [], peerWait := [], restarts := k.restarts + 1 }

/-! ### The log in turn (R371, R373) -/

/-- The pending entry with the lowest SEQ of those of a kind. -/
def State.pendingOf (s : State) (p : LogEntry → Bool) : Option LogEntry :=
  let age := fun (e : LogEntry) => (e.seq + 2 ^ 32 - s.log.next) % 2 ^ 32
  s.log.slots.foldl (fun (b : Option LogEntry) x => match x.2, b with
    | some e, none => if decide (e.state = 0) && p e then some e else b
    | some e, some f => if decide (e.state = 0 ∧ age e < age f) && p e then some e else b
    | none, _ => b) none

/-- The pending entry with the lowest SEQ. -/
def State.pendingEntry (s : State) : Option LogEntry := s.pendingOf (fun _ => true)

/-- Entries that R373 records and nothing more. -/
def LogEntry.recordedOnly (e : LogEntry) : Bool :=
  match e.cls, e.cause with
  | 3, 3 => true
  | 3, 5 => true
  | 5, 1 => true
  | 5, 2 => true
  | 5, 3 => !decide (fld e.d5 39 32 ∈ [0x01, 0x02, 0x03, 0x04, 0x10, 0x11, 0x12, 0x21, 0x22, 0x30])
  | 6, c => decide (3 ≤ c)
  | c, _ => decide (c = 1 ∨ c = 2 ∨ c = 0xC ∨ c = 0)

/-- The tile that an entry's recovery concerns: for an error that a DMA command met in another tile's memory, the tile of that command (R181). -/
def State.struckTile (s : State) (e : LogEntry) : Nat :=
  if e.cls = 3 ∧ e.eng = 3 then
    match s.tiles.find? (fun x => (x.2.active[3]).any (fun a => a.stopped && decide (a.cmd.ctx.val = e.ctx))) with
    | some x => if ((s.tile e.unit).active[3]).any (fun a => a.stopped && decide (a.cmd.ctx.val = e.ctx)) then e.unit else x.1
    | none => e.unit
  else e.unit

/-- What R373 does about an entry that is no HANG. -/
def State.actOn (s : State) (e : LogEntry) : State :=
  if e.recordedOnly then s
  else
    match e.cls, e.cause with
    | 3, _ => if s.tmemFatal e.unit e.d5 then s.escalate 1 e.seq else s.recoverTile e (s.struckTile e)
    | 4, 1 => s.dmemHandle e
    | 4, 3 => s.escalate 1 e.seq
    | 5, 4 => s.escalate 1 e.seq
    | 5, _ => s.abandonFor e
    | 6, _ => if e.unit < 640 then s.recoverTile e e.unit else s.ringHandle e
    | 7, c => if c = 3 ∨ c = 4 then (if s.step.halted.isNone && decide (s.job.st = .running) then s.haltJob e.seq else s) else s.abandonFor e
    | _, _ => s

/-- Whether the handling lasts: a channel's retrain, or the device reset that it began. -/
def State.lasts (s : State) (e : LogEntry) : Bool :=
  decide (e.cls = 4 ∧ e.cause = 2 ∧ (e.d5 ∈ s.rst.chRetrain ∨ e.d5 ∈ s.rst.chBusy)) || decide ((s.rst.trigger.map (·.2)) = some e.seq)

/-- An entry's handling begins, and ends where nothing lasts. An error on the tile that a hang search recovers restarts the search. -/
def State.handleEntry (s : State) (e : LogEntry) : State :=
  let s := (s.updEntry e.seq (fun e => { e with state := 1 })).updRst (fun r => { r with handling := some e.seq })
  if h : e.cls = 8 ∧ e.unit < 640 then s.startSearch e ⟨e.unit, h.2⟩
  else
    let s := s.actOn e
    if s.lasts e then s else (s.endEntry e.seq).updRst (fun r => { r with handling := none })

/-- The search that an error strikes. -/
def State.struck (s : State) (e : LogEntry) : Option (TileId × Search) :=
  if h : e.unit < 640 then
    match (s.tile e.unit).search, decide (e.cls ≠ 8) && !e.recordedOnly with
    | some k, true => some (⟨e.unit, h⟩, k)
    | _, _ => none
  else none

/-- Whether a device reset is under way, up to its rejoin. -/
def ResetPhase.active (p : ResetPhase) : Bool := decide (p ≠ .none ∧ p ≠ .rejoining ∧ p ≠ .failed)

/-- ERROR_HANDLING_START: the next entry in SEQ order. One of a tile that is ahead of the device's step waits for the device; during a
device reset an error that needs an action makes the reset fail, whatever older ones wait for its end (R390, R391). -/
def execErrorHandlingStart (s : State) : Outcome State Fault Refusal :=
  .next (match if s.rst.phase.active then s.pendingOf (fun e => e.recordedOnly || decide (s.rst.began ≤ e.tstart)) else s.pendingEntry with
    | none => s
    | some e =>
      if s.rst.phase.active then
        if e.recordedOnly then s.endEntry e.seq else (s.endEntry e.seq).escalate 7 e.seq
      else if s.rst.phase = .failed then s
      else
        match s.struck e with
        | some (t, k) => (s.endEntry e.seq).restartSearch t k
        | none => if s.rst.handling.isSome || s.rst.trigger.isSome || (decide (e.unit < 640) && !e.recordedOnly && s.early e.unit) then s else s.handleEntry e)

/-! ### The patrol scrubber and channel retrains (R166, R386) -/

/-- The upset that the environment has left in a granule. -/
def State.strike (s : State) (base : Nat) (u : Option (Fin 8 × Bool)) : State :=
  match u with
  | some (w, double) =>
    { s with upset := s.upset.upd (fun _ => 0) (base + 8 * w.val) (fun k => if double || decide (0 < k) then 2 else 1) }
  | none => s

/-- PATROL_SCRUB: the next granule of an awake tile. -/
def execPatrolScrub (t : TileId) (upset : Option (Fin 8 × Bool)) (s : State) : Outcome State Fault Refusal :=
  .next (if !s.clockRuns t then s
    else
      let base := sram t (64 * ((s.tile t).scrub % 98304))
      let y := (s.strike base upset).readT0 base 64
      let s := if y.2.isSome then y.1 else y.1.tmemError 3 t 0 0xF
      s.updTile t (fun x => { x with scrub := (x.scrub + 1) % 98304 }))

/-- CHANNEL_RETRAIN: of a channel with 256 correctable errors within 2^24 aon cycles. -/
def execChannelRetrain (c : Fin 96) (s : State) : Outcome State Fault Refusal :=
  .next (if c.val ∉ s.rst.chRetrain then s
    else (s.count (hubReg 4 0x078) 1).updRst (fun r => { r with chRetrain := without r.chRetrain c.val, chBusy := withOne r.chBusy c.val }))

/-- CHANNEL_RETRAIN_COMPLETE: the handling of the channel's entry ends; a retrain that failed is an error of its own. -/
def execChannelRetrainComplete (c : Fin 96) (ok : Bool) (s : State) : Outcome State Fault Refusal :=
  .next (if c.val ∉ s.rst.chBusy then s
    else
      let s := s.updRst (fun r => { r with chBusy := without r.chBusy c.val })
      let s := match s.rst.handling.bind s.entry with
        | some e => if e.cls = 4 ∧ e.cause = 2 ∧ e.d5 = c.val then (s.endEntry e.seq).updRst (fun r => { r with handling := none }) else s
        | none => s
      if ok then s else s.logError 4 3 (0x400 + c.val / 4) 0 0xF c.val 0 0)

end Sys2Proof.Machine
end

