-- ==== Sys2Proof/Machine/Reset.lean ====
section
/-! DEFINITION. The device reset: its start, the crash dump, the reset of the domains, verification of T1, the reload of the job image and
the step's recovery, completion and failure; dump copies (R270 to R273, R357, R358, R386 to R395, R417, R446, R447, R458). -/
namespace Sys2Proof.Machine

open Host (Outcome)

/-! ### The crash dump (R392 to R394) -/

/-- The units in the order of the dump (R392). -/
def dumpUnits : List Nat :=
  List.range 640 ++ (List.range 24).map (0x400 + ·) ++ (List.range 12).map (0x500 + ·) ++ [0x600] ++ (List.range 10).map (0x700 + ·)

/-- The offsets of a block's registers, in order. -/
def regOffsets (span : Nat) (has : Nat → Bool) : List Nat := ((List.range (span / 8)).map (8 * ·)).filter has

/-- The registers of a block as bytes. -/
def State.regBytes (s : State) (base span : Nat) (has : Nat → Bool) : List Byte :=
  (regOffsets span has).flatMap (fun off => leBytes 8 (s.view (base + off)).toNat)

/-- A tile's body: the registers of its seven blocks, its contexts' live registers in the layout of a save record, and the commands of its
queues. -/
def State.tileBody (s : State) (t : TileId) : List Byte :=
  (List.range 7).flatMap (fun b => s.regBytes (tileReg t b 0) 4096 (fun off => (tileRegInfo b off).isSome)) ++
  allCtxs.flatMap (fun c => ((s.ctx ⟨t, c⟩).saved ⟨t, c⟩ (s.ctx ⟨t, c⟩).pc).bytes) ++
  (s.tile t).queues.toList.flatMap (fun q => q.flatMap (fun k => leBytes 16 k.word.toNat))

/-- The body of a unit. An LPDDR5X controller has no register block of its own. -/
def State.unitBody (s : State) (u : Nat) : List Byte :=
  let hub := fun (k : Nat) => s.regBytes (hubReg k 0) 0x10000 (fun off => (hubRegInfo k off).isSome)
  if h : u < 640 then s.tileBody ⟨u, h⟩
  else if 0x500 ≤ u ∧ u < 0x50C then hub (0x10 + (u - 0x500))
  else if u = 0x600 then hub 6
  else if 0x700 ≤ u then hub (u - 0x700)
  else []

/-- Zeros up to a multiple of 64 bytes. -/
def pad64 (bs : List Byte) : List Byte := bs ++ List.replicate (64 * ceilDiv bs.length 64 - bs.length) 0

/-- Why a unit cannot be read: 1 no answer, 2 unpowered; 0 when it can. -/
def State.unitReason (s : State) (u : Nat) : Nat :=
  match s.rst.unreadable.find? (fun e => decide (e.1 = u)) with
  | some e => e.2
  | none => if u < 640 ∧ s.sec.tilesOn = false then 2 else 0

/-- A unit record (R394). Two slots of at least 32 MiB hold the longest dump, so reason 4 does not arise. -/
def State.unitRecord (s : State) (u : Nat) : List Byte :=
  let why := s.unitReason u
  let body := if why = 0 then pad64 (s.unitBody u) else []
  leBytes 8 (u * 2 ^ 48 + (if why = 0 then 0 else 1) * 2 ^ 40 + why * 2 ^ 32 + body.length / 64) ++ leBytes 8 s.aon.toNat ++
  List.replicate 48 0 ++ body

/-- Class and cause of a reset's trigger: the entry that escalated, or the RESET class with the reset's cause. -/
def State.triggerClass (s : State) : Nat × Nat :=
  match s.entry s.rst.trigSeq with
  | some e => (e.cls, e.cause)
  | none => (0xA, s.rst.cause)

/-- A dump with its seal word as given. -/
def State.dumpWith (s : State) (rest : List Byte) (crc : Nat) : List Byte :=
  let k := s.triggerClass
  leBytes 8 (2 ^ 48 + dumpUnits.length * 2 ^ 32 + (64 + rest.length) / 64) ++ leBytes 8 s.rst.trigAt.1 ++ leBytes 8 s.rst.trigAt.2.1 ++
  leBytes 8 (s.rst.trigAt.2.2 % 2 ^ 16 * 2 ^ 48 + k.1 % 16 * 2 ^ 44 + k.2 % 16 * 2 ^ 40 + s.rst.trigSeq % 2 ^ 32) ++ leBytes 8 s.aon.toNat ++
  leBytes 8 (crc * 2 ^ 32) ++ List.replicate 16 0 ++ rest

/-- The whole dump. -/
def State.dump (s : State) : List Byte :=
  let log := (List.range 64).flatMap (fun i => (List.range 8).flatMap (fun w => leBytes 8 (s.logWord i w)))
  let rest := log ++ dumpUnits.flatMap s.unitRecord
  s.dumpWith rest (crc32c (s.dumpWith rest 0))

/-- Where a dump slot lies, and its size. -/
def State.dumpAddr (s : State) (slot : Nat) : Nat × Nat :=
  let r := s.dumpRegion
  (r.1 + slot * (r.2 / 2), r.2 / 2)

/-! ### Beginning (R306, R387, R390) -/

/-- A write of ERR_RESETREQ.GO, or a long PERST#: cause 0x02. It has no entry, so the SEQ of its trigger is a free value. -/
def State.hostReset (s : State) : State :=
  let w := s.draw
  w.2.escalate 2 (w.1.toNat % 2 ^ 32)

/-- The slot for the next dump (R392). -/
def Recovery.nextSlot (r : Recovery) : Nat :=
  if !bitOf r.dumpValid 0 then 0 else if !bitOf r.dumpValid 1 then 1 else 1 - r.dumpNewest

/-- A range of memory takes undefined contents. -/
def State.undefine (s : State) (r : Nat × Nat) : State :=
  { s with mem := s.mem.filter (fun (c : Host.Cell) => !inside c.1 1 r.1 r.2), undef := (s.freeCtr, r) :: s.undef, freeCtr := s.freeCtr + 1 }

/-- The feed-failure record (R357): the log and the sluice state, in the slot that a dump would take. The manual gives it no layout, so
the slot's bytes are free values (log 73). -/
def State.feedRecord (s : State) : State :=
  let k := (s.log, s.sluice)
  (s.undefine (s.dumpAddr s.rst.nextSlot)).updRst (fun r => { r with
    feedRec := some k, dumpValid := if bitOf r.dumpValid r.nextSlot then r.dumpValid - 2 ^ r.nextSlot else r.dumpValid })

/-- The reset begins: notices on every UP link, the descriptor cache written back, targets to nothing. -/
def State.beginReset (s : State) (cause seq : Nat) : State :=
  let s := if cause = 3 then s.feedRecord else s
  let s := s.count (hubReg 4 0x080) 1
  let up := (List.range 24).filter (fun l => decide ((s.link l).state = 2))
  let s : State := s.emitNotices up
  let s := { s with qm := { s.qm with cache := [] } }
  (s.updRst (fun r => { r with
    trigger := none, phase := if cause = 3 then .hold else .dump, cause := cause, trigSeq := seq, began := s.aon.toNat,
    unreadable := [], sealedAt := none, bad := [], dumpAt := 0, dumpSlot := r.nextSlot,
    levelOne := r.levelOne || decide (cause = 3 ∨ cause = 4) })).retarget

/-- The links that a FAILED device keeps sending notices on: those that are enabled (R390). -/
def State.enabledLinks (s : State) : List Nat := (List.range 24).filter s.lnkEnabled

/-- A reset fails: FAILRUN advances, and at 3 the device is FAILED, with an event and notices to its peers; else another reset is due (R390;
log 163). A feed failure keeps its own cause. -/
def State.failReset (s : State) (entry : Bool) : State :=
  let seq := if entry then s.log.next else s.rst.trigSeq
  let s := if entry then s.resetEntry else s
  let s := s.updRst (fun r => { r with failRun := r.failRun + 1 })
  if 3 ≤ s.rst.failRun then
    (((s.updRst (fun r => { r with phase := .failed, trigger := none, handling := none })).emitNotices s.enabledLinks).post none 7 0 0 0 seq).retarget
  else s.updRst (fun r => { r with
    phase := .none,
    trigger := match r.trigger with | some (3, q) => some (3, q) | _ => some (7, seq),
    trigAt := (s.aon.toNat, s.step.no, s.step.att) })

/-- DEVICE_RESET_BEGIN. A trigger during a reset, or before the first boundary after one, makes that reset fail first. -/
def execDeviceResetBegin (s : State) : Outcome State Fault Refusal :=
  .next (match s.rst.trigger with
    | none => s
    | some (cause, seq) =>
      match s.rst.phase with
      | .none => s.beginReset cause seq
      | .failed => s
      | p =>
        let s := s.failReset p.active
        (match s.rst.trigger with
        | some (cause, seq) => s.beginReset cause seq
        | none => s))

/-- DEVICE_RESET_FAIL: 6 s after the trigger without a rejoin; the hold of R358 and the wait for PERST# do not count. -/
def execDeviceResetFail (s : State) : Outcome State Fault Refusal :=
  .next (match s.rst.phase with
    | .dump => s.failReset true
    | .restart => s.failReset true
    | .reload => s.failReset true
    | .recovering => s.failReset true
    | _ => s)

/-- DUMP_UNIT_TIMEOUT: one of the units still to come does not answer; which, the command does not say. -/
def execDumpUnitTimeout (s : State) : Outcome State Fault Refusal :=
  .next (if s.rst.phase ≠ .dump ∨ dumpUnits.length ≤ s.rst.dumpAt then s
    else
      let w := s.draw
      let i := s.rst.dumpAt + w.1.toNat % (dumpUnits.length - s.rst.dumpAt)
      w.2.updRst (fun r => { r with dumpAt := i + 1, unreadable := r.unreadable ++ [(dumpUnits.getD i 0, 1)] }))

/-! ### The domains (R9, R386) -/

/-- What is left of a tile: a context PARKED or FAULTED stays so (R153, R385). -/
def Tile.afterReset (x : Tile) : Tile :=
  { Tile.reset with ctxs := x.ctxs.map (fun c =>
      if c.mode = .parked ∨ c.mode = .faulted then { Ctx.reset with mode := c.mode } else Ctx.reset) }

/-! ### Where a firmware transfer writes (R435, R437) -/

/-- The firmware slot that an update writes. -/
def Flash.inactive (f : Flash) : Nat := 1 - f.active

/-- Whether copy A of the configuration record has the lower sequence number; a copy that is not there ranks lowest. -/
def Flash.recordA (f : Flash) : Bool :=
  let seqOf := fun (c : Option Component) => match c with | some c => c.body.seqNo + 1 | none => 0
  decide (seqOf f.recA < seqOf f.recB)

/-- The destination of a COMP after a transfer: the component, or nothing that validates. -/
def Flash.write (f : Flash) (comp : Nat) (c : Option Component) : Flash :=
  match comp, f.inactive with
  | 1, 0 => { f with firstA := c }
  | 1, _ => { f with firstB := c }
  | 2, 0 => { f with mainA := c }
  | 2, _ => { f with mainB := c }
  | 3, _ => if f.recordA then { f with recA := c } else { f with recB := c }
  | _, _ => f

/-- A transfer that is cut short: the header of its destination is erased. Which component the agent was sending no command says: a free
value, of which 0 is none (log 103). -/
def State.cutTransfer (s : State) : State :=
  if s.mgmt.update.isSome then
    let w := s.draw
    { w.2 with flash := w.2.flash.write (w.1.toNat % 4) none }
  else s

/-- The suspensions that end with the domains: duty ceilings, pins, peers and hang searches (R29, R355, R374). -/
def State.endSuspensions (s : State) : State := [3, 4, 5, 6, 9].foldl State.endDeferrals s.endSearches

/-- The domains reset, and firmware restarts into base camp mode. Budgets go on tapering through the down queue (R347). -/
def State.domainReset (s : State) : State :=
  let s := (s.endSuspensions).cutTransfer
  let mem := s.mem.filter (fun c => decide (t0End ≤ c.1))
  let fresh : Link := { Link.reset with toSom := [0, 1, 2, 3, 4, 5, 6, 7] }
  { s with
    mem := mem, upset := s.upset.filter (fun e => decide (t0End ≤ e.1)), poison := [],
    regs := s.regs.filter (fun r => keptReg r.1),
    tiles := (s.tiles.map (fun e => (e.1, e.2.afterReset))).filter (fun e => decide (e.2 ≠ Tile.reset)),
    signals := [], inbox := [], netWait := [],
    links := ((List.range 24).map (fun i => (i, fresh))),
    qm := { QmState.reset with held := s.qm.held, lost := s.qm.lost }, bufs := [],
    emb := { EmbState.reset with slots := s.emb.slots, switches := s.emb.switches, pool := s.emb.pool },
    host := { s.host with waiting := [], ide := 0, pbrid := 0 },
    step := { s.step with lastDec := 0, phase := 0 }, book := { s.book with divStep := 0 },
    sluice := { s.sluice with capW := 3200, capDuty := 3, thDuty := 3, hot := false, warm := false, admitEnd := none, ballastEnd := none },
    sec := { s.sec with sessions := 0 }, power := { s.power with taper := false },
    mgmt := { s.mgmt with base := true, service := decide (s.sec.boot = .running), joined := [], trainFails := [], update := none, staged := [], fwStatus := 0,
                          selfBusy := false, fail0 := 0, fail1 := 0 },
    rst := { s.rst with phase := .restart, abandons := none, chErrs := [], chRetrain := [], chBusy := [], copyBusy := false } }

/-- DUMP_SEALED: the dump lies in its slot; the domains reset. -/
def execDumpSealed (s : State) : Outcome State Fault Refusal :=
  .next (if s.rst.phase ≠ .dump then s
    else
      let slot := s.rst.dumpSlot
      let s := (s.writeT1 (s.dumpAddr slot).1 s.dump).1
      let valid := if bitOf s.rst.dumpValid slot then s.rst.dumpValid else s.rst.dumpValid + 2 ^ slot
      (s.updRst (fun r => { r with dumpValid := valid, dumpNewest := slot, sealedAt := some s.aon.toNat })).domainReset)

/-! ### Recovering the step (R272, R273, R389, R448) -/

/-- Tiles start again with their contexts as their save records hold them; PARKED and FAULTED ones stay. -/
def State.restoreTiles (s : State) : State :=
  match s.job.img with
  | none => s
  | some i => i.sections.foldl (fun s x =>
      if h : x.tile < 640 then
        let old := s.tile x.tile
        let s := (s.setTile x.tile (startedTile x Tile.reset)).setReg (rTileStep x.tile) (BitVec.ofNat 64 s.curStep)
        allCtxs.foldl (fun s c =>
          let l : Loc := ⟨⟨x.tile, h⟩, c⟩
          if !(old.ctxs[c]).alive then s.updCtx l (fun k => { k with mode := (old.ctxs[c]).mode })
          else if (s.ctx l).mode = .run then s.loadSave l else s) s
      else s) s

/-- Changes the step. -/
def State.updStep (s : State) (f : StepState → StepState) : State := { s with step := f s.step }

/-- The step-set contexts wait for the decision that the device's announcement or query brings. -/
def State.holdStep (s : State) : State := ((s.allStepCtxs).foldl State.holdCtx s).updStep (fun p => { p with stopped := true })

/-- A rollback's fill that the reset cut short goes on. -/
def State.resumeFill (s : State) : State := if s.belay.fill = 1 then s.askFill 1 s.belay.fillLeft else s

/-- The device takes its step up again from the route book; one that is to be finished is announced once it is (R389). -/
def State.recoverStep (s : State) : State :=
  let s := { s with emb := { s.emb with tallies := [] } }
  let wipe := fun (p : StepState) => { p with partials := [], partialSent := false, spoilt := false, jobRec := none, reports := [], rejoined := false, finished := [] }
  let s := ((s.restoreTiles).updStep wipe).resendDecision
  if s.rst.bad.any (fun r => decide (2 ≤ r)) then
    let c := s.cairn.lastC
    let s := if 2 ∈ s.rst.bad then s.takeCairn s.book.recs else s
    ((s.backTo (s.recordedEnd c)).standAt c).comeBack c
  else
    match s.step.decision with
    | some (.halt, n, _) => ((s.holdStep).updStep (fun p => { p with phase := 4 })).comeBack n
    | some (.discard, n, a) =>
      (((s.updStep (fun p => { p with decision := none, att := a + 1, reported := false, commit := none })).closeDeferral 0xA none).holdStep).comeBack n
    | some _ => s.finishStep
    | none =>
      if s.step.reported && decide (s.leader ≠ s.devId) then
        ((s.holdStep).updStep (fun p => { p with queried := true })).send s.leader s.step.no s.step.att .decisionQuery
      else ((s.updStep (fun p => { p with reported := false, commit := none })).holdStep).comeBack s.step.no

/-- The last phase: it waits while PERST# is low (R458). -/
def State.lastPhase (s : State) : State :=
  if s.host.perst then s.updRst (fun r => { r with phase := .waiting })
  else
    let s := s.openTiles
    if s.job.st = .running then (s.recoverStep).resumeFill else s.completeReset

/-- The region of a T1 address (R388): dump 0, descriptor table 1, staging 2, and from 3 on the general region's, 16 GiB each. -/
def State.regionOf (s : State) (a : Nat) : Nat :=
  if (s.dumpRegion).1 ≤ a then 0 else if (s.dtab).1 ≤ a then 1 else if (s.stage).1 ≤ a then 2 else 3 + (a - t1Base) / 2 ^ 34

/-- Whether the dump of a slot has its seal: the CRC over the length that its header gives, with the seal taken as 0 (R394). -/
def State.sealOk (s : State) (slot : Nat) : Bool :=
  let a := s.dumpAddr slot
  let n := 64 * s.peek a.1 4
  let bs := s.bytes a.1 n
  decide (n ≤ a.2 ∧ s.peek (a.1 + 44) 4 = crc32c (bs.take 44 ++ List.replicate 4 0 ++ bs.drop 48))

/-- Reads every burst of T1: correctable ones are corrected, and the regions that fail are those with an uncorrectable one, the dump region with
a dump whose seal does not match, and what else the command found. The route book's seal has no layout in the manual: the command brings its
outcome (R388; log 165). -/
def State.verifyT1 (s : State) (found : List Nat) : State × List Nat :=
  let t1 := s.upset.filter (fun e => decide (t1Base ≤ e.1 ∧ e.1 < t1End))
  let lost := (t1.filter (fun e => decide (2 ≤ e.2))).map (fun e => s.regionOf e.1)
  let seals := if [0, 1].any (fun k => bitOf s.rst.dumpValid k && !s.sealOk k) then [0] else []
  ((t1.filter (fun e => decide (e.2 = 1))).foldl (fun s e => s.correctBurst e.1) s, (found ++ lost ++ seals).eraseDups)

/-- T1_VERIFIED: the regions that the command found to fail, numbered as `regionOf` does, with those that the memory's own errors show. Lost job
state comes back from the partner; without one the job ends. -/
def execT1Verified (found : List Nat) (s : State) : Outcome State Fault Refusal :=
  .next (if s.rst.phase ≠ .restart ∨ s.mgmt.joined.length < 24 then s
    else
      let y := s.verifyT1 found
      let bad := y.2
      let s := y.1.updRst (fun r => { r with bad := bad, phase := .reload, dumpValid := if 0 ∈ bad then 0 else r.dumpValid })
      if s.job.st = .empty then s.lastPhase
      else if bad.any (fun r => decide (2 ≤ r)) && decide (s.job.st = .running) then
        if s.partner.isSome then
          let s := if 2 ∈ bad then { s with book := { s.book with recs := [] } } else s
          ((s.abandonCairn).updCairn (fun k => { k with st := 5, full := true })).askFill 3 [wholeStream]
        else ((s.endJob).post none 7 0 0 0 s.rst.trigSeq)
      else s)

/-- The image's configuration, queues lost with their region, and SRAM contents again, with every hot set empty; of a running job the shadow
then goes over them (R238, R389, R402). -/
def State.reloadImage (s : State) (i : JobImage) : State :=
  let s := i.regWrites.foldl State.imageWrite s
  let s := if 1 ∈ s.rst.bad then s.loadQueues i else s
  let s := allTiles.foldl State.emptyHot (i.sections.foldl State.loadSection s)
  if s.job.st = .running then s.fromShadow else s

/-- A base camp job ends with the reset (R447). -/
def State.endBaseJob (s : State) : State :=
  let s := s.endJob
  ({ s with job := { s.job with st := .empty, img := none, members := [], baseRun := false }, tiles := [], emb := .reset } : State).post none 7 0 0 0 s.rst.trigSeq

/-- JOB_IMAGE_RELOAD, once a fill has ended: the image is read and checked again; one in T2 waits for the host link (R318, R389). -/
def execJobImageReload (img : ImageRead) (s : State) : Outcome State Fault Refusal :=
  .next (if s.rst.phase ≠ .reload ∨ s.belay.fill = 3 then s
    else if s.job.baseRun then (s.endBaseJob).lastPhase
    else if s.farWaits s.job.addr then s
    else
      let y := s.readMem s.job.addr s.job.len
      match y.2, img, s.job.img with
      | some bs, .image _, some old =>
        if imageDigest old bs = s.job.ident ∧ imageCarried old bs = s.job.ident then (y.1.reloadImage old).lastPhase else y.1.failReset true
      | none, _, _ => (y.1.noteError (farClass s.job.addr) 1 s.job.addr).failReset true
      | some _, .unreadable, _ =>
        let w := y.1.draw
        (w.2.noteError (farClass s.job.addr) 1 w.1.toNat).failReset true
      | _, _, _ => y.1.failReset true)

/-! ### Requests by register -/

/-- A copy of a dump slot starts (R395). -/
def State.startCopy (s : State) : State := s.updRst (fun r => { r with copyBusy := true })

/-- DUMP_COPY_DONE: the slot's bytes stand in host memory; a write that fails is recorded, and an uncorrectable burst of the slot is an error
of the ERR_ block, which resets the device at once (R373, R387, R391). No write completes while the host link serves none, or writes stop (R318, R357). -/
def execDumpCopyDone (ok : Bool) (s : State) : Outcome State Fault Refusal :=
  .next (if !s.rst.copyBusy || (ok && (!s.hostUp || s.writesStop)) then s
    else
      let s := s.updRst (fun r => { r with copyBusy := false })
      let w := s.reg rDumpCpy
      let dst := t2Base + wfld w 63 12 * 4096
      let slot := s.dumpAddr (wfld w 1 1)
      if !ok then s.noteError 6 1 dst
      else
        let y := s.readT1 slot.1 slot.2
        match y.2 with
        | some bs => y.1.poke dst bs
        | none => (y.1.logEntry ⟨0, 4, 1, 1, 0, 0, 0, 0, 0, 0, 0x704, 0, 0xF, slot.1, 0, 0⟩).escalate 6 y.1.log.next)

end Sys2Proof.Machine
end

