-- ==== Sys2Proof/Machine/Power.lean ====
section
/-! DEFINITION. The input stage, feed failures, trips and sensors, the sluice's cycle, the host link, and the way out of base camp mode
(R318, R341, R346, R351, R356 to R358, R369, R386, R443 to R446, R455 to R458). -/
namespace Sys2Proof.Machine

open Host (Outcome)

/-- Changes the input side. -/
def State.updPower (s : State) (f : Power → Power) : State := { s with power := f s.power }

/-- Changes the host port. -/
def State.updHost (s : State) (f : HostPort → HostPort) : State := { s with host := f s.host }

/-- Changes the management controller. -/
def State.updMgmt (s : State) (f : Mgmt → Mgmt) : State := { s with mgmt := f s.mgmt }

/-! ### Power-on and power loss (R346, R358, R386, R456) -/

/-- Whether the always-on domain is powered. -/
def State.powered (s : State) : Bool := decide (s.power.stage = .good ∨ s.power.stage = .hold ∨ s.power.stage = .clamped)

/-- The MOD_PWRGD pin (R452, R456): high from power-good until the hot-swap stage opens or the input is lost (log 32). -/
def State.modPwrgd (s : State) : Bool := s.powered

/-- The MOD_FAULT# pin (R390, R452): low while the device is FAILED. -/
def State.modFaultN (s : State) : Bool := decide (s.rst.phase ≠ .failed)

/-- The MGT_ALERT# pin (R452): open drain, unused and so released under I3C; under SMBus the manual does not say when the module asserts it
(log 167). -/
def State.mgtAlertN (s : State) : Bool := !(s.mgmt.smbus && Config.smbusAlert s.aon.toNat)

/-- Every part has stopped: all that is left is the boot ROM and flash, the memory outside the module, what has been sent, and the commands still to
come. -/
def State.cold (s : State) (stage : Stage) (modEn : Bool) : State :=
  let s := s.cutTransfer
  { State.reset with
    pending := s.pending, freeCtr := s.freeCtr, out := s.out, flash := s.flash, hostRd := s.hostRd, rdBytes := s.rdBytes, rom := s.rom,
    mem := s.mem.filter (fun c => decide (t2Base ≤ c.1)),
    host := { HostPort.reset with perst := s.host.perst },
    belay := { BelayState.reset with expSlots := s.belay.expSlots, expBook := s.belay.expBook },
    power := { Power.off with stage := stage, modEn := modEn } }

/-- POWER_LOST: the input is below 30 V. -/
def execPowerLost (s : State) : Outcome State Fault Refusal := .next (s.cold .off s.power.modEn)

/-- MOD_EN_RISE: inrush begins. -/
def execModEnRise (s : State) : Outcome State Fault Refusal :=
  .next (if s.power.stage = .off ∨ s.power.stage = .opened then s.updPower (fun p => { p with stage := .inrush, modEn := true })
    else s.updPower (fun p => { p with modEn := true }))

/-! ### Feed failure (R357, R358) -/

/-- The POWER entry of a feed failure or trip: in handling until the reset that it begins completes. -/
def State.powerEntry (s : State) (cause : Nat) : State :=
  s.logEntry ⟨0, 9, cause, 1, 0, 0, 0, 0, 0, 0, noUnit, 0, 0xF, (s.reg rSens).toNat, (s.reg rTemp).toNat, 0⟩

/-- Whether an event reaches its crossing before the destination has taken the one of aon count t: a crossing into the always-on
domain passes one event in two aon cycles (R363). -/
def State.crossingBusy (s : State) (t : Option Nat) : Bool :=
  match t with
  | some t => decide (s.aon.toNat < t + 2)
  | none => false

/-- A feed failure is declared: the deferral, the entry, the taper, and the device reset that it begins. A FAILED device only tapers. -/
def State.beginFeed (s : State) : State :=
  let s := (s.updPower (fun p => { p with feedFail := true, taper := true })).ensureDeferral 0xB 1 0x1E noUnit 0
  let seq := s.log.next
  let s := s.powerEntry 1
  (if s.rst.phase = .failed then s else s.escalate 3 seq).retarget

/-- Whether a declared feed failure stands: its device reset has not begun, or holds; in a FAILED device, until the input is back (log 138). -/
def State.feedStands (s : State) : Bool :=
  s.power.feedFail && (decide (s.rst.trigger.map (·.1) = some 3 ∨ s.rst.phase = .hold) || (decide (s.rst.phase = .failed) && s.power.taper))

/-- The comparator's event: counted at its source; one that meets the last one in the crossing sets the overrun bit and is one event with
it (R363). A failure that stands is not declared again (log 138). -/
def State.declareFeed (s : State) (stage : Stage) : State :=
  let stands := s.feedStands
  let s := (s.updPower (fun p => { p with stage := stage })).count rCntFeed 1
  if s.crossingBusy s.power.feedAt then s.overrun 3
  else
    let s := s.updPower (fun p => { p with feedAt := some s.aon.toNat })
    if stands then s else s.beginFeed

/-- FEED_FAILURE: two consecutive samples below 38 V. In the hold region the input may fall below 38 V again. -/
def execFeedFailure (mv1 mv2 : Nat) (s : State) : Outcome State Fault Refusal :=
  .next (if !s.powered ∨ 38000 ≤ mv1 ∨ 38000 ≤ mv2 then s
    else if s.power.stage = .clamped then s.declareFeed .clamped
    else (s.setReg rSens (wset (s.reg rSens) 63 48 mv2)).declareFeed .hold)

/-- OVERVOLTAGE_CLAMP: above 52 V for 10 µs, from the hold region too; beyond 65 V nothing is guaranteed (R455). -/
def execOvervoltageClamp (mv : Nat) (s : State) : Outcome State Fault Refusal :=
  if 65000 < mv then .fault .beyondRatings
  else .next (if (s.power.stage ≠ .good ∧ s.power.stage ≠ .hold) ∨ mv ≤ 52000 then s else s.declareFeed .clamped)

/-- OVERVOLTAGE_OPEN: above 50 V for 100 ms after the clamp. -/
def execOvervoltageOpen (s : State) : Outcome State Fault Refusal :=
  .next (if s.power.stage = .clamped then s.cold .opened s.power.modEn else s)

/-- INPUT_RESTORED: 40 V or more for 10 ms; the device reset goes on with the restart of its domains. -/
def execInputRestored (s : State) : Outcome State Fault Refusal :=
  .next (if (s.power.stage ≠ .hold ∧ s.power.stage ≠ .clamped) ∨ s.power.closing = true ∨ (s.rst.trigger.isSome = true ∧ s.rst.phase ≠ .failed) then s
    else
      let s := s.updPower (fun p => { p with stage := .good, taper := p.taper && decide (s.rst.phase ≠ .failed) })
      if s.rst.phase = .hold then s.domainReset else s)

/-- MOD_EN_FALL: charging stops, or the module acts as on a feed failure and then opens. -/
def execModEnFall (s : State) : Outcome State Fault Refusal :=
  .next (if s.power.stage = .inrush then s.cold .off false
    else
      let s := s.updPower (fun p => { p with modEn := false })
      if s.powered then (s.updPower (fun p => { p with closing := true })).declareFeed (if s.power.stage = .clamped then .clamped else .hold) else s)

/-- Whether a MOD_EN shutdown has released every quantum with T1 in self-refresh. -/
def State.drained (s : State) : Bool :=
  s.power.closing && s.sluice.up.isEmpty && s.sluice.down.isEmpty && s.sluice.budget.isEmpty &&
  decide (s.rst.phase = .hold ∨ s.rst.phase = .failed ∨ s.sec.boot ≠ .running)

/-! ### The aon cycle (R351, R353, R360, R368, R369) -/

/-- SLUICE_PAYOUT: one aon cycle, which AON_CNT counts. -/
def execSluicePayout (s : State) : Outcome State Fault Refusal :=
  .next (if !s.powered then s
    else if s.drained then s.cold .opened false
    else
      let s := { s with aon := s.aon + 1 }
      let p := s.sluice.payout s.slewRate
      (((s.updSluice (fun _ => p.1)).sluiceCounts p.2).lowerRims).episodes)

/-! ### Trips and temperatures (R356) -/

/-- The SEQ of the trip's entry, while the log holds it. -/
def State.tripSeq (s : State) : Nat :=
  match s.log.slots.find? (fun x => match x.2 with | some e => decide (e.cls = 9 ∧ e.cause = 2 ∧ e.state = 1) | none => false) with
  | some (_, some e) => e.seq
  | _ => s.log.next

/-- The trip: engine writes stop, the TTRIP deferral, the entry, and the taper. -/
def State.beginTrip (s : State) : State :=
  let s := (s.updPower (fun p => { p with ttrip := true, taper := true })).ensureDeferral 0xC 1 0x18 noUnit 0
  (s.powerEntry 2).retarget

/-- THERMAL_TRIP: the die is at 115 °C. Counted at its source, with the crossing as for a feed failure; a trip that stands is not taken
again (R363; log 138). -/
def execThermalTrip (die : Fin 3) (s : State) : Outcome State Fault Refusal :=
  .next (if !s.powered then s
    else
      let s := (s.updSluice (fun k => { k with tripped := withOne k.tripped die.val, hot := true, warm := true })).count rCntTtrip 1
      if s.crossingBusy s.power.tripAt then s.overrun 4
      else
        let s := s.updPower (fun p => { p with tripAt := some s.aon.toNat })
        if s.power.ttrip && s.power.taper then s else s.beginTrip)

/-- The field of AON_TEMP of a die. -/
def tempLow (die : Fin 3) : Nat := 48 - 16 * die.val

/-- A die's reading: targets are capped from 105 °C on. -/
def Sluice.reading (k : Sluice) (die : Fin 3) (t : BitVec 16) : Sluice :=
  { k with temps := k.temps.set die t,
           tripped := if 16 * 105 ≤ degrees t then withOne k.tripped die.val else without k.tripped die.val }

/-- After readings: the targets, and after a trip the reset once every die is below 90 °C. -/
def State.afterTemps (s : State) : State :=
  let s := (s.updSluice Sluice.watch).retarget
  if s.power.ttrip && s.power.taper && s.sluice.tripped.isEmpty && !s.sluice.anyAtLeast 90 && s.rst.trigger.isNone &&
      decide (s.rst.phase ≠ .failed) then s.escalate 4 s.tripSeq
  else s

/-- DIE_TEMPERATURE_LIMIT: a sample that reaches or leaves 105 °C. -/
def execDieTemperatureLimit (die : Fin 3) (temp : BitVec 16) (s : State) : Outcome State Fault Refusal :=
  .next (if !s.powered then s
    else
      let s := s.setReg rTemp (wset (s.reg rTemp) (tempLow die + 15) (tempLow die) temp.toNat)
      (s.updSluice (fun k => k.reading die temp)).afterTemps)

/-! ### Sensors (R369, R443) -/

/-- The thresholds that samples are beyond, as (sensor, threshold): 1 upper warning, 2 upper critical, 3 upper fatal, 4 lower warning,
5 lower critical. A die's limits hold from their value on, the others beyond it. -/
def beyond (x : Sensors) (capW : Nat) : List (Nat × Nat) :=
  let on := fun (b : Bool) (k : Nat × Nat) => if b then [k] else []
  let v := x.vin.toNat
  let die := fun (id : Nat) (t : BitVec 16) => on (decide (16 * 95 ≤ degrees t)) (id, 1) ++ on (decide (16 * 105 ≤ degrees t)) (id, 2) ++
    on (decide (16 * 115 ≤ degrees t)) (id, 3)
  on (decide (50000 < v)) (1, 1) ++ on (decide (v < 40000)) (1, 4) ++ on (decide (v < 38000)) (1, 5) ++
  on (decide (7270 < x.iin.toNat)) (2, 1) ++ on (decide (8000 < x.iin.toNat)) (2, 2) ++
  on (decide (capW * 100000 < v * x.iin.toNat)) (3, 1) ++ die 4 x.die0 ++ die 5 x.die1 ++ die 6 x.hub ++
  on (decide (16 * 40 < degrees x.inlet)) (7, 1)

/-- The messages of the thresholds crossed. -/
def crossings (old new : List (Nat × Nat)) : List Sent :=
  (new.filter (fun k => k ∉ old)).map (fun k => Sent.sensor k.1 k.2 true) ++
  (old.filter (fun k => k ∉ new)).map (fun k => Sent.sensor k.1 k.2 false)

/-- The always-on registers take the samples. -/
def State.takeSamples (s : State) (x : Sensors) : State :=
  let s := (s.setReg rSens (BitVec.ofNat 64 (x.vin.toNat * 2 ^ 48 + x.iin.toNat * 2 ^ 32))).setReg rTemp
    (BitVec.ofNat 64 (x.die0.toNat * 2 ^ 48 + x.die1.toNat * 2 ^ 32 + x.hub.toNat * 2 ^ 16 + x.inlet.toNat))
  (s.updSluice (fun k => ((k.reading 0 x.die0).reading 1 x.die1).reading 2 x.hub)).afterTemps

/-- SENSOR_UPDATE. Messages go to the event receiver: the bus owner, once it has set the endpoint ID, since no row sets a receiver (log 168). Beyond the
absolute maximum ratings nothing is guaranteed (R455). -/
def execSensorUpdate (x : Sensors) (s : State) : Outcome State Fault Refusal :=
  if 65000 < x.vin.toNat ∨ 16 * 55 < degrees x.inlet then .fault .beyondRatings
  else .next (if !s.powered then s
    else
      let s := s.takeSamples x
      let now := beyond x (wfld (s.reg rSluCap) 11 0)
      { s.updMgmt (fun m => { m with crossed := now }) with
        out := s.out ++ if s.mgmt.eid.isSome then crossings s.mgmt.crossed now else [] })

/-! ### PERST# (R458) -/

/-- PERST_ASSERT: `long` when it lasts 100 µs or more. -/
def execPerstAssert (long : Bool) (s : State) : Outcome State Fault Refusal :=
  .next (let s := s.updHost (fun h => { h with perst := true, trained := false, width := 0, rate := 0, degr := false })
    if long && s.powered && decide (s.sec.boot = .running ∧ s.rst.phase ≠ .failed) && s.rst.trigger.isNone && !s.rst.phase.active then s.hostReset else s)

/-- PERST_RELEASE: a reset that waits ends. -/
def execPerstRelease (s : State) : Outcome State Fault Refusal :=
  .next (let s := s.updHost (fun h => { h with perst := false })
    if s.rst.phase = .waiting then s.lastPhase else s)

/-! ### The host link (R318, R341, R386, R444) -/

/-- Whether the host link can train. -/
def State.canTrain (s : State) : Bool := s.hubUp && decide (s.sec.boot = .running) && !s.host.perst

/-- With the host link back, the flag page is written as the hub holds it (R325): updates waited (R318). -/
def State.flushFlags (s : State) : State :=
  let fb := (s.reg rFlagBase).toNat
  if bitOf fb 0 && s.hostUp then s.poke (t2Base + fld fb 63 12 * 4096) s.qm.flags else s

/-- What waited for the host link goes: the flag page, posted writes, NVMe commands, the events of rings in T2, and the seal of an export copy
(R318). -/
def State.linkBack (s : State) : State :=
  ((s.qm.held.map (·.1)).foldl (fun s q => s.drainHeld q (2 ^ (s.desc q).log2n + 1)) (s.flushFlags).flushFar).maybeSeal

/-- HOST_LINK_TRAINED at 32 (rate 1) or 64 GT/s (rate 2), with the PBR ID that the fabric manager assigns, and with IDE keys established or
not (R317, R341). -/
def execHostLinkTrained (shape : PortShape) (peer : PortPeer) (s : State) : Outcome State Fault Refusal :=
  .next (if !s.canTrain ∨ shape.width ∉ hostCaps.widths ∨ shape.rate ∉ hostCaps.rates then s
    else ((s.updHost (fun h => { h with trained := true, width := shape.width, rate := shape.rate, degr := false,
                                        ide := if peer.secure then 1 else 0, pbrid := peer.pbrid % 2 ^ hostCaps.pbrBits })).updMgmt
      (fun m => { m with service := true })).linkBack)

/-- A HOST entry with no address and no completion: its QW5 and QW6 are free values. -/
def State.hostEntry (s : State) (cause : Nat) : State :=
  let a := s.draw
  let b := a.2.draw
  b.2.logError 6 cause noUnit 0 0xF a.1.toNat b.1.toNat 0

/-- CXL_RATE_DEGRADED: the link trained below 32 GT/s and serves CXL.io only. -/
def execCxlRateDegraded (width : Nat) (s : State) : Outcome State Fault Refusal :=
  .next (if !s.canTrain ∨ width ∉ hostCaps.widths then s
    else ((s.updHost (fun h => { h with trained := true, width := width, rate := 3, degr := true, ide := 0 })).updMgmt
      (fun m => { m with service := true })).hostEntry 5)

/-- IDE_INTEGRITY_FAILURE. -/
def execIdeIntegrityFailure (s : State) : Outcome State Fault Refusal :=
  .next (if !s.host.trained then s else (s.updHost (fun h => { h with ide := 2 })).hostEntry 3)

/-- HOST_LINK_DOWN. -/
def execHostLinkDown (s : State) : Outcome State Fault Refusal :=
  .next (s.updHost (fun h => { h with trained := false, width := 0, rate := 0, degr := false }))

/-- HOST_LINK_TRAIN_TIMEOUT. -/
def execHostLinkTrainTimeout (s : State) : Outcome State Fault Refusal :=
  .next (if decide (s.sec.boot = .running) && !s.host.trained then s.updMgmt (fun m => { m with service := true }) else s)

/-! ### LPDDR5X bring-up (R444, R446) -/

/-- CONTROLLER_TRAINED: controllers join one at a time in logical order, each once its two quanta are admitted; the third failure escalates. -/
def execControllerTrained (c : Fin 24) (ok : Bool) (s : State) : Outcome State Fault Refusal :=
  .next (if !s.mgmt.service ∨ s.mgmt.joined.length ≠ c.val ∨ s.budget (652 + c.val) ≠ 2 * 16 * 68 then s
    else if ok then s.updMgmt (fun m => { m with joined := m.joined ++ [c.val], trainFails := m.trainFails.put (fun _ => 0) c.val 0 })
    else
      let n := s.mgmt.trainFails.get (fun _ => 0) c.val + 1
      let s := s.updMgmt (fun m => { m with trainFails := m.trainFails.put (fun _ => 0) c.val (n % 3) })
      if n = 3 then s.logError 4 3 (0x400 + c.val) 0 0xF (4 * c.val) 0 0 else s)

/-- CHANNEL_INITIALISED. -/
def execChannelInitialised (c : Fin 96) (s : State) : Outcome State Fault Refusal :=
  .next (if c.val / 4 ∈ s.mgmt.joined then s.updMgmt (fun m => { m with channels := withOne m.channels c.val }) else s)

/-- BASE_CAMP_END after a power-on; a device reset ends it as it announces rejoin. What waited for T1 goes on (R445). -/
def execBaseCampEnd (s : State) : Outcome State Fault Refusal :=
  .next (if s.mgmt.base && decide (s.mgmt.channels.length = 96 ∧ s.rst.phase = .none) then (((s.updMgmt (fun m => { m with base := false })).retarget).nvmeFlush).resumeRows
    else s)

end Sys2Proof.Machine
end

