-- ==== Sys2Proof/Machine/Sm2.lean ====
section
/-! DEFINITION. SM2 (GB/T 32918) over its recommended curve: public keys and the verification of a signature with SM3 and the default signer
identity, which R426 and R432 name (log 14). -/
namespace Sys2Proof

/-- The prime of the field. -/
def sm2P : Nat := 0xFFFFFFFEFFFFFFFFFFFFFFFFFFFFFFFFFFFFFFFF00000000FFFFFFFFFFFFFFFF

/-- The curve's b; its a is −3. -/
def sm2B : Nat := 0x28E9FA9E9D9F5E344D5A9E4BCF6509A7F39789F515AB8F92DDBCBD414D940E93

/-- The base point. -/
def sm2G : Nat × Nat :=
  (0x32C4AE2C1F1981195F9904466A39C9948FE30BBFF2660BE1715A4589334C74C7, 0xBC3736A2F4F6779C59BDCEE36B692153D0A9877CC62A474002DF32E52139F0A0)

/-- A difference in the field. -/
def fieldSub (a b : Nat) : Nat := (a + (sm2P - b % sm2P)) % sm2P

/-- A point in Jacobian coordinates: (x / z², y / z³), or the point at infinity where z is 0. -/
structure JacPoint where
  x : Nat
  y : Nat
  z : Nat
  deriving DecidableEq, Repr

/-- The point at infinity. -/
def JacPoint.zero : JacPoint := ⟨1, 1, 0⟩

/-- Twice a point. -/
def JacPoint.double (q : JacPoint) : JacPoint :=
  let yy := q.y * q.y % sm2P
  let s := 4 * q.x * yy % sm2P
  let zz := q.z * q.z % sm2P
  let m := 3 * (fieldSub q.x zz * (q.x + zz)) % sm2P
  let x := fieldSub (m * m) (2 * s)
  ⟨x, fieldSub (m * fieldSub s x) (8 * yy * yy), 2 * q.y * q.z % sm2P⟩

/-- The sum of a point and one in affine coordinates. -/
def JacPoint.plus (q : JacPoint) (p : Nat × Nat) : JacPoint :=
  if q.z = 0 then ⟨p.1, p.2, 1⟩
  else
    let zz := q.z * q.z % sm2P
    let h := fieldSub (p.1 * zz) q.x
    let r := fieldSub (p.2 * (zz * q.z % sm2P)) q.y
    if h = 0 then (if r = 0 then q.double else .zero)
    else
      let hh := h * h % sm2P
      let hhh := h * hh % sm2P
      let v := q.x * hh % sm2P
      let x := fieldSub (r * r) (hhh + 2 * v)
      ⟨x, fieldSub (r * fieldSub v x) (q.y * hhh), q.z * h % sm2P⟩

/-- Adds the multiple of p by the low i bits of k to 2^i times q. -/
def timesFrom (k : Nat) (p : Nat × Nat) : Nat → JacPoint → JacPoint
  | 0, q => q
  | i + 1, q =>
    let d := q.double
    timesFrom k p i (if k.testBit i then d.plus p else d)

/-- b to the low i bits of e, times x to the power 2^i, modulo m. -/
def powFrom (m b e : Nat) : Nat → Nat → Nat
  | 0, x => x
  | i + 1, x =>
    let y := x * x % m
    powFrom m b e i (if e.testBit i then y * b % m else y)

/-- A point's affine coordinates; the point at infinity gives (0, 0). -/
def JacPoint.affine (q : JacPoint) : Nat × Nat :=
  let i := powFrom sm2P (q.z % sm2P) (sm2P - 2) 256 1
  (q.x * (i * i % sm2P) % sm2P, q.y * (i * i % sm2P * i % sm2P) % sm2P)

/-- The public key of a private key (R432). -/
def publicKey (d : Nat) : Nat × Nat := ((timesFrom d sm2G 256 .zero)).affine

/-- Whether a point lies on the curve. -/
def onCurve (p : Nat × Nat) : Bool :=
  decide (p.1 < sm2P ∧ p.2 < sm2P ∧ p.2 * p.2 % sm2P = (p.1 * p.1 * p.1 + (sm2P - 3) * p.1 + sm2B) % sm2P)

/-- A public key as bytes: x, then y (R426). -/
def keyBytes (p : Nat × Nat) : List Byte := beBytes 32 p.1 ++ beBytes 32 p.2

/-- The default signer identity, "1234567812345678". -/
def defaultId : List Byte := let half : List Byte := [0x31, 0x32, 0x33, 0x34, 0x35, 0x36, 0x37, 0x38]; half ++ half

/-- The hash of a message that a key with the default identity signs. -/
def signedHash (key : Nat × Nat) (msg : List Byte) : Nat :=
  let za := sm3 (beBytes 2 128 ++ defaultId ++ keyBytes (sm2P - 3, sm2B) ++ keyBytes sm2G ++ keyBytes key)
  sm3 (beBytes 32 za ++ msg)

/-- Whether a signature (r, s) of a message verifies under a public key. -/
def sm2Verify (key : Nat × Nat) (msg : List Byte) (sig : Nat × Nat) : Bool :=
  let t := (sig.1 + sig.2) % sm2Order
  onCurve key && decide (1 ≤ sig.1 ∧ sig.1 < sm2Order ∧ 1 ≤ sig.2 ∧ sig.2 < sm2Order ∧ t ≠ 0) &&
  (let q := (timesFrom sig.2 sm2G 256 .zero).plus (timesFrom t key 256 .zero).affine
   decide ((signedHash key msg + q.affine.1) % sm2Order = sig.1))

end Sys2Proof
end

