-- ==== Sys2Proof/Machine/Manage.lean ====
section
/-! DEFINITION. Boot, identity and measurements, firmware update and activation, the management bus's requests, the self-test
(R15, R399, R425 to R437, R439, R441, R449, R452). -/
namespace Sys2Proof.Machine

open Host (Outcome)

/-- Changes the security engine. -/
def State.updSec (s : State) (f : Security → Security) : State := { s with sec := f s.sec }

/-- Changes the boot flash. -/
def State.updFlash (s : State) (f : Flash → Flash) : State := { s with flash := f s.flash }

/-- Answers a bus owner. -/
def State.answer (s : State) (x : Sent) : State := { s with out := s.out ++ [x] }

/-! ### Components (R426, R427) -/

/-- Bytes 0 to 127 of a component's header, which SIG signs. -/
def signedPart (c : Component) : List Byte :=
  leBytes 4 c.magic ++ leBytes 4 c.comp ++ leBytes 8 c.version ++ leBytes 4 c.svn ++ leBytes 4 c.floor ++ leBytes 8 c.len ++
  beBytes 32 c.digest ++ keyBytes c.signer

/-- ASCII "NDEC", in little-endian order (R4). -/
def magicWord : Nat := 0x4345444E

/-- Whether a component is valid where a COMP is expected, under the ROM's vendor key hash and a rollback floor. -/
def validComp (c : Component) (comp key floor : Nat) : Bool :=
  decide (c.magic = magicWord ∧ c.comp = comp ∧ floor ≤ c.svn ∧ c.len = c.bytes.length) && decide (sm3 (keyBytes c.signer) = key) &&
  decide (sm3 c.bytes = c.digest) && sm2Verify c.signer (signedPart c) c.sig

/-- A component that is there and valid. -/
def validAt (c : Option Component) (comp key floor : Nat) : Option Component := c.filter (fun c => validComp c comp key floor)

/-- The firmware components of a slot: first stage and main firmware. -/
def Flash.slot (f : Flash) (k : Nat) : Option Component × Option Component :=
  if k = 0 then (f.firstA, f.mainA) else (f.firstB, f.mainB)

/-- The configuration record, with its copy: of two valid ones that of the higher sequence number, of two equal ones copy A. -/
def Flash.config (f : Flash) (key : Nat) : Option (Component × Nat) :=
  match validAt f.recA 3 key f.counter, validAt f.recB 3 key f.counter with
  | some a, some b => if a.body.seqNo < b.body.seqNo then some (b, 1) else some (a, 0)
  | some a, none => some (a, 0)
  | none, some b => some (b, 1)
  | none, none => none

/-! ### The boot chain (R428 to R433) -/

/-- Extends measurement register i. -/
def Security.extend (k : Security) (i : Fin 8) (d : Nat) : Security := { k with meas := k.meas.set i (extendMeas k.meas[i] d) }

/-- Steps 1 to 3 with slot k: whether both components are valid, the measurements taken as far as the chain came. -/
def Security.tryslot (c : Security) (f : Flash) (key k : Nat) : Security × Option (Component × Component) :=
  match validAt (f.slot k).1 1 key f.counter with
  | none => (c, none)
  | some a =>
    let c := c.extend 1 a.digest
    match validAt (f.slot k).2 2 key f.counter with
    | none => (c, none)
    | some b => (c.extend 2 b.digest, some (a, b))

/-- A CONFIG entry; the manual gives its failing check no code. -/
def State.configError (s : State) : State :=
  let w := s.draw
  w.2.logError 0xC 1 noUnit 0 0xF w.1.toNat 0 0

/-- A die's map names exactly 320 of its 328 physical tiles, no tile twice (R14, R15). -/
def dieMapOk (l : List Nat) : Bool := decide (l.length = 320 ∧ l.Nodup) && l.all (fun p => decide (p < 328))

/-- Whether a repair map names exactly 320 enabled tiles per die in a valid arrangement (R15). -/
def mapOk (b : ConfigBody) : Bool := decide (b.repair.length = 2) && b.repair.all dieMapOk && b.linked

/-- Step 4: the configuration record, chosen once in a power-on (R16, R94; log 137). Without one that R15 accepts no tile is
enabled. -/
def State.applyConfig (s : State) : State :=
  let c := match s.sec.cfg with
    | some c => c
    | none => s.flash.config s.rom.keyHash
  let s := s.updSec (fun k => { k with cfg := some c })
  match c with
  | none => (s.updSec (fun k => { k with tilesOn := false, cfgCopy := 0 })).configError
  | some (c, copy) =>
    let s := s.updSec (fun k => { k.extend 3 c.digest with cfgCopy := copy })
    if mapOk c.body then s.updSec (fun k => { k with tilesOn := true, repair := c.body.repair, rowMap := c.body.rowMap })
    else (s.updSec (fun k => { k with tilesOn := false })).configError

/-- The device identity key that a seed gives (R432): from the seed and "ID". -/
def identityKey (seed : BitVec 256) : Nat := derivedKey (beBytes 32 seed.toNat ++ [0x49, 0x44])

/-- Step 5: the identity, when the derived public key is that of the device identity certificate; the alias key from the seed and the measurements,
and its certificate. -/
def State.identify (s : State) (x : Straps) : State :=
  match x.seed with
  | none => s.updSec (fun k => { k with idok := false, aliasKey := none, aliasCert := none })
  | some seed =>
    if s.flash.ident.devKey = some (publicKey (identityKey seed)) then
      let k := s.sec
      let d := derivedKey (beBytes 32 seed.toNat ++ beBytes 32 k.meas[1] ++ beBytes 32 k.meas[2] ++ beBytes 32 k.meas[3])
      let n := s.freeCtr
      ({ s with freeCtr := n + 1 } : State).updSec (fun k => { k with
        idok := true, aliasKey := some d, aliasCert := some ⟨publicKey d, Config.aliasSig n⟩ })
    else s.updSec (fun k => { k with idok := false, aliasKey := none, aliasCert := none })

/-- The main firmware of slot k starts. -/
def State.runFirmware (s : State) (k : Nat) (p : Component × Component) (x : Straps) : State :=
  let s := s.updSec (fun c => { c with
    boot := .running, bootSlot := k, fallback := decide (k ≠ s.flash.active), svn := p.2.svn, floor1 := p.1.floor, floor2 := p.2.floor })
  (s.applyConfig).identify x

/-- At power-on an activated slot becomes the active one (R437). -/
def Flash.powerOn (f : Flash) : Flash := if f.pend then { f with active := 1 - f.active, pend := false } else f

/-- The boot chain: the active slot, then the other; ROM recovery when both fail. -/
def State.boot (s : State) (x : Straps) : State :=
  let s := (s.updSec (fun c => c.extend 0 (sm3 s.rom.version))).updFlash Flash.powerOn
  let key := s.rom.keyHash
  let k := s.flash.active
  let a := s.sec.tryslot s.flash key k
  match a.2 with
  | some p => (s.updSec (fun _ => a.1)).runFirmware k p x
  | none =>
    let b := a.1.tryslot s.flash key (1 - k)
    match b.2 with
    | some p => (s.updSec (fun _ => b.1)).runFirmware (1 - k) p x
    | none => s.updSec (fun _ => { b.1 with boot := .recovery })

/-- POWER_GOOD: the straps, once, and the boot chain. -/
def execPowerGood (x : Straps) (s : State) : Outcome State Fault Refusal :=
  .next (if s.sec.boot ≠ .none ∨ (s.power.stage ≠ .inrush ∧ s.power.stage ≠ .good) then s
    else
      let s := if s.power.sampled then s
        else { (s.updMgmt (fun m => { m with smbus := x.smbus })) with belay := { s.belay with feed := x.feed.val } }
      (s.updPower (fun p => { p with stage := .good, sampled := true })).boot x)

/-- ROLLBACK_FLOOR_RAISE (R431): the counter only rises. -/
def execRollbackFloorRaise (s : State) : Outcome State Fault Refusal :=
  .next (if decide (s.sec.boot = .running) && s.mgmt.service && s.host.trained then
      s.updFlash (fun f => { f with counter := max f.counter (max s.sec.floor1 s.sec.floor2) })
    else s)

/-! ### Requests on the management bus (R433, R434, R441) -/

/-- SET_ENDPOINT_ID. -/
def execSetEndpointId (eid : BitVec 8) (s : State) : Outcome State Fault Refusal :=
  .next (if s.sec.boot = .none ∨ s.hubUp = false then s else s.updMgmt (fun m => { m with eid := some eid }))

/-- Whether a request's answer always carries a signature. -/
def signsAlways : SpdmReq → Bool
  | .challenge _ => true
  | .keyExchange _ => true
  | _ => false

/-- The certificate slot that a request names. -/
def slotAsked : SpdmReq → Nat
  | .certificate k => k
  | .challenge k => k
  | .keyExchange k => k
  | _ => 0

/-- SPDM_REQUEST. Without an identity one that needs a signature is answered with Unspecified (0x05). What R434 does not support is answered with
UnsupportedRequest (0x07), a slot or index that it does not have with InvalidRequest (0x01), a fifth session with SessionLimitExceeded
(0x0A), as SPDM 1.2 numbers them (log 103). The boot ROM does not answer. -/
def execSpdmRequest (needsSignature : Bool) (req : SpdmReq) (s : State) : Outcome State Fault Refusal :=
  .next (if s.sec.boot ≠ .running ∨ s.hubUp = false then s
    else if (needsSignature || signsAlways req) && !s.sec.idok then s.answer (.spdm (.error 5))
    else if slotAsked req ≠ 0 then s.answer (.spdm (.error 1))
    else match req with
      | .pskExchange => s.answer (.spdm (.error 7))
      | .setCertificate => s.answer (.spdm (.error 7))
      | .certificate _ =>
        (match s.sec.aliasCert with
        | some c => s.answer (.spdm (.chain s.flash.ident.vendorChain s.flash.ident.devCert c))
        | none => s.answer (.spdm (.error 5)))
      | .measurement i =>
        if 1 ≤ i ∧ i ≤ 5 then s.answer (.spdm (.measurement (s.sec.meas.toList.getD (i - 1) 0))) else s.answer (.spdm (.error 1))
      | .keyExchange _ =>
        if s.sec.sessions < 4 then (s.updSec (fun k => { k with sessions := k.sessions + 1 })).answer (.spdm .done)
        else s.answer (.spdm (.error 0xA))
      | .endSession => (s.updSec (fun k => { k with sessions := k.sessions - 1 })).answer (.spdm .done)
      | _ => s.answer (.spdm .done))

/-! ### Firmware update (R435 to R437) -/

/-- A component's transfer ends: verified, recorded and staged, or its destination left invalid. -/
def State.takeComponent (s : State) (iface : Nat) (c : Component) : State :=
  let ok := decide (1 ≤ c.comp ∧ c.comp ≤ 3) && validComp c c.comp s.rom.keyHash s.flash.counter
  let s := s.updFlash (fun f => f.write c.comp (if ok then some c else none))
  let rest := s.mgmt.staged.filter (fun e => decide (e.1 ≠ c.comp))
  let s := s.updMgmt (fun m => { m with staged := if ok then rest ++ [(c.comp, c.version)] else rest })
  if ok then s.change iface 2 c.comp c.version else s

/-- REQUEST_UPDATE: refused with ALREADY_IN_UPDATE_MODE (0x81) while an update is in progress. -/
def execRequestUpdate (s : State) : Outcome State Fault Refusal :=
  .next (if s.sec.boot = .none ∨ s.hubUp = false then s
    else if s.mgmt.update.isSome then s.answer (.pldm 0x81)
    else (s.updMgmt (fun m => { m with update := some 1, staged := [] })).answer (.pldm 0))

/-- COMPONENT_TRANSFER_END: VerifyComplete reports 0, or 1 for a component that fails. -/
def execComponentTransferEnd (c : Component) (s : State) : Outcome State Fault Refusal :=
  .next (if s.mgmt.update ≠ some 1 ∨ s.hubUp = false then s
    else
      let ok := decide (1 ≤ c.comp ∧ c.comp ≤ 3) && validComp c c.comp s.rom.keyHash s.flash.counter
      (s.takeComponent 3 c).answer (.pldm (if ok then 0 else 1)))

/-- The hub domain is power-cycled: the always-on domain, the tiles and the memories stay, with the record and the maps of the last
power-on (R16, R94), and the hub is as at power-good; its suspensions end (R374). -/
def State.hubCycle (s : State) : State :=
  let s := [5, 6, 9].foldl State.endDeferrals s
  { State.reset with
    pending := s.pending, freeCtr := s.freeCtr, mem := s.mem, undef := s.undef, upset := s.upset, poison := s.poison,
    regs := s.regs.filter (fun r => decide (r.1 < t0End) || keptReg r.1), tiles := s.tiles, aon := s.aon, log := s.log, chg := s.chg,
    chgNext := s.chgNext, out := s.out, power := s.power, sluice := s.sluice, flash := s.flash,
    sec := { Security.reset with cfg := s.sec.cfg, repair := s.sec.repair, rowMap := s.sec.rowMap, tilesOn := s.sec.tilesOn },
    host := { HostPort.reset with perst := s.host.perst }, belay := { BelayState.reset with feed := s.belay.feed, expSlots := s.belay.expSlots, expBook := s.belay.expBook },
    job := { Job.reset with sizes := s.job.sizes }, mgmt := { Mgmt.reset with smbus := s.mgmt.smbus, crossed := s.mgmt.crossed },
    rst := { Recovery.reset with dumpValid := s.rst.dumpValid, dumpNewest := s.rst.dumpNewest },
    hostRd := s.hostRd, rdBytes := s.rdBytes, rom := s.rom }

/-- Activates what is staged: the change log names the main firmware, or else the first component. Firmware becomes the active slot at the next power-on;
`now` asks for the hub's power cycle, which a loaded job makes wait. A boot ROM in recovery boots it. -/
def State.activate (s : State) (iface : Nat) (now : Bool) : State :=
  match (s.mgmt.staged.find? (fun e => decide (e.1 = 2))).orElse (fun _ => s.mgmt.staged.head?) with
  | none => s
  | some c =>
    let fw := s.mgmt.staged.any (fun e => decide (e.1 = 1 ∨ e.1 = 2))
    let s := (s.change iface 3 c.1 c.2).updMgmt (fun m => { m with staged := [], update := none })
    if !fw then s
    else
      let s := s.updFlash (fun f => { f with pend := true })
      if s.sec.boot = .recovery ∨ (now = true ∧ s.job.st = .empty) then s.hubCycle else s.updSec (fun k => { k with pendAct := true })

/-- ACTIVATE_FIRMWARE: outside update mode it is refused (0x80). -/
def execActivateFirmware (selfContained : Bool) (s : State) : Outcome State Fault Refusal :=
  .next (if s.sec.boot = .none ∨ s.hubUp = false then s
    else if s.mgmt.update ≠ some 1 then s.answer (.pldm 0x80)
    else ((s.answer (.pldm 0)).activate 3 selfContained).updMgmt (fun m => { m with update := none }))

/-- Starts a host load (MGT_FWCTL.GO). -/
def State.startFwLoad (s : State) : State :=
  s.updMgmt (fun m => { m with update := some 2, fwStatus := 1, staged := [] })

/-- The STATUS that components leave: 2 done, 4 for a first failure below the floor alone, else 3. -/
def loadStatus (key floor : Nat) (cs : List Component) : Nat :=
  match cs.find? (fun c => !(decide (1 ≤ c.comp ∧ c.comp ≤ 3) && validComp c c.comp key floor)) with
  | none => 2
  | some c => if decide (1 ≤ c.comp ∧ c.comp ≤ 3) && validComp c c.comp key 0 then 4 else 3

/-- Where the update package lies in host memory, and its length, as MGT_FWADDR and MGT_FWCTL say (R436, R451). -/
def State.package (s : State) : Nat × Nat :=
  (t2Base + wfld (s.reg rFwAddr) 63 12 * 4096, wfld (s.reg rFwCtl) 39 8 * 4096)

/-- The components that a package of a length can hold: with their headers they fit into it (R426). -/
def packageHolds : Nat → List Component → List Component
  | _, [] => []
  | n, c :: r => if 512 + c.bytes.length ≤ n then c :: packageHolds (n - (512 + c.bytes.length)) r else []

/-- FW_LOAD_DONE: the package that lies at MGT_FWADDR has been read over CXL.io; how it spells its components the manual does not say, so the command
brings them (log 12). A read that fails, or that the host link or the address space does not allow, cuts the transfer short. -/
def execFwLoadDone (o : FwOutcome) (s : State) : Outcome State Fault Refusal :=
  .next (if s.mgmt.update ≠ some 2 ∨ s.hubUp = false then s
    else
      let p := s.package
      let cs := match o with
        | .readFailed => none
        | .components cs => if s.host.trained && decide (p.1 + p.2 ≤ t2End) then some (packageHolds p.2 cs) else none
      match cs with
      | none => (s.cutTransfer).updMgmt (fun m => { m with update := none, fwStatus := 5 })
      | some cs =>
        (cs.foldl (fun s c => s.takeComponent 4 c) s).updMgmt (fun m => { m with
          update := none, fwStatus := loadStatus s.rom.keyHash s.flash.counter cs }))

/-! ### The self-test (R449) -/

/-- A march test has written every word of tile memory; the manual does not say what it leaves, so the bytes are free values (log 105). -/
def State.spoilTiles (s : State) : State :=
  { s with
    mem := s.mem.filter (fun (c : Host.Cell) => decide (t0End ≤ c.1)), undef := (s.freeCtr, 0, t0End) :: s.undef,
    upset := s.upset.filter (fun e => decide (t0End ≤ e.1)), poison := [], freeCtr := s.freeCtr + 1 }

/-- Starts the self-test. -/
def State.startSelfTest (s : State) : State := s.spoilTiles.updMgmt (fun m => { m with selfBusy := true, fail0 := 0, fail1 := 0 })

/-- SELFTEST_DONE. -/
def execSelftestDone (fail0 fail1 : Nat) (s : State) : Outcome State Fault Refusal :=
  .next (if s.mgmt.selfBusy then s.spoilTiles.updMgmt (fun m => { m with selfBusy := false, fail0 := min fail0 320, fail1 := min fail1 320 }) else s)

end Sys2Proof.Machine
end

