-- ==== Sys2Proof/Machine/Access.lean ====
section
/-! DEFINITION. Accesses from the host and the management bus, and of a tile to its own registers: registers with their actions, doorbells,
queue descriptors, the device-memory window, tile memory (R5 to R9, R133, R172, R235, R237, R240, R276, R319 to R323, R329, R330,
R342, R344, R359, R395, R397, R422 to R424, R436 to R440, R442, R449). -/
namespace Sys2Proof.Machine

open Host (Outcome)

/-! ### Writes that are refused (ACCESS 0x03) -/

/-- Registers that are written only while no job image is loaded. -/
def emptyOnly (k off : Nat) : Bool :=
  match k with
  | 4 => decide (off = 0x008)
  | 5 => decide (off = 0x008) || offIn off 0x200 32 8 || offIn off 0x400 256 8
  | 6 => decide (off = 0x008 ∨ off = 0x010)
  | 7 => decide (off = 0x000 ∨ off = 0x008)
  | 8 => decide (off = 0x008 ∨ off = 0x038)
  | 9 => decide (off ∈ [0x008, 0x010, 0x018, 0x020, 0x028])
  | _ => false

/-- A CXL_MEMWIN value whose window does not lie aligned in T1 outside the reserves (R342). -/
def State.memWinBad (s : State) (v : Nat) : Bool :=
  let base := fld v 14 4
  let size := 2 ^ (v % 16)
  decide (base % size ≠ 0 ∨ 1440 < base + size) || s.touchesReserve (t1Base + base * 2 ^ 30) (size * 2 ^ 30)

/-- A belay area or the export region's start, with the register of BLY_ at an offset as it is being written, that touches a reserve (R422). -/
def State.areaBad (s : State) (off v : Nat) : Bool :=
  let at' := fun (o : Nat) => if o = off then v else (s.reg (hubReg 9 o)).toNat
  match off with
  | 0x008 | 0x010 => s.touchesReserve (at' 0x008 / 2 ^ 24 * 2 ^ 24) (at' 0x010 % 2 ^ 16 * unit16M)
  | 0x018 | 0x020 => s.touchesReserve (at' 0x018 / 4096 * 4096) (at' 0x020 % 2 ^ 32 * 2 ^ 30)
  | _ => s.touchesReserve (v / 4096 * 4096) 4096

/-- Whether a register refuses a value in the present state. -/
def State.regRefused (s : State) (a v wo : Nat) : Bool :=
  match tileRegAt a, hubRegAt a with
  | none, some (k, off) =>
    (emptyOnly k off && decide (s.job.st ≠ .empty)) ||
    (match k, off with
    | 6, 0x008 => s.memWinBad v
    | 9, 0x008 => s.areaBad off v
    | 9, 0x010 => s.areaBad off v
    | 9, 0x018 => s.areaBad off v
    | 9, 0x020 => s.areaBad off v
    | 9, 0x028 => s.areaBad off v
    | 1, 0x018 => bitOf wo 0 && s.mgmt.update.isSome
    | 1, 0x020 => bitOf wo 0 && decide (s.job.st ≠ .empty)
    | 4, 0x030 => bitOf wo 0 && s.rst.copyBusy
    | _, _ => false)
  | _, _ => false

/-! ### Queue descriptors by register (R329, R344) -/

/-- The words staged in QM_QDATA. -/
def State.stagedWords (s : State) : List Nat := (List.range 8).map (fun i => (s.reg (rQdata i)).toNat)

/-- What a descriptor write reports. -/
def State.descStatus (s : State) (q : Nat) : Nat :=
  let d := s.desc q
  if !s.queueExists q then 4
  else if d.valid && decide (d.head ≠ d.tail) then 2
  else if decide (s.job.st = .running) && (match s.job.img with | some i => i.queues.any (fun e => decide (e.1 = q)) | none => false) then 3
  else if s.queueDescBad q s.stagedWords then 1
  else 0

/-- Sets QM_QCTL.STATUS. -/
def State.setQctl (s : State) (status : Nat) : State := s.setReg rQctl (wset (s.reg rQctl) 31 28 status)

/-- OP 1: the staged words become the descriptor, once the one that is there has been fetched (R326); a TILEOUT queue starts afresh. -/
def State.writeDesc (s : State) (q : Nat) : State :=
  let st := s.descStatus q
  let s := if s.queueExists q then s.useQueue q else s
  if st ≠ 0 then s.setQctl st
  else
    let s := ((s.pokeBurst (s.descAt q) (s.stagedWords.flatMap (leBytes 8))).setQctl 0).setInFlight q 0
    { s with qm := { s.qm with stopped := without s.qm.stopped q } }

/-- Word i of a queue's descriptor; HEAD and TAIL of a PEERROW ring follow the messages in it (R328, R340). -/
def State.descWord (s : State) (q i : Nat) : Nat :=
  let w := s.peek (s.descAt q + 8 * i) 8
  match i, s.rowQueues.idxOf? q with
  | 2, some n =>
    let used := s.ringUsed q (n % 2)
    (fld w 63 32 + s.ringTail q - used) % 2 ^ 32 * 2 ^ 32 + (fld w 31 0 + s.ringTail q) % 2 ^ 32
  | _, _ => w

/-- OP 2: the descriptor's words in QM_QDATA. -/
def State.readDesc (s : State) (q : Nat) : State :=
  if !s.queueExists q then s.setQctl 4
  else
    let s := s.useQueue q
    ((List.range 8).foldl (fun (s : State) i => s.setReg (rQdata i) (BitVec.ofNat 64 (s.descWord q i))) s).setQctl 0

/-! ### Register writes (R5 to R8, R359, R439) -/

/-- The value of a register's bits of a mask. -/
def masked (v : Word) (m : Nat) : Word := v &&& BitVec.ofNat 64 m

/-- What the WO bits of a write trigger. `f` is where activations through MGT_FWCTL.ACT are recorded: the host firmware load. -/
def State.trigger (s : State) (a wo : Nat) : State :=
  match tileRegAt a, hubRegAt a with
  | none, some (1, 0x018) =>
    let s := if bitOf wo 0 then s.startFwLoad else s
    if bitOf wo 1 then (if s.mgmt.staged.isEmpty then s else s.cutTransfer).activate 4 true else s
  | none, some (1, 0x020) => if bitOf wo 0 then s.startSelfTest else s
  | none, some (4, 0x020) => if bitOf wo 0 && decide (s.rst.phase ≠ .failed) then s.hostReset else s
  | none, some (4, 0x030) => if bitOf wo 0 then s.startCopy else s
  | none, some (5, 0x018) =>
    let q := wfld (s.reg rQctl) 19 0
    if fld wo 25 24 = 1 then s.writeDesc q else if fld wo 25 24 = 2 then s.readDesc q else s
  | _, _ => s

/-- Clears W1C bits; those of ERR_DUMPST free dump slots. -/
def State.clearBits (s : State) (a : Nat) (w : Word) : State :=
  if a = rDumpSt then s.updRst (fun r => { r with dumpValid := (BitVec.ofNat 2 r.dumpValid &&& ~~~(w.truncate 2)).toNat })
  else s.setReg a (s.reg a &&& ~~~w)

/-- Whether a write of SLU_CTRL would change FCLK while a job runs. -/
def State.fclkHeld (s : State) (a : Nat) (new : Word) : Bool :=
  decide (a = rSluCtrl ∧ s.job.st = .running ∧ wfld new 1 0 ≠ wfld (s.reg rSluCtrl) 1 0)

/-- Whether a register is a route table entry (R315). -/
def isRoute (a : Nat) : Bool := decide (rRoute 0 ≤ a ∧ a ≤ rRoute 4095)

/-- Whether a register is a port's LNK_CFG. -/
def isLinkCfg (a : Nat) : Bool := match hubRegAt a with
  | some (k, off) => decide (0x10 ≤ k ∧ off = 0)
  | none => false

/-- Stores RW fields; a disabled port's power follows its LNK_CFG (R350), tiles' budgets follow SLU_CTRL, and what waits for a link follows the route table (R301). -/
def State.storeRw (s : State) (a : Nat) (new : Word) : State :=
  let held := s.fclkHeld a new
  let s' := s.storeReg a (if held then wset new 1 0 (wfld (s.reg rSluCtrl) 1 0) else new)
  let s' := if held then s'.accessError 3 a else s'
  if a = rSluCtrl then s'.retarget else if isRoute a then s'.afterSend else if isLinkCfg a then s'.lowerRims else s'

/-- A write that carries WO bits: what it triggers, and whether it was taken; a plan's parameters may be refused (R237). -/
def State.fire (s : State) (a wo : Nat) : State × Bool :=
  match tileRegAt a with
  | some (t, 6, 0x020) => if h : t < 640 then s.writePlan ⟨t, h⟩ (BitVec.ofNat 64 wo) else (s, true)
  | _ => (s.trigger a wo, true)

/-- Whether a register is a tile's EMB_PLAN: any write of it starts a plan, that of DESC 0 and TABLE 0 too (R237). -/
def isPlan (a : Nat) : Bool :=
  match tileRegAt a with
  | some (_, 6, 0x020) => true
  | _ => false

/-- Writes the bits of a mask of the register at a device address: interface 1 host, 2 management bus, 0 a tile. A write that gives a
reserved code, or that the state refuses, is discarded whole. Reserved codes of one field are judged when the mask reaches the
field, conditions over several on the register as the write would leave it (log 127). -/
def State.writeReg (s : State) (iface a mask : Nat) (v : Word) : State :=
  match regInfo a with
  | none => s
  | some i =>
    let new := mergeRw i (s.reg a) v mask
    let wo := masked v (i.wo &&& mask)
    let w1 := masked v (i.w1c &&& mask)
    if s.regReserved a mask (new ||| wo) then s.accessError 1 a
    else if s.regRefused a new.toNat wo.toNat then s.accessError 3 a
    else
      let stores := decide (i.rw &&& mask ≠ 0)
      let s := if stores then s.storeRw a new else s
      let s := if w1 = 0 then s else s.clearBits a w1
      let fires := decide (wo ≠ 0) || (isPlan a && decide (i.wo &&& mask ≠ 0))
      let y := if fires then s.fire a wo.toNat else (s, true)
      if iface ≠ 0 ∧ y.2 = true ∧ (stores = true ∨ fires = true) then y.1.change iface 1 a (y.1.view a).toNat else y.1

/-! ### Register reads (R5, R8, R440) -/

/-- A read of a change log word: its entry has been read. -/
def State.markRead (s : State) (a : Nat) : State :=
  match hubRegAt a with
  | some (1, off) =>
    if off < 0x8000 then s
    else { s with chg := s.chg.map (fun e => if e.1 = (off - 0x8000) / 32 then (e.1, e.2.map (fun x => { x with read := true })) else e) }
  | _ => s

/-- Reads the bits of a mask: the value at the start of the cycle. RC fields return to 0 in those bits, and then count the `incs` events of
the cycle. -/
def State.readReg (s : State) (a mask incs : Nat) : State × Word :=
  let v := masked (s.view a) mask
  match regInfo a with
  | some i =>
    if i.rc = 0 then (s.markRead a, v)
    else
      let old := s.reg a
      let kept := old &&& ~~~(BitVec.ofNat 64 (i.rc &&& mask))
      (s.setReg a (if i.rc = 2 ^ 64 - 1 then countUp kept incs else wset kept 31 0 (min (wfld kept 31 0 + incs) (2 ^ 32 - 1))), v)
  | none => (s, 0)

/-! ### How an access reaches a register (R8, R319, R442) -/

/-- What an access names: a register block's bytes, something that is no register, or nothing. -/
inductive Place where
  | block (a : Nat)
  | memory (a : Nat)
  | component
  | doorbell (q : Nat)
  | reserved
  deriving DecidableEq, Repr

/-- What a device address names for an access to registers or tile memory. -/
def placeOf (a : Nat) : Place :=
  if (tileRegAt a).isSome || (hubRegAt a).isSome then .block a
  else if a < t0End ∧ a % tileSpan < 0x640000 then .memory a
  else .reserved

/-- What a BAR offset, or an address on the management bus, names. -/
def placeAt : RegAt → Place
  | .bar0 off =>
    if off < 0x1C0000 then .block (hubBase + off)
    else if 0x200000 ≤ off ∧ off < 0x210000 then .component
    else if 0x800000 ≤ off ∧ off < 0x1000000 then .doorbell ((off - 0x800000) / 8)
    else .reserved
  | .bar2 off => if off < t0End then placeOf off else .reserved
  | .mgt a => match placeOf a with
    | .block a => if (regInfo (a / 8 * 8)).isSome then .block a else .reserved
    | _ => .reserved

/-- Where an access stands in its own terms: the BAR offset or the device address. -/
def offAt : RegAt → Nat
  | .bar0 off => off
  | .bar2 off => off
  | .mgt a => a

/-- The interface of an access. -/
def ifaceAt : RegAt → Nat
  | .mgt _ => 2
  | _ => 1

/-- The bits that an access reaches, and the shift of its data: one aligned 64-bit access or one aligned half. -/
def accessMask (a size : Nat) : Option (Nat × Nat) :=
  if size = 8 ∧ a % 8 = 0 then some (2 ^ 64 - 1, 0)
  else if size = 4 ∧ a % 8 = 0 then some (2 ^ 32 - 1, 0)
  else if size = 4 ∧ a % 8 = 4 then some ((2 ^ 32 - 1) * 2 ^ 32, 32)
  else none

/-- A write in a register block. -/
def State.blockWrite (s : State) (iface a size : Nat) (v : Word) : State :=
  if !s.serves iface then s
  else match accessMask a size with
  | none => s.accessError 2 a
  | some (m, sh) => if (regInfo (a / 8 * 8)).isNone then s.accessError 4 a else s.writeReg iface (a / 8 * 8) m (v <<< sh)

/-- A read in a register block. -/
def State.blockRead (s : State) (a size incs : Nat) : State × Word :=
  match accessMask a size with
  | none => (s.accessError 2 a, 0)
  | some (m, sh) =>
    if (regInfo (a / 8 * 8)).isNone then (s.accessError 4 a, 0)
    else let r := s.readReg (a / 8 * 8) m incs; (r.1, r.2 >>> sh)

/-- REGISTER_WRITE. A write of the CXL component registers does nothing that the manual gives; tile memory and doorbells have rows of their own. -/
def execRegisterWrite (src : RegAt) (size : Nat) (value : Word) (s : State) : Outcome State Fault Refusal :=
  .next (if !s.serves (ifaceAt src) then s
    else match placeAt src with
    | .block a => s.blockWrite (ifaceAt src) a size value
    | .reserved => s.accessError 4 (offAt src)
    | _ => s)

/-- The word that a host access read. -/
def State.giveHost (s : State) (w : Word) : State := { s with hostRd := w }

/-- RC_REGISTER_READ: a read of any register. The CXL component registers and doorbells read as free values. -/
def execRcRegisterRead (src : RegAt) (size incs : Nat) (s : State) : Outcome State Fault Refusal :=
  .next (if !s.serves (ifaceAt src) then s
    else match placeAt src with
    | .block a => let r := s.blockRead a size incs; r.1.giveHost r.2
    | .reserved => (s.accessError 4 (offAt src)).giveHost 0
    | .memory _ => s
    | _ => let w := s.draw; w.2.giveHost w.1)

/-- MCTP_REGISTER_READ: answered with status 0 and the value, or with status 0x01. -/
def execMctpRegisterRead (addr size incs : Nat) (s : State) : Outcome State Fault Refusal :=
  .next (if s.sec.boot ≠ .running || !s.serves 2 then s
    else match placeAt (.mgt addr) with
    | .block a => let r := s.blockRead a size incs; r.1.answer (.mctp 0 r.2.toNat)
    | _ => (s.accessError 4 addr).answer (.mctp 1 0))

/-- MCTP_REGISTER_WRITE. -/
def execMctpRegisterWrite (addr size : Nat) (value : Word) (s : State) : Outcome State Fault Refusal :=
  .next (if s.sec.boot ≠ .running || !s.serves 2 then s
    else match placeAt (.mgt addr) with
    | .block a => (s.blockWrite 2 a size value).answer (.mctp 0 0)
    | _ => (s.accessError 4 addr).answer (.mctp 1 0))

/-- The number of an interface. -/
def ifaceNo : Iface → Nat
  | .host => 1
  | .mgt => 2

/-- A register write with its action's bits as given. -/
def State.goWrite (s : State) (i : Iface) (a : Nat) (v : Word) (hi lo code : Nat) : State :=
  if s.serves (ifaceNo i) then s.writeReg (ifaceNo i) a (2 ^ 64 - 1) (wset v hi lo code) else s

/-- LINK_CFG_WRITE: of a port's LNK_CFG. -/
def execLinkCfgWrite (iface : Iface) (p : Fin 12) (size : Nat) (value : Word) (s : State) : Outcome State Fault Refusal :=
  .next (s.blockWrite (ifaceNo iface) (rLnkCfg p.val) size value)

/-- ERR_PEERDOWN_WRITE: whole, or one half. -/
def execErrPeerdownWrite (iface : Iface) (w : Fin 64) (size half : Nat) (value : Word) (s : State) : Outcome State Fault Refusal :=
  .next (s.blockWrite (ifaceNo iface) (rPeerDown w.val + 4 * (half % 2)) size value)

/-- QUEUE_DESCRIPTOR_WRITE: QM_QCTL with OP 1. -/
def execQueueDescriptorWrite (iface : Iface) (value : Word) (s : State) : Outcome State Fault Refusal :=
  .next (s.goWrite iface rQctl value 25 24 1)

/-- QUEUE_DESCRIPTOR_READ: QM_QCTL with OP 2. -/
def execQueueDescriptorRead (iface : Iface) (value : Word) (s : State) : Outcome State Fault Refusal :=
  .next (s.goWrite iface rQctl value 25 24 2)

/-- FW_LOAD_GO: MGT_FWCTL with GO alone. -/
def execFwLoadGo (iface : Iface) (value : Word) (s : State) : Outcome State Fault Refusal :=
  .next (s.goWrite iface rFwCtl value 1 0 1)

/-- FW_ACT: MGT_FWCTL with ACT alone. -/
def execFwAct (iface : Iface) (value : Word) (s : State) : Outcome State Fault Refusal :=
  .next (s.goWrite iface rFwCtl value 1 0 2)

/-- SELFTEST_GO. -/
def execSelftestGo (iface : Iface) (s : State) : Outcome State Fault Refusal := .next (s.goWrite iface rSelfTest 0 0 0 1)

/-- RESETREQ_GO. -/
def execResetreqGo (iface : Iface) (value : Word) (s : State) : Outcome State Fault Refusal :=
  .next (s.goWrite iface rResetReq value 0 0 1)

/-- DUMPCPY_GO. -/
def execDumpcpyGo (iface : Iface) (value : Word) (s : State) : Outcome State Fault Refusal :=
  .next (s.goWrite iface rDumpCpy value 0 0 1)

/-! ### Doorbells (R330) -/

/-- Where doorbell q stands in BAR0. -/
def doorbellAt (q : Nat) : Nat := 0x800000 + 8 * q

/-- Whether a doorbell sets a queue's TAIL. -/
def QDesc.hostTail (d : QDesc) : Bool := d.valid && decide (d.cls = 0 ∨ d.cls = 1) && (decide (d.cls = 0) || !d.rsend)

/-- Whether a new TAIL neither goes back nor passes the room. -/
def QDesc.tailOk (d : QDesc) (n : Nat) : Bool :=
  decide (d.used ≤ (n + 2 ^ 32 - d.head) % 2 ^ 32 ∧ (n + 2 ^ 32 - d.head) % 2 ^ 32 ≤ 2 ^ d.log2n)

/-- Whether a new HEAD neither goes back nor passes TAIL. -/
def QDesc.headOk (d : QDesc) (n : Nat) : Bool := decide ((n + 2 ^ 32 - d.head) % 2 ^ 32 ≤ d.used)

/-- A doorbell of a queue, its descriptor fetched. -/
def State.ring (s : State) (q n : Nat) : State :=
  let d := s.desc q
  if d.hostTail && d.tailOk n then
    (if d.cls = 1 ∧ s.job.st = .running then s.recordEntries q d.tail ((n + 2 ^ 32 - d.tail) % 2 ^ 32) else s).setTail q n
  else if d.valid && decide (d.cls = 6) && d.headOk n then (s.setHead q n).drainHeld q (2 ^ d.log2n + 1)
  else s.accessError 4 (doorbellAt q)

/-- DOORBELL; it waits while writes stop (R357). -/
def execDoorbell (q : Nat) (size : Nat) (value : Word) (s : State) : Outcome State Fault Refusal :=
  .next (if !s.serves 1 || s.writesStop then s
    else if size ≠ 8 then s.accessError 2 (doorbellAt q)
    else if 2 ^ 32 ≤ value.toNat then s.accessError 4 (doorbellAt q)
    else (if s.queueExists q then s.useQueue q else s).ring q value.toNat)

/-! ### The device-memory window (R211, R321, R323) -/

/-- The ranges that hold a version slot: the direct locations of its rows, its directory, and the pool slots of its rows (R186, R220, R223,
R232). -/
def State.slotRanges (s : State) (t : Nat) (d : TableDesc) (v : Nat) : List (Nat × Nat) :=
  let k := s.tierDesc t
  (if d.hash then [] else [(d.vbase.getD v 0, d.shrows * d.stride)]) ++ (if k.dirLog = 0 then [] else [(k.dirBase.getD v 0, 64 * 2 ^ k.dirLog)]) ++
  (s.emb.pool.filter (fun p => decide (p.table = t ∧ p.slot = v))).map (fun p => (k.poolBase + p.place * d.stride, d.stride))

/-- Whether a range of T1 reaches a version slot that is not BUILDING. -/
def State.closedSlot (s : State) (a n : Nat) : Bool :=
  (List.range s.nTables).any (fun t => match s.table t with
    | some d => (List.range d.vcnt).any (fun v =>
        decide (s.slotState t v ≠ 2) && (s.slotRanges t d v).any (fun r => overlaps a n r.1 r.2))
    | none => false)

/-- Whether a host or peer write is kept out of a range. -/
def State.windowBars (s : State) (a n : Nat) : Bool := s.closedSlot a n || s.committedAt a n || s.touchesReserve a n

/-- A read of the window, which is always served (R323): the same bytes by CXL.mem and by BAR4 (R321). No row of the table is its own. -/
def State.windowRead (s : State) (off n : Nat) : State × Option (List Byte) :=
  s.readT1 (t1Base + fld (s.reg rMemWin).toNat 14 4 * 2 ^ 30 + off) n

/-- HOST_WINDOW_WRITE at an offset of the window; in base camp mode BAR4 waits (R445), and nothing is written while a feed failure, a trip or a
device reset has stopped the writes (R357, R387). -/
def execHostWindowWrite (off : Nat) (data : List Byte) (s : State) : Outcome State Fault Refusal :=
  let w := (s.reg rMemWin).toNat
  let a := t1Base + fld w 14 4 * 2 ^ 30 + off
  .next (if !s.serves 1 || !s.enginesRun then s
    else if s.mgmt.base ∨ 2 ^ (w % 16) * 2 ^ 30 < off + data.length then s
    else if s.windowBars a data.length then s.accessError 3 a
    else
      let y := s.writeT1 a data
      if y.2 then y.1 else y.1.noteError 4 1 a)

/-! ### Tile memory (R165, R320) -/

/-- Whether a range of BAR2 lies in one tile's SRAM and accumulator store. -/
def tileMemory (off n : Nat) : Bool := decide (off < t0End ∧ off % tileSpan + n ≤ 0x640000)

/-- Whether an offset of BAR2 lies in a register block: such accesses have rows of their own. -/
def inBlock (off : Nat) : Bool := (tileRegAt off).isSome

/-- HOST_TILE_MEMORY_WRITE: refused while a job runs; a part of an uncorrectable word is not stored, and TMEM 0x05 says so.
A word of the accumulator store keeps all 64 bits: R168 drops bits [63:36] of DMA writes only (DESIGN CHOICE, log 154). -/
def execHostTileMemoryWrite (off : Nat) (data : List Byte) (s : State) : Outcome State Fault Refusal :=
  .next (if inBlock off || !s.serves 1 then s
    else if !tileMemory off data.length then s.accessError 4 off
    else if s.job.st = .running then s.accessError 3 off
    else
      let y := s.writeT0 off data
      if y.2 then y.1 else y.1.tmemError 5 (off / tileSpan) 0 0xF)

/-- A read that gives 0 for every byte of an uncorrectable word. -/
def State.readZeroed (s : State) (a n : Nat) : List Nat → State × List Byte × Bool
  | [] => (s, [], true)
  | w :: r =>
    let x := s.checkWord w
    let lo := max a w
    let k := min (a + n) (w + 8) - lo
    let y := x.1.readZeroed a n r
    (y.1, (if x.2 then x.1.bytes lo k else List.replicate k 0) ++ y.2.1, x.2 && y.2.2)

/-- HOST_TILE_MEMORY_READ. -/
def execHostTileMemoryRead (off : Nat) (len : Nat) (s : State) : Outcome State Fault Refusal :=
  .next (if inBlock off || !s.serves 1 then s
    else if !tileMemory off len then { s.accessError 4 off with rdBytes := List.replicate len 0 }
    else
      let y := s.readZeroed off len (wordsOf off len)
      let s := if y.2.2 then y.1 else y.1.tmemError 5 (off / tileSpan) 0 0xF
      { s with rdBytes := y.2.1 })

/-! ### A tile's own registers (R133) -/

/-- The register that IMM12 names in the tile's own blocks. -/
def ownReg (l : Loc) (imm : BitVec 12) : Nat := tileReg l.tile (imm.toNat / 256) (8 * (imm.toNat % 256))

/-- Whether the index names a register. -/
def ownRegOk (imm : BitVec 12) : Bool := decide (imm.toNat / 256 < 7) && (tileRegInfo (imm.toNat / 256) (8 * (imm.toNat % 256))).isSome

/-- `rdr`; RA is reserved. -/
def execRdr (l : Loc) (g : Guard) (rd ra : BitVec 5) (imm : BitVec 12) (incs : Nat) (s : State) : Outcome State Fault Refusal :=
  .next (s.slot l g (decide (ra = 0)) (fun s =>
    if !ownRegOk imm then s.insnFault l 4
    else
      let r := s.readReg (ownReg l imm) (2 ^ 64 - 1) incs
      (r.1.updCtx l (fun c => c.wg rd r.2)).advance l))

/-- `wrr`: the source is g[RD]; RA is reserved. A replay's plan would ask other tiles and devices for rows, and is suppressed (R383). -/
def execWrr (l : Loc) (g : Guard) (rd ra : BitVec 5) (imm : BitVec 12) (s : State) : Outcome State Fault Refusal :=
  .next (s.slot l g (decide (ra = 0)) (fun s =>
    if !ownRegOk imm then s.insnFault l 4
    else (if s.replaying l && isPlan (ownReg l imm) then s
      else s.writeReg 0 (ownReg l imm) (2 ^ 64 - 1) ((s.ctx l).rg rd)).advance l))

end Sys2Proof.Machine
end

