-- ==== Sys2Proof/Machine/Issue.lean ====
section
/-! DEFINITION. The issue of instructions: the round robin, the fetch, the scalar formats of R127 and R128, and the wait for room in an
engine queue (R20, R127, R128, R131, R137). -/
namespace Sys2Proof.Machine

open Host (Outcome)

/-! ### Scalar words (R127, R128) -/

/-- Bits hi down to lo of an instruction word, as a field of n bits. -/
def insn (n : Nat) (w : BitVec 32) (lo : Nat) : BitVec n := (w >>> lo).truncate n

/-- GN and GP. -/
def insnGuard (w : BitVec 32) : Guard := ⟨insn 3 w 22, w.getLsbD 25⟩

/-- Format R. -/
def fmtR (f : BitVec 5 → BitVec 5 → BitVec 5 → BitVec 7 → Instr) (w : BitVec 32) : Instr :=
  f (insn 5 w 17) (insn 5 w 12) (insn 5 w 7) (insn 7 w 0)

/-- Formats I and S. -/
def fmtI (f : BitVec 5 → BitVec 5 → BitVec 12 → Instr) (w : BitVec 32) : Instr := f (insn 5 w 17) (insn 5 w 12) (insn 12 w 0)

/-- Format P. -/
def fmtP (f : BitVec 3 → BitVec 5 → BitVec 5 → BitVec 3 → BitVec 2 → BitVec 4 → Instr) (w : BitVec 32) : Instr :=
  f (insn 3 w 19) (insn 5 w 14) (insn 5 w 9) (insn 3 w 6) (insn 2 w 4) (insn 4 w 0)

/-- `step.commit`: N[4:3] is the sub-operation, N[2:0] pd; the other fields are reserved. -/
def commitInsn (l : Loc) (w : BitVec 32) : Option Instr :=
  let g := insnGuard w
  if insn 5 w 17 ≠ 0 ∨ insn 12 w 0 ≠ 0 then none
  else match (insn 2 w 15).toNat with
    | 0 => some (.stepCommitArrive l g)
    | 1 => some (.stepCommitWait l g (insn 3 w 12))
    | 2 => some (.stepCommitDone l g)
    | _ => some (.stepCommitRewind l g)

/-- The instruction that a word spells; none for an opcode that R128 does not list. -/
def decodeInsn (l : Loc) (w : BitVec 32) : Option Instr :=
  let g := insnGuard w
  match (insn 6 w 26).toNat with
  | 0x00 => some (fmtR (.aluGroup l g) w)
  | 0x01 => some (fmtI (.addi l g) w)
  | 0x02 => some (fmtI (.andi l g) w)
  | 0x03 => some (fmtI (.ori l g) w)
  | 0x04 => some (fmtI (.xori l g) w)
  | 0x05 => some (fmtI (.shi l g) w)
  | 0x08 => some (.movw l g 0 (insn 5 w 17) (w.getLsbD 16) (insn 16 w 0))
  | 0x09 => some (.movw l g 1 (insn 5 w 17) (w.getLsbD 16) (insn 16 w 0))
  | 0x0A => some (.movw l g 2 (insn 5 w 17) (w.getLsbD 16) (insn 16 w 0))
  | 0x0B => some (.movw l g 3 (insn 5 w 17) (w.getLsbD 16) (insn 16 w 0))
  | 0x10 => some (fmtI (.ld l g 0) w)
  | 0x11 => some (fmtI (.ld l g 1) w)
  | 0x12 => some (fmtI (.ld l g 2) w)
  | 0x13 => some (fmtI (.ld l g 3) w)
  | 0x14 => some (fmtI (.st l g 0) w)
  | 0x15 => some (fmtI (.st l g 1) w)
  | 0x16 => some (fmtI (.st l g 2) w)
  | 0x17 => some (fmtI (.st l g 3) w)
  | 0x18 => some (fmtP (.cmp l g) w)
  | 0x1A => some (fmtP (.stest l g) w)
  | 0x1B => some (fmtP (.plog l g) w)
  | 0x1C => some (.br l g (insn 22 w 0))
  | 0x1D => some (.call l g (insn 22 w 0))
  | 0x1E => some (fmtI (.jr l g) w)
  | 0x20 => some (fmtR (.movs l g) w)
  | 0x21 => some (fmtR (.swr l g) w)
  | 0x22 => some (fmtR (.trd l g) w)
  | 0x23 => some (fmtR (fun rd ra rb fn => .tset l g rd ra rb fn false) w)
  | 0x24 => some (fmtI (fun rd ra imm => .rdr l g rd ra imm 0) w)
  | 0x25 => some (fmtI (.wrr l g) w)
  | 0x28 => some (fmtR (.issue l g) w)
  | 0x29 => some (fmtI (.issuem l g) w)
  | 0x2A => some (fmtR (.clist l g) w)
  | 0x2B => some (fmtI (.twait l g) w)
  | 0x2C => some (fmtP (.ttest l g) w)
  | 0x2D => some (fmtI (.semsig l g) w)
  | 0x2E => some (fmtI (.semwait l g) w)
  | 0x2F => some (fmtP (.semtest l g) w)
  | 0x30 => some (fmtI (.wakeAhead l g) w)
  | 0x31 => some (fmtI (.progMark l g) w)
  | 0x32 => commitInsn l w
  | 0x33 => some (fmtI (.halt l g) w)
  | _ => none

/-- What a scalar instruction does in its turn. -/
def runScalar (i : Instr) (s : State) : Outcome State Fault Refusal :=
  match i with
  | .aluGroup l g rd ra rb fn => execAlu l g rd ra rb fn s
  | .addi l g rd ra imm => execAddi l g rd ra imm s
  | .andi l g rd ra imm => execAndi l g rd ra imm s
  | .ori l g rd ra imm => execOri l g rd ra imm s
  | .xori l g rd ra imm => execXori l g rd ra imm s
  | .shi l g rd ra imm => execShi l g rd ra imm s
  | .movw l g q rd z imm => execMovw l g q rd z imm s
  | .ld l g sz rd ra imm => execLd l g sz rd ra imm s
  | .st l g sz rd ra imm => execSt l g sz rd ra imm s
  | .cmp l g pd a rb cond kind low => execCmp l g pd a rb cond kind low s
  | .stest l g pd a rb cond kind low => execStest l g pd a rb cond kind low s
  | .plog l g pd a rb cond kind low => execPlog l g pd a rb cond kind low s
  | .br l g off => execBr l g off s
  | .call l g off => execCall l g off s
  | .jr l g rd ra imm => execJr l g rd ra imm s
  | .movs l g rd ra rb fn => execMovs l g rd ra rb fn s
  | .swr l g rd ra rb fn => execSwr l g rd ra rb fn s
  | .trd l g rd ra rb fn => execTrd l g rd ra rb fn s
  | .tset l g rd ra rb fn inc => execTset l g rd ra rb fn inc s
  | .rdr l g rd ra imm incs => execRdr l g rd ra imm incs s
  | .wrr l g rd ra imm => execWrr l g rd ra imm s
  | .issue l g rd ra rb fn => execIssue l g rd ra rb fn s
  | .issuem l g rd ra imm => execIssuem l g rd ra imm s
  | .clist l g rd ra rb fn => execClist l g rd ra rb fn s
  | .clistEntryIssue l => execClistEntry l s
  | .twait l g ra n imm => execTwait l g ra n imm s
  | .ttest l g pd a rb cond kind low => execTtest l g pd a rb cond kind low s
  | .semsig l g ra n imm => execSemsig l g ra n imm s
  | .semwait l g ra n imm => execSemwait l g ra n imm s
  | .semtest l g pd a rb cond kind low => execSemtest l g pd a rb cond kind low s
  | .wakeAhead l g ra n imm => execWakeAhead l g ra n imm s
  | .progMark l g ra n imm => execProgMark l g ra n imm s
  | .stepCommitArrive l g => execStepCommitArrive l g s
  | .stepCommitWait l g pd => execStepCommitWait l g pd s
  | .stepCommitDone l g => execStepCommitDone l g s
  | .stepCommitRewind l g => execStepCommitRewind l g s
  | .halt l g ra n imm => execHalt l g ra n imm s
  | _ => .next s

/-! ### The issue slot (R20) -/

/-- Whether a context is ready: it runs, and its core and clock do. -/
def State.ready (s : State) (l : Loc) : Bool :=
  decide ((s.ctx l).mode = .run ∧ 6 ∉ (s.tile l.tile).engStop) && s.clockRuns l.tile

/-- The next ready context after the one that issued last. -/
def State.nextReady (s : State) (t : TileId) : Option CtxId :=
  let r := (s.tile t).rr
  [r + 1, r + 2, r + 3, r].find? (fun c => s.ready ⟨t, c⟩)

/-- A context's turn: the next entry of its list, or the instruction at its PC. A fetch beyond SRAM, or from a buffer's storage (R249), faults with cause 0x03, and one of an
uncorrectable word holds the context. It runs the word that memory holds at its turn: where R132 lets timing choose between an old and a
new word, that is the new one (DESIGN CHOICE, log 150). -/
def State.turn (l : Loc) (s : State) : Outcome State Fault Refusal :=
  if (s.ctx l).clist.isSome then execClistEntry l s
  else
    let a := s.pcAt l
    if !s.sramOk l.tile a 4 then .next ((s.issued l).insnFault l 3)
    else
      match s.readT0 (sram l.tile a) 4 with
      | (s', none) => .next (s'.ctxMemError l 1)
      | (s', some bs) =>
        match decodeInsn l (BitVec.ofNat 32 (leVal bs)) with
        | none => .next ((s'.issued l).insnFault l 1)
        | some i => runScalar i s'

/-- INSTRUCTION_ISSUE. -/
def execInstructionIssue (t : TileId) (s : State) : Outcome State Fault Refusal :=
  match s.nextReady t with
  | none => .next s
  | some c => State.turn ⟨t, c⟩ s

/-! ### A full queue (R137) -/

/-- ENGINE_QUEUE_FULL_WAIT: the queue has room, and the issue is made again. -/
def execEngineQueueFullWait (l : Loc) (s : State) : Outcome State Fault Refusal :=
  match (s.ctx l).mode, (s.ctx l).wait with
  | .wait, .queueFull e retry =>
    if queueDepth ≤ ((s.tile l.tile).queue e).length then .next s
    else runScalar retry (s.updCtx l (fun c => { c with mode := .run, wait := .none }))
  | _, _ => .next s

end Sys2Proof.Machine
end

