-- ==== Sys2Proof/Machine/Dispatch.lean ====
section
/-! DEFINITION. What each command does to the machine: one arm for each command, each a call of its meaning. -/
namespace Sys2Proof.Machine

def exec (i : Instr) (s : State) : Host.Outcome State Fault Refusal :=
  match i with
  | .registerWrite src size value => Sys2Proof.Machine.execRegisterWrite src size value s
  | .rcRegisterRead src size incs => Sys2Proof.Machine.execRcRegisterRead src size incs s
  | .powerGood x => Sys2Proof.Machine.execPowerGood x s
  | .rollbackFloorRaise => Sys2Proof.Machine.execRollbackFloorRaise s
  | .hostLinkTrained shape peer => Sys2Proof.Machine.execHostLinkTrained shape peer s
  | .hostLinkTrainTimeout => Sys2Proof.Machine.execHostLinkTrainTimeout s
  | .controllerTrained c ok => Sys2Proof.Machine.execControllerTrained c ok s
  | .channelInitialised c => Sys2Proof.Machine.execChannelInitialised c s
  | .baseCampEnd => Sys2Proof.Machine.execBaseCampEnd s
  | .load img => Sys2Proof.Machine.execLoad img s
  | .start => Sys2Proof.Machine.execStart s
  | .stop => Sys2Proof.Machine.execStop s
  | .stopImmediate => Sys2Proof.Machine.execStopImmediate s
  | .unload => Sys2Proof.Machine.execUnload s
  | .vbuild => Sys2Proof.Machine.execVbuild s
  | .vready => Sys2Proof.Machine.execVready s
  | .vswitch => Sys2Proof.Machine.execVswitch s
  | .doorbell q size value => Sys2Proof.Machine.execDoorbell q size value s
  | .queueDescriptorWrite iface value => Sys2Proof.Machine.execQueueDescriptorWrite iface value s
  | .queueDescriptorRead iface value => Sys2Proof.Machine.execQueueDescriptorRead iface value s
  | .hostWindowWrite off data => Sys2Proof.Machine.execHostWindowWrite off data s
  | .hostTileMemoryWrite off data => Sys2Proof.Machine.execHostTileMemoryWrite off data s
  | .hostTileMemoryRead off len => Sys2Proof.Machine.execHostTileMemoryRead off len s
  | .cxlRateDegraded width => Sys2Proof.Machine.execCxlRateDegraded width s
  | .ideIntegrityFailure => Sys2Proof.Machine.execIdeIntegrityFailure s
  | .t2CompletionTimeout tag => Sys2Proof.Machine.execT2Timeout tag s
  | .t2Completion tag status => Sys2Proof.Machine.execT2Completion tag status s
  | .perstAssert long => Sys2Proof.Machine.execPerstAssert long s
  | .perstRelease => Sys2Proof.Machine.execPerstRelease s
  | .modEnRise => Sys2Proof.Machine.execModEnRise s
  | .modEnFall => Sys2Proof.Machine.execModEnFall s
  | .overvoltageClamp mv => Sys2Proof.Machine.execOvervoltageClamp mv s
  | .overvoltageOpen => Sys2Proof.Machine.execOvervoltageOpen s
  | .feedFailure mv1 mv2 => Sys2Proof.Machine.execFeedFailure mv1 mv2 s
  | .inputRestored => Sys2Proof.Machine.execInputRestored s
  | .powerLost => Sys2Proof.Machine.execPowerLost s
  | .thermalTrip die => Sys2Proof.Machine.execThermalTrip die s
  | .thermalWindow => Sys2Proof.Machine.execThermalWindow s
  | .capWindow => Sys2Proof.Machine.execCapWindow s
  | .levelRequestJoin c => Sys2Proof.Machine.execLevelRequestJoin c s
  | .sluicePayout => Sys2Proof.Machine.execSluicePayout s
  | .sensorUpdate x => Sys2Proof.Machine.execSensorUpdate x s
  | .setEndpointId eid => Sys2Proof.Machine.execSetEndpointId eid s
  | .mctpRegisterRead addr size incs => Sys2Proof.Machine.execMctpRegisterRead addr size incs s
  | .mctpRegisterWrite addr size value => Sys2Proof.Machine.execMctpRegisterWrite addr size value s
  | .spdmRequest needsSignature req => Sys2Proof.Machine.execSpdmRequest needsSignature req s
  | .requestUpdate => Sys2Proof.Machine.execRequestUpdate s
  | .componentTransferEnd c => Sys2Proof.Machine.execComponentTransferEnd c s
  | .activateFirmware selfContained => Sys2Proof.Machine.execActivateFirmware selfContained s
  | .fwLoadGo iface value => Sys2Proof.Machine.execFwLoadGo iface value s
  | .fwLoadDone o => Sys2Proof.Machine.execFwLoadDone o s
  | .fwAct iface value => Sys2Proof.Machine.execFwAct iface value s
  | .selftestGo iface => Sys2Proof.Machine.execSelftestGo iface s
  | .selftestDone fail0 fail1 => Sys2Proof.Machine.execSelftestDone fail0 fail1 s
  | .instructionIssue t => Sys2Proof.Machine.execInstructionIssue t s
  | .aluGroup l g rd ra rb fn => Sys2Proof.Machine.execAlu l g rd ra rb fn s
  | .addi l g rd ra imm => Sys2Proof.Machine.execAddi l g rd ra imm s
  | .andi l g rd ra imm => Sys2Proof.Machine.execAndi l g rd ra imm s
  | .ori l g rd ra imm => Sys2Proof.Machine.execOri l g rd ra imm s
  | .xori l g rd ra imm => Sys2Proof.Machine.execXori l g rd ra imm s
  | .shi l g rd ra imm => Sys2Proof.Machine.execShi l g rd ra imm s
  | .movw l g q rd z imm => Sys2Proof.Machine.execMovw l g q rd z imm s
  | .ld l g sz rd ra imm => Sys2Proof.Machine.execLd l g sz rd ra imm s
  | .st l g sz rd ra imm => Sys2Proof.Machine.execSt l g sz rd ra imm s
  | .cmp l g pd a rb cond kind low => Sys2Proof.Machine.execCmp l g pd a rb cond kind low s
  | .stest l g pd a rb cond kind low => Sys2Proof.Machine.execStest l g pd a rb cond kind low s
  | .plog l g pd a rb cond kind low => Sys2Proof.Machine.execPlog l g pd a rb cond kind low s
  | .br l g off => Sys2Proof.Machine.execBr l g off s
  | .call l g off => Sys2Proof.Machine.execCall l g off s
  | .jr l g rd ra imm => Sys2Proof.Machine.execJr l g rd ra imm s
  | .movs l g rd ra rb fn => Sys2Proof.Machine.execMovs l g rd ra rb fn s
  | .swr l g rd ra rb fn => Sys2Proof.Machine.execSwr l g rd ra rb fn s
  | .trd l g rd ra rb fn => Sys2Proof.Machine.execTrd l g rd ra rb fn s
  | .tset l g rd ra rb fn inc => Sys2Proof.Machine.execTset l g rd ra rb fn inc s
  | .rdr l g rd ra imm incs => Sys2Proof.Machine.execRdr l g rd ra imm incs s
  | .wrr l g rd ra imm => Sys2Proof.Machine.execWrr l g rd ra imm s
  | .issue l g rd ra rb fn => Sys2Proof.Machine.execIssue l g rd ra rb fn s
  | .issuem l g rd ra imm => Sys2Proof.Machine.execIssuem l g rd ra imm s
  | .clist l g rd ra rb fn => Sys2Proof.Machine.execClist l g rd ra rb fn s
  | .clistEntryIssue l => Sys2Proof.Machine.execClistEntry l s
  | .twait l g ra n imm => Sys2Proof.Machine.execTwait l g ra n imm s
  | .twaitSatisfied l => Sys2Proof.Machine.execTwaitSatisfied l s
  | .ttest l g pd a rb cond kind low => Sys2Proof.Machine.execTtest l g pd a rb cond kind low s
  | .semsig l g ra n imm => Sys2Proof.Machine.execSemsig l g ra n imm s
  | .semaphoreSignalArrival sig => Sys2Proof.Machine.execSignalArrival sig s
  | .semwait l g ra n imm => Sys2Proof.Machine.execSemwait l g ra n imm s
  | .semwaitSatisfied l => Sys2Proof.Machine.execSemwaitSatisfied l s
  | .semtest l g pd a rb cond kind low => Sys2Proof.Machine.execSemtest l g pd a rb cond kind low s
  | .wakeAhead l g ra n imm => Sys2Proof.Machine.execWakeAhead l g ra n imm s
  | .progMark l g ra n imm => Sys2Proof.Machine.execProgMark l g ra n imm s
  | .stepCommitArrive l g => Sys2Proof.Machine.execStepCommitArrive l g s
  | .tileArrival t => Sys2Proof.Machine.execTileArrival t s
  | .stepCommitWait l g pd => Sys2Proof.Machine.execStepCommitWait l g pd s
  | .stepDecisionDelivery t => Sys2Proof.Machine.execStepDecisionDelivery t s
  | .stepCommitDone l g => Sys2Proof.Machine.execStepCommitDone l g s
  | .stepCommitRewind l g => Sys2Proof.Machine.execStepCommitRewind l g s
  | .halt l g ra n imm => Sys2Proof.Machine.execHalt l g ra n imm s
  | .engineQueueFullWait l => Sys2Proof.Machine.execEngineQueueFullWait l s
  | .commandCompletion t eng k => Sys2Proof.Machine.execCommandCompletion t eng k s
  | .product t feed bp thr => Sys2Proof.Machine.execProduct t feed bp thr s
  | .add t => Sys2Proof.Machine.execAdd t s
  | .sub t => Sys2Proof.Machine.execSub t s
  | .mul t => Sys2Proof.Machine.execMul t s
  | .fma t => Sys2Proof.Machine.execFma t s
  | .div t => Sys2Proof.Machine.execDiv t s
  | .sqrt t => Sys2Proof.Machine.execSqrt t s
  | .min t => Sys2Proof.Machine.execMin t s
  | .max t => Sys2Proof.Machine.execMax t s
  | .abs t => Sys2Proof.Machine.execAbs t s
  | .neg t => Sys2Proof.Machine.execNeg t s
  | .vectorCmp t => Sys2Proof.Machine.execVectorCmp t s
  | .sel t => Sys2Proof.Machine.execSel t s
  | .cvt t => Sys2Proof.Machine.execCvt t s
  | .exp t => Sys2Proof.Machine.execExp t s
  | .log t => Sys2Proof.Machine.execLog t s
  | .tanh t => Sys2Proof.Machine.execTanh t s
  | .rsqrt t => Sys2Proof.Machine.execRsqrt t s
  | .normFwd t => Sys2Proof.Machine.execNormFwd t s
  | .normBwd t => Sys2Proof.Machine.execNormBwd t s
  | .smaxFwd t => Sys2Proof.Machine.execSmaxFwd t s
  | .smaxBwd t => Sys2Proof.Machine.execSmaxBwd t s
  | .slotClr t => Sys2Proof.Machine.execSlotClr t s
  | .copy t => Sys2Proof.Machine.execCopy t s
  | .transpose t => Sys2Proof.Machine.execTranspose t s
  | .fill t => Sys2Proof.Machine.execFill t s
  | .pool t => Sys2Proof.Machine.execPool t s
  | .scatter t => Sys2Proof.Machine.execScatter t s
  | .update t => Sys2Proof.Machine.execUpdate t s
  | .vpin t => Sys2Proof.Machine.execVpin t s
  | .vunpin t => Sys2Proof.Machine.execVunpin t s
  | .send t => Sys2Proof.Machine.execSend t s
  | .recv t => Sys2Proof.Machine.execRecv t s
  | .peek t => Sys2Proof.Machine.execPeek t s
  | .tileoutForward q => Sys2Proof.Machine.execTileoutForward q s
  | .qmsgResendTimeout q => Sys2Proof.Machine.execQmsgResendTimeout q s
  | .rowUpdate m => Sys2Proof.Machine.execRowUpdate m s
  | .coalescerReductionComplete table => Sys2Proof.Machine.execCoalescerReductionComplete table s
  | .pinReq m => Sys2Proof.Machine.execPinReq m s
  | .embPlan t value => Sys2Proof.Machine.execEmbPlan t value s
  | .rowImage m => Sys2Proof.Machine.execRowImage m s
  | .redShard m => Sys2Proof.Machine.execRedShard m s
  | .redResult m => Sys2Proof.Machine.execRedResult m s
  | .treeValue m => Sys2Proof.Machine.execTreeValue m s
  | .normPartial m => Sys2Proof.Machine.execNormPartial m s
  | .tally m => Sys2Proof.Machine.execTally m s
  | .deviceReady => Sys2Proof.Machine.execDeviceReady s
  | .stepReport m => Sys2Proof.Machine.execStepReport m s
  | .stepDecision m => Sys2Proof.Machine.execStepDecision m s
  | .tileStepBoundary t => Sys2Proof.Machine.execTileStepBoundary t s
  | .deviceStepBoundary => Sys2Proof.Machine.execDeviceStepBoundary s
  | .rejoin m => Sys2Proof.Machine.execRejoin m s
  | .decisionQuery m => Sys2Proof.Machine.execDecisionQuery m s
  | .qmsg m => Sys2Proof.Machine.execQmsg m s
  | .qack m => Sys2Proof.Machine.execQack m s
  | .nvmeCompletionEntry cid ok => Sys2Proof.Machine.execNvmeCompletionEntry cid ok s
  | .nvmeTimeout cid => Sys2Proof.Machine.execNvmeTimeout cid s
  | .linkCfgWrite iface p size value => Sys2Proof.Machine.execLinkCfgWrite iface p size value s
  | .linkTrained l peer peerPort => Sys2Proof.Machine.execLinkTrained l peer peerPort s
  | .linkTrainingTimeout l => Sys2Proof.Machine.execLinkTrainingTimeout l s
  | .messageDelivery l m => Sys2Proof.Machine.execMessageDelivery l m s
  | .nak l seq => Sys2Proof.Machine.execNak l seq s
  | .ackTimeout l => Sys2Proof.Machine.execAckTimeout l s
  | .linkRetrain l cause => Sys2Proof.Machine.execLinkRetrain l cause s
  | .resetNotice l => Sys2Proof.Machine.execResetNotice l s
  | .peerLost l => Sys2Proof.Machine.execPeerLost l s
  | .errPeerdownWrite iface w size half value => Sys2Proof.Machine.execErrPeerdownWrite iface w size half value s
  | .patrolScrub t upset => Sys2Proof.Machine.execPatrolScrub t upset s
  | .channelRetrain c => Sys2Proof.Machine.execChannelRetrain c s
  | .errorHandlingStart => Sys2Proof.Machine.execErrorHandlingStart s
  | .hangDetected l x => Sys2Proof.Machine.execHangDetected l x s
  | .replayPositionReached => Sys2Proof.Machine.execReplayPositionReached s
  | .replayHangAgain => Sys2Proof.Machine.execReplayHangAgain s
  | .resetreqGo iface value => Sys2Proof.Machine.execResetreqGo iface value s
  | .deviceResetBegin => Sys2Proof.Machine.execDeviceResetBegin s
  | .dumpUnitTimeout => Sys2Proof.Machine.execDumpUnitTimeout s
  | .dumpSealed => Sys2Proof.Machine.execDumpSealed s
  | .t1Verified found => Sys2Proof.Machine.execT1Verified found s
  | .jobImageReload img => Sys2Proof.Machine.execJobImageReload img s
  | .deviceResetFail => Sys2Proof.Machine.execDeviceResetFail s
  | .dumpcpyGo iface value => Sys2Proof.Machine.execDumpcpyGo iface value s
  | .dumpCopyDone ok => Sys2Proof.Machine.execDumpCopyDone ok s
  | .cairnCallIssue => Sys2Proof.Machine.execCairnCallIssue s
  | .callack m => Sys2Proof.Machine.execCallack m s
  | .cairnRowCopy t => Sys2Proof.Machine.execCairnRowCopy t s
  | .rowcopy m => Sys2Proof.Machine.execRowcopy m s
  | .shadow m => Sys2Proof.Machine.execShadow m s
  | .rtbrec m => Sys2Proof.Machine.execRtbrec m s
  | .belaySeal m => Sys2Proof.Machine.execBelaySeal m s
  | .belaySealed m => Sys2Proof.Machine.execBelaySealed m s
  | .belayDone m => Sys2Proof.Machine.execBelayDone m s
  | .belayComplete m => Sys2Proof.Machine.execBelayComplete m s
  | .ask m => Sys2Proof.Machine.execAsk m s
  | .gather m => Sys2Proof.Machine.execGather m s
  | .feed m => Sys2Proof.Machine.execFeed m s
  | .fillreq m => Sys2Proof.Machine.execFillreq m s
  | .belayFill m => Sys2Proof.Machine.execBelayFill m s
  | .flitReceived l f => Sys2Proof.Machine.execFlitReceived l f s
  | .peerReturn l => Sys2Proof.Machine.execPeerReturn l s
  | .dieTemperatureLimit die temp => Sys2Proof.Machine.execDieTemperatureLimit die temp s
  | .hostLinkDown => Sys2Proof.Machine.execHostLinkDown s
  | .channelRetrainComplete c ok => Sys2Proof.Machine.execChannelRetrainComplete c ok s

end Sys2Proof.Machine
end

