-- ==== Sys2Proof/Safety.lean ====
section
/-! DEFINITION. What statements about the commands are made of: completion, and what a command leaves as it was. -/
namespace Sys2Proof.Machine

/-- The command completes: it answers a next state, and that state satisfies P. -/
abbrev Completes (c : Instr) (s : State) (P : State → Prop) : Prop := ∃ t, exec c s = .next t ∧ P t

/-- Every byte of memory reads as before. -/
def SameBytes (s t : State) : Prop := ∀ a, t.byte a = s.byte a

/-- Every byte outside the n bytes from `a` up reads as before. -/
def SameBytesBut (a n : Nat) (s t : State) : Prop := ∀ b, ¬ (a ≤ b ∧ b < a + n) → t.byte b = s.byte b

/-- Every register but those listed holds what it held. -/
def SameRegsBut (rs : List Nat) (s t : State) : Prop := ∀ a, a ∉ rs → t.reg a = s.reg a

/-- Nothing but registers and tiles has changed. -/
def RegsTilesOnly (s t : State) : Prop := ∃ r x, t = { s with regs := r, tiles := x }

/-- Context l took one issue turn with a scalar instruction that left it as `c` (R20, R156): TILE_CNT_INSN counts it,
the round robin goes on from it, and every other context, register and part of the machine is as before. -/
def Turn (l : Loc) (c : Ctx) (s t : State) : Prop :=
  t.ctx l = c ∧ (∀ k, k ≠ l → t.ctx k = s.ctx k) ∧
  (∀ n, t.tile n = { s.tile n with ctxs := (t.tile n).ctxs, rr := if n = l.tile.val then l.ctx else (s.tile n).rr }) ∧
  (∀ a, t.reg a = if a = rCntInsn l.tile then countUp (s.reg a) 1 else s.reg a) ∧
  RegsTilesOnly s t

/-- No word of n bytes of T0 from `a` up has an error (R165). -/
def CleanT0 (s : State) (a n : Nat) : Prop :=
  ∀ w ∈ wordsOf a n, s.upset.get (fun _ => 0) w = 0 ∧ s.poison.get (fun _ => false) (poisonKey w) = false

/-- No EVENT queue takes the events that no queue of their own takes (R334). -/
def NoEventQueue (s : State) : Prop := (s.desc s.evq).valid = false

/-- The log's next slot can be taken (R371), and the entry's event meets no error in the descriptor of its queue (R326), which would be a
second entry. -/
def LogRoom (s : State) : Prop :=
  (∀ e, s.nextSlot = some e → e.state = 2) ∧ s.upset.get (fun _ => 0) (s.descAt s.evq) = 0

/-- The log of t is that of s with one more entry: `e` with the next SEQ, the aon count, for one that is done also as its end, and the step and
attempt (R370, R372). -/
def Logged (e : LogEntry) (s t : State) : Prop :=
  t.log.next = (s.log.next + 1) % 2 ^ 32 ∧
  t.log.slots.get (fun _ => none) (s.log.next % 64) =
    some { e with seq := s.log.next, tstart := s.aon.toNat, tend := if e.state = 2 then s.aon.toNat else 0, step := s.step.no, att := s.step.att } ∧
  ∀ i, i ≠ s.log.next % 64 → t.log.slots.get (fun _ => none) i = s.log.slots.get (fun _ => none) i

/-- Context l faulted (R153): it stands FAULTED, its commands that no engine accepted are gone from every queue, TILE_CFLT_Cn holds `w`
unless it held an earlier fault, and a CONTEXT entry with the cause is logged; another event of its crossing may set its overrun bit (R364). -/
def ContextFaulted (l : Loc) (w : Word) (cause eng : Nat) (s t : State) : Prop :=
  let r := rCflt l.tile l.ctx
  let v := if (s.reg r).getLsbD 0 then s.reg r else w
  t.ctx l = { s.ctx l with mode := .faulted, wait := .none, clist := none } ∧ (∀ k, k ≠ l → t.ctx k = s.ctx k) ∧
  (∀ e : Fin 6, (t.tile l.tile).queues[e] = ((s.tile l.tile).queues[e]).filter (fun k => decide (k.ctx ≠ l.ctx))) ∧
  (∀ e : Fin 6, (t.tile l.tile).active[e] = (s.tile l.tile).active[e]) ∧
  t.reg r = v ∧
  (LogRoom s → Logged ⟨0, 2, cause, 0, 0, 0, 0, 0, 0, 0, l.tile, l.ctx, eng, v.toNat, 0, 0⟩ s t) ∧
  (NoEventQueue s → SameBytes s t ∧ SameRegsBut [r, rCntInsn l.tile, rXovr] s t)

/-- The instruction at a context's PC faulted it with a cause (R154). -/
def InsnFaulted (l : Loc) (cause : Nat) (s t : State) : Prop :=
  ContextFaulted l (BitVec.ofNat 64 ((s.ctx l).pc.toNat * 2 ^ 40 + cause * 2 ^ 24 + 1)) cause 0xE s t

/-- The context is stopped by an uncorrectable word of its tile's SRAM (R155): HELD, with WAIT 0 and no fault recorded. -/
def ContextHeld (l : Loc) (s t : State) : Prop :=
  (t.ctx l).mode = .held ∧ (t.ctx l).wait = .none ∧ (t.ctx l).pc = (s.ctx l).pc ∧ (t.ctx l).g = (s.ctx l).g ∧
  (∀ k, k ≠ l → t.ctx k = s.ctx k) ∧ t.reg (rCflt l.tile l.ctx) = s.reg (rCflt l.tile l.ctx)

/-- Command `w` of context l entered the queue of engine e (R135, R137): behind the commands that were there, with CTX replaced by the
issuing context's number, the address it was issued from, the next issue number of the tile, and g28 to g31 and s0 to s15 with their
tags as they were. No other queue, accepted command or tile changed, and TILE_CNT_CMDI counted it. -/
def Entered (l : Loc) (e : Fin 6) (w : BitVec 128) (addr : Nat) (s t : State) : Prop :=
  (∃ k : EngCmd, (t.tile l.tile).queues[e] = (s.tile l.tile).queues[e] ++ [k] ∧
    (∀ i, i < 128 → k.word.getLsbD i = if i = 18 ∨ i = 19 then l.ctx.val.testBit (i - 18) else w.getLsbD i) ∧
    k.ctx = l.ctx ∧ k.addr = addr ∧ k.serial = (s.tile l.tile).serial + 1 ∧
    k.ops = #v[(s.ctx l).g[28], (s.ctx l).g[29], (s.ctx l).g[30], (s.ctx l).g[31]] ∧
    k.sregs = (s.ctx l).s ∧ k.tags = (s.ctx l).tag) ∧
  (∀ f : Fin 6, f ≠ e → (t.tile l.tile).queues[f] = (s.tile l.tile).queues[f]) ∧
  (∀ f : Fin 6, (t.tile l.tile).active[f] = (s.tile l.tile).active[f]) ∧
  (∀ n, n ≠ l.tile.val → t.tile n = s.tile n) ∧ (∀ k, k ≠ l → t.ctx k = s.ctx k) ∧
  t.reg (rCntCmdi l.tile) = countUp (s.reg (rCntCmdi l.tile)) 1 ∧
  SameRegsBut [rCntCmdi l.tile, rCntInsn l.tile] s t ∧ SameBytes s t ∧ RegsTilesOnly s t

/-! ### Engine commands -/

/-- The tile, the engine (R136) and the operation code of an engine row (R80, R106, R118, R176, R196, R331). -/
def engineRow : Instr → Option (TileId × Fin 6 × Nat)
  | .product t _ _ _ => some (t, 0, 1)
  | .add t => some (t, 1, 1)
  | .sub t => some (t, 1, 2)
  | .mul t => some (t, 1, 3)
  | .fma t => some (t, 1, 4)
  | .div t => some (t, 1, 5)
  | .sqrt t => some (t, 1, 6)
  | .min t => some (t, 1, 7)
  | .max t => some (t, 1, 8)
  | .abs t => some (t, 1, 9)
  | .neg t => some (t, 1, 10)
  | .vectorCmp t => some (t, 1, 11)
  | .sel t => some (t, 1, 12)
  | .cvt t => some (t, 1, 13)
  | .exp t => some (t, 1, 16)
  | .log t => some (t, 1, 17)
  | .tanh t => some (t, 1, 18)
  | .rsqrt t => some (t, 1, 19)
  | .normFwd t => some (t, 2, 1)
  | .normBwd t => some (t, 2, 2)
  | .smaxFwd t => some (t, 2, 3)
  | .smaxBwd t => some (t, 2, 4)
  | .slotClr t => some (t, 2, 5)
  | .copy t => some (t, 3, 1)
  | .transpose t => some (t, 3, 2)
  | .fill t => some (t, 3, 3)
  | .pool t => some (t, 4, 1)
  | .scatter t => some (t, 4, 2)
  | .update t => some (t, 4, 3)
  | .vpin t => some (t, 4, 4)
  | .vunpin t => some (t, 4, 5)
  | .send t => some (t, 5, 1)
  | .recv t => some (t, 5, 2)
  | .peek t => some (t, 5, 3)
  | _ => none

/-- Command k stands at the head of engine e's queue, before `rest`, with the operation code `op`, and its gates let it run. -/
def Ready (t : TileId) (e : Fin 6) (op : Nat) (k : EngCmd) (rest : List EngCmd) (s : State) : Prop :=
  (s.tile t).queues[e] = k :: rest ∧ cmdOp k.word = op ∧ s.gate t e k = .run

/-- The progress counter of engine e advanced (R379). -/
def progressed (e : Fin 6) (c : Ctx) : Ctx := c.progress ⟨e.val + 1, Nat.succ_lt_succ e.isLt⟩

/-- It advanced once for a completed command and once in every 1,024 fast cycles of moved data (R379). -/
def progressedBy (e : Fin 6) (moved : Nat) (c : Ctx) : Ctx :=
  { c with prog := c.prog.set (e.val + 1) (c.prog[e.val + 1]'(Nat.succ_lt_succ e.isLt) + 1 + moved / 1024) (Nat.succ_lt_succ e.isLt) }

/-- Engine e accepted command k, which left its queue (R138): it joins the active ones, no error stopped it, and `fin` says that its work
is finished. Other queues, active commands, contexts and tiles are as before; its context is as `c`. -/
def Accepted (t : TileId) (e : Fin 6) (k : EngCmd) (rest : List EngCmd) (fin : Bool) (c : Ctx) (s u : State) : Prop :=
  (u.tile t).queues[e] = rest ∧
  (∃ a : Active, (u.tile t).active[e] = (s.tile t).active[e] ++ [a] ∧ a.cmd = k ∧ a.stopped = false ∧ a.done = fin) ∧
  (∀ f : Fin 6, f ≠ e → (u.tile t).queues[f] = (s.tile t).queues[f] ∧ (u.tile t).active[f] = (s.tile t).active[f]) ∧
  (∀ n, n ≠ t.val → u.tile n = s.tile n) ∧ u.ctx ⟨t, k.ctx⟩ = c ∧ (∀ i, i ≠ k.ctx → u.ctx ⟨t, i⟩ = s.ctx ⟨t, i⟩)

/-- Command k was rejected (R153): it left its queue unrun, and its context faulted with a cause and a detail (R154). -/
def Rejected (t : TileId) (e : Fin 6) (k : EngCmd) (cause detail : Nat) (s u : State) : Prop :=
  ContextFaulted ⟨t, k.ctx⟩ (BitVec.ofNat 64 (k.addr % 2 ^ 24 * 2 ^ 40 + cause * 2 ^ 24 + detail * 2 ^ 16 + e.val * 2 ^ 12 +
    cmdOp k.word * 2 ^ 4 + 1)) cause e.val s u

/-- No word of a tile's SRAM and accumulator store has an error (R165). -/
def CleanTile (s : State) (t : TileId) : Prop :=
  ∀ w, t.val * 0x800000 ≤ w → w < t.val * 0x800000 + 0x640000 →
    s.upset.get (fun _ => 0) w = 0 ∧ s.poison.get (fun _ => false) w = false

/-- No burst or word that n bytes from `a` up touch has an error (R165, R171). -/
def CleanAt (s : State) (a n : Nat) : Prop :=
  ∀ w, a < w + 64 → w < a + n → s.upset.get (fun _ => 0) w = 0 ∧ s.poison.get (fun _ => false) w = false

/-- Every byte outside a list of (start, length) ranges reads as before. -/
def SameBytesOutside (rs : List (Nat × Nat)) (s t : State) : Prop :=
  ∀ a, (∀ r ∈ rs, ¬ (r.1 ≤ a ∧ a < r.1 + r.2)) → t.byte a = s.byte a

/-- The operand values that source field f of a vector command supplies (R33, R40, R103). -/
def vecOperand (s : State) (t : TileId) (k : EngCmd) (v : VecCmd) (f : Nat) : List Val :=
  if isBroadcast f then List.replicate v.n (k.broadcast v.fa f)
  else (operandElems v.fa v.n (s.bytes (t.val * 0x800000 + 64 * f) (elemBytes v.fa v.n))
    (s.bytes (t.val * 0x800000 + 64 * v.b) (v.n / 32))).map (fun e => e.1.scale e.2)

/-- No word or burst of the memories has an error (R165, R171). -/
def NoUpsets (s : State) : Prop := s.upset = [] ∧ s.poison = []

/-! ### Messages -/

/-- The message that this device makes of a body, on the lower virtual channel of its class (R293, R296, R300). -/
def ownMsg (s : State) (dst step att : Nat) (body : MsgBody) : Msg :=
  ⟨s.devId, dst, false, 0, 2 * (body.cls.getD 0), 0, step, att, true, body⟩

/-- A message to one device went out (R300, R301, R304): to this device itself into the inbox; to another through a valid route onto a link
that is UP, where its flits are queued or sent, or, with no such link or behind an earlier one of its flow, it waits. -/
def Sends (dst step att : Nat) (body : MsgBody) (s u : State) : Prop :=
  let m := ownMsg s dst step att body
  let has := fun (k : Link) => (k.retry ++ k.queue).countP (fun f => f.som && decide (f.msg = m))
  (dst = s.devId → u.inbox = s.inbox ++ [m] ∧ u.links = s.links ∧ u.netWait = s.netWait) ∧
  (dst ≠ s.devId → u.inbox = s.inbox ∧ (bitOf (s.route dst) 15 = true →
    (s.linkFor dst = none ∨ s.behind m = true → s.qm.backlog.any (sameFlow m) = false → u.netWait = s.netWait ++ [m] ∧ u.links = s.links) ∧
    (∀ l dl, s.linkFor dst = some (l, dl) → s.lnkMode l = 0 → s.behind m = false → u.netWait = s.netWait ∧ has (u.link l) = has (s.link l) + 1)))

/-- A message to a device meets no port that would discard it: it is this device, or its route is valid and the link that it takes is an
Eotumos link (R301, R310). -/
def Reachable (s : State) (dst : Nat) : Prop :=
  dst = s.devId ∨ (bitOf (s.route dst) 15 = true ∧ ∀ l dl, s.linkFor dst = some (l, dl) → s.lnkMode l = 0)

/-- Messages are taken: writes go on (R32), and no row message is held back for a ring (R340). -/
def Takes (s : State) : Prop := s.writesStop = false ∧ s.qm.backlog = []

/-- A message of the inbox that a home tile (or the hub, none) consumes now: of its step and attempt (R251). -/
def Current (t : Option Nat) (m : Msg) (s : State) : Prop := m ∈ s.inbox ∧ s.later t m = false ∧ s.stale t m = false ∧ Takes s

/-- The STEP entry of a protocol error: buffer or table, and index (R373). -/
def stepEntry (cause obj index : Nat) : LogEntry :=
  ⟨0, 7, cause, 0, 0, 0, 0, 0, 0, 0, 0xFFFF, 0, 0xF, obj % 2 ^ 16 + index % 2 ^ 40 * 2 ^ 16, 0, 0⟩

/-- The ACCESS entry of a register access that is not carried out (R8, R373). -/
def accessEntry (cause addr : Nat) : LogEntry := ⟨0, 1, cause, 0, 0, 0, 0, 0, 0, 0, 0xFFFF, 0, 0xF, addr, 0, 0⟩

/-- A LINK entry: logical port, peer or member, and MTYPE (R373). -/
def linkEntry (cause l peer mtype : Nat) : LogEntry :=
  ⟨0, 5, cause, 0, 0, 0, 0, 0, 0, 0, 0x500 + l / 2, 0, 0xF, l % 32 + peer % 4096 * 2 ^ 16 + mtype % 256 * 2 ^ 32, 0, 0⟩

/-- The first flits of a message on a link: unacknowledged ones and waiting ones. -/
def begins (k : Link) (m : Msg) : Nat := (k.retry ++ k.queue).countP (fun f => f.som && decide (f.msg = m))

/-! ### Accesses from outside -/

/-- An access names byte address a of a register block: through BAR0, through BAR2, or by its device address (R319, R442). -/
def Reaches : RegAt → Nat → Prop
  | .bar0 off, a => off < 0x1C0000 ∧ a = 0x200000000 + off
  | .bar2 off, a => off = a ∧ (tileRegAt a).isSome = true
  | .mgt x, a => x = a ∧ ((tileRegAt a).isSome = true ∨ (hubRegAt a).isSome = true)

/-- The accesses that a register takes (R8): size, place in the register, the bits reached, and where the data's bit 0 goes. -/
def widths : List (Nat × Nat × Nat × Nat) :=
  [(8, 0, 2 ^ 64 - 1, 0), (4, 0, 2 ^ 32 - 1, 0), (4, 4, 2 ^ 64 - 2 ^ 32, 32)]

/-- An access was discarded: an ACCESS entry, and nothing else (R5 to R8). -/
def Discarded (cause addr : Nat) (s u : State) : Prop :=
  SameBytes s u ∧ SameRegsBut [] s u ∧ u.tiles = s.tiles ∧ u.chg = s.chg ∧ u.chgNext = s.chgNext ∧ u.qm = s.qm ∧
  Logged (accessEntry cause addr) s u

/-- One change log entry was written, for a register that now holds `new`; an entry that nobody read and that it replaces is counted (R439,
R440). The value of RTB_REPLAY's entry holds DIVSTEP too. -/
def Changed (iface r : Nat) (new : Word) (s u : State) : Prop :=
  u.chgNext = (s.chgNext + 1) % 2 ^ 32 ∧
  (∃ x, u.chg.get (fun _ => none) (s.chgNext % 1024) = some ⟨s.chgNext, iface, 1, s.aon.toNat, r, x, false⟩ ∧
    (r ≠ rReplay → x = new.toNat)) ∧
  (∀ i, i ≠ s.chgNext % 1024 → u.chg.get (fun _ => none) i = s.chg.get (fun _ => none) i) ∧
  (∀ e, s.chg.get (fun _ => none) (s.chgNext % 1024) = some e → e.read = false →
    wfld (u.reg rChgStat) 31 0 = min (wfld (s.reg rChgStat) 31 0 + 1) (2 ^ 32 - 1))

/-- Nothing waits for memory beyond the device, for a link or for a pin, which traffic that comes back would set going (R318, R445). -/
def Quiet (s : State) : Prop :=
  (∀ x ∈ s.host.waiting, x.held = false) ∧ (∀ x ∈ s.qm.nvme, x.held = false) ∧ s.emb.waiting = [] ∧ (∀ p ∈ s.emb.pins, p.asks = []) ∧
  s.netWait = [] ∧ s.qm.backlog = []

/-- The log's next two slots can be taken (R371). -/
def LogRoomTwo (s : State) : Prop :=
  LogRoom s ∧ ∀ e, s.log.slots.get (fun _ => none) ((s.log.next + 1) % 2 ^ 32 % 64) = some e → e.state = 2

/-- The log of t is that of s with two more entries, e and then f. -/
def LoggedTwo (e f : LogEntry) (s t : State) : Prop :=
  t.log.next = (s.log.next + 2) % 2 ^ 32 ∧
  t.log.slots.get (fun _ => none) (s.log.next % 64) =
    some { e with seq := s.log.next, tstart := s.aon.toNat, tend := if e.state = 2 then s.aon.toNat else 0, step := s.step.no, att := s.step.att } ∧
  t.log.slots.get (fun _ => none) ((s.log.next + 1) % 2 ^ 32 % 64) =
    some { f with seq := (s.log.next + 1) % 2 ^ 32, tstart := s.aon.toNat, tend := if f.state = 2 then s.aon.toNat else 0, step := s.step.no, att := s.step.att }

/-- Every part has stopped: registers, tiles, log, job, T0 and T1 are as at power-good; the memory outside the module stays, and the boot
flash, but for the destination of a firmware transfer that was cut (R346, R435, R456). -/
def AllLost (stage : Stage) (s u : State) : Prop :=
  u.power.stage = stage ∧ u.regs = [] ∧ u.tiles = [] ∧ u.aon = 0 ∧ u.log = ⟨[], 0⟩ ∧ u.job = Job.reset ∧ u.links = [] ∧ u.sec = Security.reset ∧
  (∀ b, b < 0x8000000000000000 → u.byte b = 0) ∧ (∀ b, 0x8000000000000000 ≤ b → u.byte b = s.byte b) ∧
  (s.mgmt.update = none → u.flash = s.flash)

/-! ### Host commands (R335, R336) -/

/-- The entry in turn, in HOSTCMD queue q, holds an operation code, a TAG and the operand words QW1 and on; the hub takes commands. -/
def HostTurn (s : State) (q tag opc : Nat) (ops : List Nat) : Prop :=
  let a := (s.desc q).entryAt (s.desc q).head
  s.hostReady = true ∧ s.cmdQueue = some q ∧ s.farWaits a = false ∧
  (tierOf a = .t2 ∨ tierOf a = .t3 → Config.farFails s.freeCtr a = false) ∧ NoUpsets s ∧ NoEventQueue s ∧ s.job.sizes.2.1 ≤ 4 ∧ tag < 2 ^ 16 ∧
  s.peek a 8 = opc * 2 ^ 56 + tag * 2 ^ 40 ∧ ∀ i < 7, s.peek (a + 8 + 8 * i) 8 = ops.getD i 0

/-- The state in which a command of queue q runs: its entry has been read and taken. -/
def entryTaken (s : State) (q : Nat) : State :=
  let d := s.desc q
  let t := (((s.readMem (d.entryAt d.head) 64).1).useQueue q).setHead q ((d.head + 1) % 2 ^ 32)
  { t with qm := { t.qm with cmdFrom := q + 1 } }

/-- The command completed: its entry is consumed, and its queue's event queue, if it has room and nothing waits for it, shows the
completion (R325, R334, R335). The room is taken to lie in T2, and the host link to serve it (R318). -/
def HostTold (q tag status result : Nat) (s u : State) : Prop :=
  let e := (s.desc q).evq
  let d := s.desc e
  let a := d.entryAt d.tail
  u.peek (s.descAt q + 20) 4 = ((s.desc q).head + 1) % 2 ^ 32 ∧
  u.reg (hubReg 5 0x120) = countUp (s.reg (hubReg 5 0x120)) 1 ∧
  (d.valid = true → d.cls = 6 → d.used < 2 ^ d.log2n → s.heldEvents e = [] → s.qm.lost.get (fun _ => 0) e = 0 → d.flagen = false →
    s.hostUp = true → 0x8000000000000000 ≤ a → u.peek a 8 = 2 ^ 56 + status * 2 ^ 48 + tag * 2 ^ 32 + q ∧ u.peek (a + 24) 8 = result ∧
      u.peek (s.descAt e + 16) 4 = (d.tail + 1) % 2 ^ 32)

end Sys2Proof.Machine
end

