-- ==== Sys2Proof/WellFormed.lean ====
section
/-! DEFINITION. Which commands are well formed: the scalar instructions that R128 does not make illegal, and accesses of a size and
place that R8 and R319 allow. `exec` does not rely on it: it says what an ill-formed command does. -/
namespace Sys2Proof

/-- The context, the guard and the legality of a scalar instruction (R127, R128); none for a command that is no scalar instruction. -/
def Instr.scalar : Instr → Option (Loc × Guard × Bool)
  | .aluGroup l g _ _ _ fn => some (l, g, decide (fn.toNat ≤ 0x10))
  | .addi l g _ _ _ => some (l, g, true)
  | .andi l g _ _ _ => some (l, g, true)
  | .ori l g _ _ _ => some (l, g, true)
  | .xori l g _ _ _ => some (l, g, true)
  | .shi l g _ _ imm => some (l, g, decide (imm.toNat < 0xC0))
  | .movw l g _ _ _ _ => some (l, g, true)
  | .ld l g _ _ _ _ => some (l, g, true)
  | .st l g _ _ _ _ => some (l, g, true)
  | .cmp l g _ _ _ cond kind low => some (l, g, decide (kind.toNat ≤ 1 ∧ cond.toNat ≤ 5 ∧ low = 0))
  | .stest l g _ a _ cond kind low =>
    some (l, g, decide ((kind.toNat ≤ 1 ∧ cond.toNat ≤ 5 ∨ kind = 2) ∧ low = 0 ∧ a.toNat < 16))
  | .plog l g _ _ _ _ _ low => some (l, g, decide (low = 0))
  | .br l g _ => some (l, g, true)
  | .call l g _ => some (l, g, true)
  | .jr l g _ _ _ => some (l, g, true)
  | .movs l g _ _ _ _ => some (l, g, true)
  | .swr l g _ _ _ _ => some (l, g, true)
  | .trd l g _ _ _ _ => some (l, g, true)
  | .tset l g _ _ _ _ _ => some (l, g, true)
  | .rdr l g _ ra _ _ => some (l, g, decide (ra = 0))
  | .wrr l g _ ra _ => some (l, g, decide (ra = 0))
  | .issue l g _ ra _ _ => some (l, g, decide (ra.toNat % 2 = 0))
  | .issuem l g _ _ _ => some (l, g, true)
  | .clist l g _ _ _ _ => some (l, g, true)
  | .twait l g _ _ imm => some (l, g, decide (imm = 0))
  | .ttest l g _ _ _ cond kind low => some (l, g, decide (cond = 0 ∧ kind = 0 ∧ low = 0))
  | .semsig l g _ n imm => some (l, g, decide (n = 0 ∧ imm ≠ 0))
  | .semwait l g ra n imm => some (l, g, decide (ra = 0 ∧ n.toNat ≤ 7 ∧ imm ≠ 0))
  | .semtest l g _ a _ _ _ low => some (l, g, decide (low = 0 ∧ a.toNat ≤ 7))
  | .wakeAhead l g ra n imm => some (l, g, decide (ra = 0 ∧ imm = 0 ∧ n.toNat ≤ 5))
  | .progMark l g ra n imm => some (l, g, decide (ra = 0 ∧ n = 0 ∧ imm = 0))
  | .stepCommitArrive l g => some (l, g, true)
  | .stepCommitWait l g _ => some (l, g, true)
  | .stepCommitDone l g => some (l, g, true)
  | .stepCommitRewind l g => some (l, g, true)
  | .halt l g ra n imm => some (l, g, decide (ra = 0 ∧ n = 0 ∧ imm = 0))
  | _ => none

/-- A register access of 8 bytes, or of an aligned half (R8). -/
def sizeOk (size : Nat) : Bool := decide (size = 4 ∨ size = 8)

/-- Whether a command's operands are ones that the manual gives it. -/
def Instr.wf (i : Instr) : Bool :=
  match i.scalar with
  | some (_, _, legal) => legal
  | none =>
    match i with
    | .registerWrite _ size _ => sizeOk size
    | .rcRegisterRead _ size _ => sizeOk size
    | .mctpRegisterRead _ size _ => sizeOk size
    | .mctpRegisterWrite _ size _ => sizeOk size
    | .doorbell q size _ => decide (q < 2 ^ 20 ∧ size = 8)
    | .hostTileMemoryRead off len => decide (off + len ≤ 640 * 2 ^ 23)
    | .hostTileMemoryWrite off data => decide (off + data.length ≤ 640 * 2 ^ 23)
    | .linkCfgWrite _ _ size _ => sizeOk size
    | .errPeerdownWrite _ _ size half _ => sizeOk size && decide (half ≤ 1)
    | _ => true

end Sys2Proof
end

