-- ==== Sys2Proof/Certificates/Slice0/Obligations.lean ====
section
/-! DEFINITION. The statements about the model, for the provers: each formalises rules of spec/ or a choice that a log entry names. -/

open Sys2Proof Sys2Proof.Machine

/-! ### The machine as a whole -/

/-- A step takes the command at the front of the queue and is `exec` of it on the state with the queue's rest. -/
def Obligations.StepRunsTheFrontCommand : Prop :=
  ∀ (s : State) (c : Instr) (rest : List Instr), s.pending = c :: rest →
    step s = exec c { s with pending := rest }

/-- With no command waiting the block idles (the model's choice, log 22). -/
def Obligations.EmptyQueueIdles : Prop := ∀ s : State, s.pending = [] → step s = .next s

/-! ### Scalar instructions (R124 to R134) -/

/-- g0 reads 0 and p0 reads 1, writes to them are discarded, and a write of another register or predicate changes it alone (R124). -/
def Obligations.RegisterWritesOfAContext : Prop :=
  ∀ (c : Ctx) (v : Word) (b : Bool),
    c.rg 0 = 0 ∧ c.wg 0 v = c ∧ c.rp 0 = true ∧ c.wp 0 b = c ∧
    (∀ n k : BitVec 5, n ≠ 0 → (c.wg n v).rg k = if k = n then v else c.rg k) ∧
    (∀ n k : BitVec 3, n ≠ 0 → (c.wp n b).rp k = if k = n then b else c.rp k) ∧
    (∀ n : BitVec 5, ∃ r, c.wg n v = { c with g := r }) ∧
    (∀ n : BitVec 3, ∃ r, c.wp n b = { c with p := r })

/-- The ALU group writes gd by the table of R129, takes one issue turn and goes on to the next instruction; nothing else changes. A code
outside the table is an illegal instruction (R128). -/
def Obligations.AluGroupResults : Prop :=
  ∀ (s : State) (l : Loc) (g : Guard) (rd ra rb : BitVec 5), s.canIssue l = true → (s.ctx l).passes g = true →
    let a := (s.ctx l).rg ra
    let b := (s.ctx l).rg rb
    let n := b.toNat % 64
    let writes := fun (fn : BitVec 7) (v : Word) =>
      Completes (.aluGroup l g rd ra rb fn) s (Turn l ((s.ctx l).wg rd v).next s)
    (∀ p ∈ ([(0x00, a + b), (0x01, a - b), (0x02, a &&& b), (0x03, a ||| b), (0x04, a ^^^ b), (0x05, a <<< n), (0x06, a >>> n),
        (0x07, a.sshiftRight n), (0x08, a * b), (0x09, (a.zeroExtend 128 * b.zeroExtend 128).extractLsb' 64 64),
        (0x0A, (a.signExtend 128 * b.signExtend 128).extractLsb' 64 64), (0x0B, if a.ult b then a else b),
        (0x0C, if a.ult b then b else a), (0x0D, if a.slt b then a else b), (0x0E, if a.slt b then b else a),
        (0x10, BitVec.ofNat 64 ((List.range 64).filter (fun i => a.getLsbD i)).length)] : List (BitVec 7 × Word)),
      writes p.1 p.2) ∧
    (∀ z : Nat, (a = 0 ∧ z = 64 ∨ z < 64 ∧ 2 ^ (63 - z) ≤ a.toNat ∧ a.toNat < 2 ^ (64 - z)) →
      writes 0x0F (BitVec.ofNat 64 z)) ∧
    (∀ fn : BitVec 7, 0x10 < fn.toNat → Completes (.aluGroup l g rd ra rb fn) s (InsnFaulted l 1 s))

/-- The immediate forms of R128: `addi`, `andi`, `ori`, `xori` with the sign-extended immediate, `shi` by IMM12[7:6], and `movw`, which
replaces 16 bits and keeps or clears the others. -/
def Obligations.ImmediateResults : Prop :=
  ∀ (s : State) (l : Loc) (g : Guard) (rd ra : BitVec 5), s.canIssue l = true → (s.ctx l).passes g = true →
    let a := (s.ctx l).rg ra
    let writes := fun (c : Instr) (v : Word) => Completes c s (Turn l ((s.ctx l).wg rd v).next s)
    (∀ imm : BitVec 12, writes (.addi l g rd ra imm) (a + imm.signExtend 64) ∧
      writes (.andi l g rd ra imm) (a &&& imm.signExtend 64) ∧ writes (.ori l g rd ra imm) (a ||| imm.signExtend 64) ∧
      writes (.xori l g rd ra imm) (a ^^^ imm.signExtend 64)) ∧
    (∀ n : BitVec 6, writes (.shi l g rd ra (0#6 ++ n)) (a <<< n.toNat) ∧ writes (.shi l g rd ra (1#6 ++ n)) (a >>> n.toNat) ∧
      writes (.shi l g rd ra (2#6 ++ n)) (a.sshiftRight n.toNat)) ∧
    (∀ (q : BitVec 2) (z : Bool) (imm : BitVec 16) (v : Word),
      (∀ i < 64, v.getLsbD i = if 16 * q.toNat ≤ i ∧ i < 16 * q.toNat + 16 then imm.getLsbD (i - 16 * q.toNat)
        else !z && ((s.ctx l).rg rd).getLsbD i) →
      writes (.movw l g q rd z imm) v)

/-- The tests of R134 and R128: `cmp` and `stest` under U and S, `stest` under F where a NaN makes every condition false but ≠ and
unordered, `plog`, and `ttest`; each writes pd and nothing else. A KIND or COND that its test does not take is cause 0x01. -/
def Obligations.TestResults : Prop :=
  ∀ (s : State) (l : Loc) (g : Guard) (pd : BitVec 3) (ra rb : BitVec 5), s.canIssue l = true → (s.ctx l).passes g = true →
    let c := s.ctx l
    let a := c.rg ra
    let b := c.rg rb
    let sets := fun (i : Instr) (v : Bool) => Completes i s (Turn l (c.wp pd v).next s)
    let table := fun (x y : Word) => ([(0, 0, decide (x = y)), (1, 0, decide (x ≠ y)), (2, 0, x.ult y), (3, 0, x.ule y),
      (4, 0, y.ult x), (5, 0, y.ule x), (0, 1, decide (x = y)), (1, 1, decide (x ≠ y)), (2, 1, x.slt y), (3, 1, x.sle y),
      (4, 1, y.slt x), (5, 1, y.sle x)] : List (BitVec 3 × BitVec 2 × Bool))
    (∀ e ∈ table a b, sets (.cmp l g pd ra rb e.1 e.2.1 0) e.2.2) ∧
    (∀ n : Fin 16, ∀ e ∈ table c.s[n] b, sets (.stest l g pd (BitVec.ofNat 5 n.val) rb e.1 e.2.1 0) e.2.2) ∧
    (∀ n : Fin 16, ∀ cond : BitVec 3, (decodeFmt .fp64 c.s[n].toNat).isNan = true ∨ (decodeFmt .fp64 b.toNat).isNan = true →
      sets (.stest l g pd (BitVec.ofNat 5 n.val) rb cond 2 0) (decide (cond = 1 ∨ cond = 6))) ∧
    (∀ n : Fin 16, (decodeFmt .fp64 c.s[n].toNat).isNan = false → (decodeFmt .fp64 b.toNat).isNan = false →
      let d := cmpVal (decodeFmt .fp64 c.s[n].toNat) (decodeFmt .fp64 b.toNat)
      ∀ e ∈ ([(0, decide (d = 0)), (1, decide (d ≠ 0)), (2, decide (d < 0)), (3, decide (d ≤ 0)), (4, decide (0 < d)),
          (5, decide (0 ≤ d)), (6, false), (7, true)] : List (BitVec 3 × Bool)),
        sets (.stest l g pd (BitVec.ofNat 5 n.val) rb e.1 2 0) e.2) ∧
    (∀ x y : BitVec 3, ∀ e ∈ ([(0, c.rp x && c.rp y), (1, c.rp x || c.rp y), (2, c.rp x != c.rp y), (3, c.rp x && !c.rp y)] :
        List (BitVec 3 × Bool)),
      sets (.plog l g pd (x.zeroExtend 5) (y.zeroExtend 5) e.1 0 0) e.2) ∧
    sets (.ttest l g pd ra rb 0 0 0) (decide (b.toNat ≤ (c.t[ra.toFin]).toNat)) ∧
    (∀ (cond : BitVec 3) (kind : BitVec 2), kind = 2 ∨ kind = 3 ∨ 5 < cond.toNat →
      Completes (.cmp l g pd ra rb cond kind 0) s (InsnFaulted l 1 s)) ∧
    (∀ (n : Fin 16) (cond : BitVec 3) (kind : BitVec 2), kind = 3 ∨ kind ≠ 2 ∧ 5 < cond.toNat →
      Completes (.stest l g pd (BitVec.ofNat 5 n.val) rb cond kind 0) s (InsnFaulted l 1 s))

/-- Branches (R128): `br` and `call` go to PC + 4 × OFF22 and `jr` to ga + 4 × sext(IMM12) for every target in 24 bits, `call` leaves
PC + 4 in g27 and `jr` in gd; PC is the address of the branch itself. A `jr` target that is no multiple of 4 is cause 0x02. -/
def Obligations.BranchResults : Prop :=
  ∀ (s : State) (l : Loc) (g : Guard), s.canIssue l = true → (s.ctx l).passes g = true →
    let c := s.ctx l
    let link : Word := c.pc.zeroExtend 64 + 4
    (∀ (off : BitVec 22) (p : BitVec 24), (c.pc.toNat : Int) + 4 * off.toInt = p.toNat →
      Completes (.br l g off) s (Turn l { c with pc := p } s) ∧
      Completes (.call l g off) s (Turn l ({ c with pc := p }.wg 27 link) s)) ∧
    (∀ (rd ra : BitVec 5) (imm : BitVec 12) (p : BitVec 24), c.rg ra + 4 * imm.signExtend 64 = p.zeroExtend 64 → p.toNat % 4 = 0 →
      Completes (.jr l g rd ra imm) s (Turn l ({ c with pc := p }.wg rd link) s)) ∧
    (∀ (rd ra : BitVec 5) (imm : BitVec 12), (c.rg ra + 4 * imm.signExtend 64).toNat % 4 ≠ 0 →
      Completes (.jr l g rd ra imm) s (InsnFaulted l 2 s))

/-- `movs`, `swr`, `trd` and `tset` (R128, R141): a summary register is read whole and written with the kind tag raw; a token counter
takes the value written, plus 1 when an increment lands in the same fast cycle. -/
def Obligations.SummaryAndTokenMoves : Prop :=
  ∀ (s : State) (l : Loc) (g : Guard) (rd ra : BitVec 5), s.canIssue l = true → (s.ctx l).passes g = true →
    let c := s.ctx l
    let does := fun (i : Instr) (d : Ctx) => Completes i s (Turn l d.next s)
    (∀ n : Fin 16, does (.movs l g rd (BitVec.ofNat 5 n.val) 0 0) (c.wg rd c.s[n]) ∧
      does (.swr l g (BitVec.ofNat 5 n.val) ra 0 0) { c with s := c.s.set n (c.rg ra), tag := c.tag.set n 3 }) ∧
    does (.trd l g rd ra 0 0) (c.wg rd c.t[ra.toFin]) ∧
    (∀ inc : Bool, does (.tset l g rd ra 0 0 inc) { c with t := c.t.set rd.toFin (c.rg ra + if inc then 1 else 0) })

/-- Scalar loads (R128, R131, R155): an aligned load below 6 MiB, outside the storage of reduction buffers (R249), gives the zero-extended
bytes; a misaligned one is cause 0x02 and one beyond cause 0x03, with nothing read; an uncorrectable word holds the context.
Model's readings and choices: log 36. -/
def Obligations.ScalarLoads : Prop :=
  ∀ (s : State) (l : Loc) (g : Guard) (sz : BitVec 2) (rd ra : BitVec 5) (imm : BitVec 12),
    s.canIssue l = true → (s.ctx l).passes g = true →
    let n := 2 ^ sz.toNat
    let off := ((s.ctx l).rg ra + imm.signExtend 64).toNat
    let a := l.tile.val * 0x800000 + off
    let i := Instr.ld l g sz rd ra imm
    (off % n = 0 → off + n ≤ 0x600000 → s.inStorage l.tile off n = false →
      (CleanT0 s a n → Completes i s (Turn l ((s.ctx l).wg rd (BitVec.ofNat 64 (leVal (s.bytes a n)))).next s)) ∧
      (s.poison.get (fun _ => false) (poisonKey (a / 8 * 8)) = true → Completes i s (fun t => ContextHeld l s t))) ∧
    (off % n ≠ 0 → Completes i s (InsnFaulted l 2 s)) ∧
    (off % n = 0 → 0x600000 < off + n → Completes i s (InsnFaulted l 3 s))

/-- Scalar stores (R128, R131, R132, R165): the low bytes of g[RD] at ga + sext(IMM12), and no other byte of memory; a store of less than
8 bytes first reads its word, which must have no error. The causes are those of the loads, with nothing written.
Model's readings and choices: log 36. -/
def Obligations.ScalarStores : Prop :=
  ∀ (s : State) (l : Loc) (g : Guard) (sz : BitVec 2) (rd ra : BitVec 5) (imm : BitVec 12),
    s.canIssue l = true → (s.ctx l).passes g = true →
    let n := 2 ^ sz.toNat
    let off := ((s.ctx l).rg ra + imm.signExtend 64).toNat
    let a := l.tile.val * 0x800000 + off
    let i := Instr.st l g sz rd ra imm
    (off % n = 0 → off + n ≤ 0x600000 → s.inStorage l.tile off n = false → (sz = 3 ∨ CleanT0 s a n) →
      Completes i s (fun t =>
        t.bytes a n = leBytes n ((s.ctx l).rg rd).toNat ∧ SameBytesBut a n s t ∧
        t.ctx l = (s.ctx l).next ∧ (∀ k, k ≠ l → t.ctx k = s.ctx k) ∧
        (∀ r, t.reg r = if r = rCntInsn l.tile then countUp (s.reg r) 1 else s.reg r) ∧
        ∃ m u p r x, t = { s with mem := m, upset := u, poison := p, regs := r, tiles := x })) ∧
    (off % n ≠ 0 → Completes i s (InsnFaulted l 2 s)) ∧
    (off % n = 0 → 0x600000 < off + n → Completes i s (InsnFaulted l 3 s))

/-- An instruction whose guard is false takes its issue slot and does nothing; an illegal one faults the context with cause 0x01, even
when its guard is false (R127, R128).
Model's readings and choices: log 19. -/
def Obligations.GuardAndLegality : Prop :=
  ∀ (s : State) (i : Instr) (l : Loc) (g : Guard) (legal : Bool), i.scalar = some (l, g, legal) → s.canIssue l = true →
    (legal = true → (s.ctx l).passes g = false → Completes i s (Turn l (s.ctx l).next s)) ∧
    (legal = false → Completes i s (InsnFaulted l 1 s))

/-- `issue`, `issuem`, `clist` and the later turns of a list (R128, R135, R137): a command with a known ENG and zero bits [9:0] enters
its engine's queue while that holds fewer than 8; the turn of `clist` issues entry 0, and the context goes on to its next instruction
once the list has ended. -/
def Obligations.IssueEntersTheQueue : Prop :=
  ∀ (s : State) (l : Loc) (g : Guard) (rd ra rb : BitVec 5) (imm : BitVec 12) (e : Fin 6) (w : BitVec 128),
    w.toNat / 2 ^ 28 % 16 = e.val → w.toNat % 1024 = 0 → (s.tile l.tile).queues[e].length < 8 →
    let c := s.ctx l
    let list := (c.rg ra).toNat
    let readable := fun (off : Nat) => off % 16 = 0 ∧ off + 16 ≤ 0x600000 ∧ s.inStorage l.tile off 16 = false ∧
      CleanT0 s (l.tile.val * 0x800000 + off) 16 ∧ leVal (s.bytes (l.tile.val * 0x800000 + off) 16) = w.toNat
    (s.canIssue l = true → c.passes g = true →
      (ra.toNat % 2 = 0 → c.rg (ra + 1) ++ c.rg ra = w →
        Completes (.issue l g rd ra rb 0) s (fun t => Entered l e w c.pc.toNat s t ∧ t.ctx l = c.next)) ∧
      (readable (c.rg ra + imm.signExtend 64).toNat →
        Completes (.issuem l g rd ra imm) s (fun t => Entered l e w c.pc.toNat s t ∧ t.ctx l = c.next)) ∧
      (readable list → 1 ≤ (c.rg rb).toNat → (c.rg rb).toNat ≤ 65536 →
        Completes (.clist l g rd ra rb 0) s (fun t => Entered l e w list s t ∧
          t.ctx l = { c.next with clist := if (c.rg rb).toNat = 1 then none else some (list + 16, (c.rg rb).toNat - 1) }))) ∧
    (∀ off n, c.clist = some (off, n) → 1 ≤ n → readable off → c.mode = .run → 6 ∉ (s.tile l.tile).engStop →
      s.clockRuns l.tile = true →
      Completes (.clistEntryIssue l) s (fun t => Entered l e w off s t ∧
        t.ctx l = { c with clist := if n = 1 then none else some (off + 16, n - 1) }))

/-- Commands that enter no queue (R136, R137, R154): a reserved ENG code is cause 0x06 and a nonzero bit in [9:0] cause 0x07; a list of
0 or more than 65,536 commands is cause 0x0B; a full queue makes the context wait with WAIT code 4, and once the queue has room
ENGINE_QUEUE_FULL_WAIT makes the issue again.
Model's readings and choices: log 35 and 36. -/
def Obligations.IssueThatDoesNotEnter : Prop :=
  ∀ (s : State) (l : Loc) (g : Guard) (rd ra rb : BitVec 5), s.canIssue l = true → (s.ctx l).passes g = true →
    let c := s.ctx l
    let w : BitVec 128 := c.rg (ra + 1) ++ c.rg ra
    let eng := w.toNat / 2 ^ 28 % 16
    let i := Instr.issue l g rd ra rb 0
    let at' := c.pc.toNat * 2 ^ 40 + eng * 2 ^ 12 + w.toNat / 2 ^ 20 % 256 * 2 ^ 4 + 1
    (ra.toNat % 2 = 0 → 6 ≤ eng → Completes i s (ContextFaulted l (BitVec.ofNat 64 (at' + 6 * 2 ^ 24)) 6 eng s)) ∧
    (ra.toNat % 2 = 0 → eng < 6 → w.toNat % 1024 ≠ 0 →
      Completes i s (ContextFaulted l (BitVec.ofNat 64 (at' + 7 * 2 ^ 24)) 7 eng s)) ∧
    ((c.rg rb = 0 ∨ 65536 < (c.rg rb).toNat) → Completes (.clist l g rd ra rb 0) s (InsnFaulted l 0xB s)) ∧
    (∀ e : Fin 6, ra.toNat % 2 = 0 → eng = e.val → w.toNat % 1024 = 0 →
      (8 ≤ (s.tile l.tile).queues[e].length →
        Completes i s (fun t => t.ctx l = { c with mode := .wait, wait := .queueFull e i } ∧ (∀ k, k ≠ l → t.ctx k = s.ctx k) ∧
          (∀ r, t.reg r = if r = rCntQfull l.tile then countUp (s.reg r) 1 else s.reg r) ∧
          (∀ f : Fin 6, (t.tile l.tile).queues[f] = (s.tile l.tile).queues[f]) ∧ RegsTilesOnly s t)) ∧
      ((s.tile l.tile).queues[e].length < 8 → ∀ u : State,
        s = u.updCtx l (fun c => { c with mode := .run, wait := .none }) → (u.ctx l).mode = .wait →
        (u.ctx l).wait = .queueFull e i →
        Completes (.engineQueueFullWait l) u (fun t => Entered l e w c.pc.toNat u t ∧ t.ctx l = c.next)))

/-- Token waits (R126, R128, R141, R148): `twait` goes on at once when tN ≥ ga, and otherwise the context waits, with the PC of its next
instruction, until TWAIT_SATISFIED finds the condition true; either way the control core's progress counter advances when the wait is
satisfied. -/
def Obligations.TokenWaits : Prop :=
  ∀ (s : State) (l : Loc) (g : Guard) (ra n : BitVec 5),
    let c := s.ctx l
    let woken := fun (c : Ctx) => { c with mode := .run, wait := .none, prog := c.prog.set 0 (c.prog[0] + 1) }
    (s.canIssue l = true → c.passes g = true →
      ((c.rg ra).toNat ≤ (c.t[n.toFin]).toNat → Completes (.twait l g ra n 0) s (Turn l (woken c.next) s)) ∧
      ((c.t[n.toFin]).toNat < (c.rg ra).toNat →
        Completes (.twait l g ra n 0) s (Turn l { c.next with mode := .wait, wait := .token n.toFin (c.rg ra) } s))) ∧
    (∀ v : Word, c.mode = .wait → c.wait = .token n.toFin v →
      (v.toNat ≤ (c.t[n.toFin]).toNat → Completes (.twaitSatisfied l) s (fun t => t = s.setCtx l (woken c))) ∧
      ((c.t[n.toFin]).toNat < v.toNat → exec (.twaitSatisfied l) s = .next s))

/-- Semaphores (R13, R126, R128, R144): `semsig` sends a signal to the semaphore that ga names, an invalid target is cause 0x0B; an arriving
signal adds, and a sum above 2^32 − 1 saturates and faults the owner with cause 0x09; signals of one tile to another arrive in the order sent; `semwait` subtracts when it finds the semaphore large
enough, at once or in SEMWAIT_SATISFIED, and waits otherwise; `semtest` subtracts and sets pd, or clears pd, and an amount of 0 is
cause 0x0C. Contexts that a hang search replays are left out (R383). -/
def Obligations.Semaphores : Prop :=
  ∀ (s : State) (l : Loc) (g : Guard) (ra rb : BitVec 5) (pd : BitVec 3) (imm : BitVec 12) (m : Fin 8),
    s.replaying l = false → imm ≠ 0 →
    let c := s.ctx l
    let v := (c.rg ra).toNat
    let test := (c.rg rb).toNat % 4096
    let sub := fun (n : Nat) => c.sem.set m (c.sem[m] - BitVec.ofNat 32 n)
    let woken := fun (c : Ctx) => { c with mode := .run, wait := .none, prog := c.prog.set 0 (c.prog[0] + 1) }
    (s.canIssue l = true → c.passes g = true →
      (∀ (x : TileId) (y : CtxId) (z : Fin 8), v = x.val + 1024 * y.val + 4096 * z.val →
        Completes (.semsig l g ra 0 imm) s (Turn l c.next { s with signals := s.signals ++ [⟨l.tile, x, y, z, imm.toNat⟩] })) ∧
      (640 ≤ v % 1024 ∨ 2 ^ 15 ≤ v → Completes (.semsig l g ra 0 imm) s (InsnFaulted l 0xB s)) ∧
      (imm.toNat ≤ c.sem[m].toNat → Completes (.semwait l g 0 (BitVec.ofNat 5 m.val) imm) s (fun t =>
        t.ctx l = { woken c.next with sem := sub imm.toNat } ∧ (∀ k, k ≠ l → t.ctx k = s.ctx k) ∧ t.signals = s.signals)) ∧
      (c.sem[m].toNat < imm.toNat → Completes (.semwait l g 0 (BitVec.ofNat 5 m.val) imm) s
        (Turn l { c.next with mode := .wait, wait := .sem m imm.toNat } s)) ∧
      (1 ≤ test → test ≤ c.sem[m].toNat → Completes (.semtest l g pd (BitVec.ofNat 5 m.val) rb 0 0 0) s (fun t =>
        t.ctx l = ({ c with sem := sub test }.wp pd true).next ∧ (∀ k, k ≠ l → t.ctx k = s.ctx k))) ∧
      (c.sem[m].toNat < test → Completes (.semtest l g pd (BitVec.ofNat 5 m.val) rb 0 0 0) s (fun t =>
        t.ctx l = (c.wp pd false).next ∧ (∀ k, k ≠ l → t.ctx k = s.ctx k))) ∧
      (test = 0 → Completes (.semtest l g pd (BitVec.ofNat 5 m.val) rb 0 0 0) s (InsnFaulted l 0xC s))) ∧
    (∀ k : Nat, c.mode = .wait → c.wait = .sem m k →
      (k ≤ c.sem[m].toNat → Completes (.semwaitSatisfied l) s (fun t =>
        t.ctx l = { woken c with sem := sub k } ∧ (∀ j, j ≠ l → t.ctx j = s.ctx j))) ∧
      (c.sem[m].toNat < k → exec (.semwaitSatisfied l) s = .next s)) ∧
    (∀ (x : TileId) (k : Nat),
      let sig : Signal := ⟨x, l.tile, l.ctx, m, k⟩
      let first := s.signals.find? (fun y => decide (y.src = x ∧ y.tile = l.tile))
      let u := { s with signals := s.signals.erase sig }
      (first ≠ some sig → exec (.semaphoreSignalArrival sig) s = .next s) ∧
      (first = some sig → c.sem[m].toNat + k < 2 ^ 32 → Completes (.semaphoreSignalArrival sig) s (fun t =>
        t = u.setCtx l { c with sem := c.sem.set m (c.sem[m] + BitVec.ofNat 32 k) })) ∧
      (first = some sig → 2 ^ 32 ≤ c.sem[m].toNat + k → Completes (.semaphoreSignalArrival sig) s
        (InsnFaulted l 9 (u.setCtx l { c with sem := c.sem.set m 0xFFFFFFFF }))))

/-- `wake.ahead` sets the requested level, `prog.mark` advances the progress counter, `halt` enters HALTED, advances the progress counter and
releases the context's version pins (R128, R146, R148, R212). -/
def Obligations.LevelMarkAndHalt : Prop :=
  ∀ (s : State) (l : Loc) (g : Guard), s.canIssue l = true → (s.ctx l).passes g = true →
    let c := s.ctx l
    let prog := c.prog.set 0 (c.prog[0] + 1)
    (∀ n : Fin 6, Completes (.wakeAhead l g 0 (BitVec.ofNat 5 n.val) 0) s (Turn l { c.next with level := BitVec.ofNat 3 n.val } s)) ∧
    Completes (.progMark l g 0 0 0) s (Turn l { c.next with prog := prog } s) ∧
    Completes (.halt l g 0 0 0) s
      (Turn l { c.next with prog := prog, mode := .halted }
        { s with vpins := s.vpins.filter (fun p => decide (¬ (p.1 = l.tile.val ∧ p.2.1 = l.ctx.val))) })

/-- `step.commit` (R126, R148 to R150, R214, R411): each sub-operation where the context's step state allows it, and cause 0x0A where it does
not or the context is outside its tile's step set. `arrive` and `done` move the step state on, `wait` sets pd by the tile's decision or
waits, `done` writes the save record with the PC of the next instruction, and `rewind` restores registers, tags, predicates and the PC
from it. A context that the next step's phase leaves out waits at its decision after `done`; with the route book full `arrive` is held.
Contexts that a hang search replays are left out (R383). Model's reading of the held instruction: log 74. -/
def Obligations.StepCommitOfAContext : Prop :=
  ∀ (s : State) (l : Loc) (g : Guard) (pd : BitVec 3), s.canIssue l = true → (s.ctx l).passes g = true → s.replaying l = false →
    let c := s.ctx l
    let x := s.tile l.tile
    let inSet := l.ctx.val ∈ s.stepSet l.tile
    let prog := c.prog.set 0 (c.prog[0] + 1)
    let a := l.tile.val * 0x800000 + 1024 * ((s.reg (rCsave l.tile l.ctx)).toNat % 8192)
    let others := fun (t : State) => ∀ k, k ≠ l → t.ctx k = s.ctx k
    (inSet → c.step = .start → s.book.full = true → Completes (.stepCommitArrive l g) s (fun t =>
      t = { s with book := { s.book with held := t.book.held } } ∧ (l.tile.val, l.ctx.val) ∈ t.book.held)) ∧
    (inSet → c.step = .start → s.book.full = false → Completes (.stepCommitArrive l g) s (fun t => others t ∧ SameBytes s t ∧
      t.ctx l = { c.next with step := .arrived, prog := prog, arrSerial := x.serial } ∧
      ∃ v ∈ t.step.arrivals, v.loc = l ∧ v.g = c.g ∧ v.s = c.s ∧ v.tag = c.tag ∧ v.t = c.t ∧ v.p = c.p ∧ v.pc = c.next.pc)) ∧
    (inSet → c.step = .arrived → c.epoch ≤ x.bounds →
      (x.decision = some .commit ∨ x.decision = some .skip → Completes (.stepCommitWait l g pd) s
        (Turn l { (c.wp pd true).next with step := .decidedCommit, prog := prog, mode := .run, wait := .none } s)) ∧
      (x.decision = some .discard → Completes (.stepCommitWait l g pd) s
        (Turn l { (c.wp pd false).next with step := .decidedDiscard, prog := prog, mode := .run, wait := .none } s)) ∧
      (x.decision = none → Completes (.stepCommitWait l g pd) s (Turn l { c.next with mode := .wait, wait := .decision pd } s))) ∧
    (inSet → c.step = .decidedCommit → Completes (.stepCommitDone l g) s (fun t =>
        others t ∧ SameBytesBut a 1024 s t ∧ t.bytes a 1024 = (c.saved l c.next.pc).bytes ∧ (t.ctx l).pc = c.next.pc ∧
        (t.ctx l).prog = prog ∧ (t.ctx l).epoch = c.epoch + 1 ∧
        (if s.offPhase l ((s.pairAt (some l.tile)).1 + 1) then (t.ctx l).step = .arrived ∧ (t.ctx l).mode = .wait ∧ (t.ctx l).wait = .decision 0
          else (t.ctx l).step = .start ∧ (t.ctx l).mode = .run) ∧
        (t.ctx l).g = c.g ∧ (t.ctx l).p = c.p ∧ (t.ctx l).s = c.s ∧ (t.ctx l).t = c.t ∧ (t.ctx l).sem = c.sem)) ∧
    (∀ v : SavedCtx, inSet → c.step = .decidedDiscard → CleanT0 s a 1024 → s.bytes a 1024 = v.bytes → v.loc = l →
      Completes (.stepCommitRewind l g) s (fun t => others t ∧ SameBytes s t ∧ (t.ctx l).g = v.g ∧ (t.ctx l).s = v.s ∧
        (t.ctx l).tag = v.tag ∧ (t.ctx l).t = v.t ∧ (t.ctx l).p = v.p ∧ (t.ctx l).pc = v.pc ∧ (t.ctx l).sem = c.sem ∧
        (if s.offPhase l (s.pairAt (some l.tile)).1 then (t.ctx l).step = .arrived ∧ (t.ctx l).mode = .wait
          else (t.ctx l).step = .start ∧ (t.ctx l).mode = .run))) ∧
    (¬ (inSet ∧ c.step = .start) → Completes (.stepCommitArrive l g) s (InsnFaulted l 0xA s)) ∧
    (¬ (inSet ∧ c.step = .arrived) → Completes (.stepCommitWait l g pd) s (InsnFaulted l 0xA s)) ∧
    (¬ (inSet ∧ c.step = .decidedCommit) → Completes (.stepCommitDone l g) s (InsnFaulted l 0xA s)) ∧
    (¬ (inSet ∧ c.step = .decidedDiscard) → Completes (.stepCommitRewind l g) s (InsnFaulted l 0xA s))

/-- `rdr` and `wrr` (R5, R133): an index that names no register is cause 0x04. A register without RC bits reads as it stands and stays;
an RC counter reads and then holds what the cycle added. A write changes the RW bits and no others, clears the W1C bits that it
has as 1, leaves a register without either as it is, and is discarded whole with ACCESS 0x01 when it gives a reserved code. -/
def Obligations.CoreRegisterAccess : Prop :=
  ∀ (s : State) (l : Loc) (g : Guard) (rd : BitVec 5) (imm : BitVec 12) (incs : Nat),
    s.canIssue l = true → (s.ctx l).passes g = true →
    let c := s.ctx l
    let blk := imm.toNat / 256
    let off := 8 * (imm.toNat % 256)
    let a := tileReg l.tile blk off
    let info := if blk < 7 then tileRegInfo blk off else none
    let v := c.rg rd
    (info = none → Completes (.rdr l g rd 0 imm incs) s (InsnFaulted l 4 s) ∧ Completes (.wrr l g rd 0 imm) s (InsnFaulted l 4 s)) ∧
    (∀ i, info = some i →
      (i.rc = 0 → Completes (.rdr l g rd 0 imm incs) s (Turn l (c.wg rd ((s.issued l).view a)).next s)) ∧
      (i.rc ≠ 0 → Completes (.rdr l g rd 0 imm incs) s (fun t =>
        t.ctx l = (c.wg rd ((s.issued l).reg a)).next ∧ (∀ k, k ≠ l → t.ctx k = s.ctx k) ∧ t.reg a = countUp 0 incs ∧
        SameRegsBut [a, rCntInsn l.tile] s t ∧ RegsTilesOnly s t)) ∧
      (i.rw = 0 → i.w1c = 0 → i.wo = 0 → Completes (.wrr l g rd 0 imm) s (Turn l c.next s)) ∧
      (i.w1c ≠ 0 → Completes (.wrr l g rd 0 imm) s (fun t =>
        t.ctx l = c.next ∧ (∀ k, k ≠ l → t.ctx k = s.ctx k) ∧ t.reg a = s.reg a &&& ~~~(v &&& BitVec.ofNat 64 i.w1c) ∧
        SameRegsBut [a, rCntInsn l.tile] s t ∧ RegsTilesOnly s t)) ∧
      (i.rw ≠ 0 → ∀ new : Word, (∀ j < 64, new.getLsbD j = if i.rw.testBit j then v.getLsbD j else (s.reg a).getLsbD j) →
        (s.tileReserved l.tile blk off (2 ^ 64 - 1) new.toNat = false → Completes (.wrr l g rd 0 imm) s (fun t =>
          t.ctx l = c.next ∧ (∀ k, k ≠ l → t.ctx k = s.ctx k) ∧ t.reg a = new ∧
          SameRegsBut [a, rCntInsn l.tile] s t ∧ RegsTilesOnly s t)) ∧
        (s.tileReserved l.tile blk off (2 ^ 64 - 1) new.toNat = true → LogRoom s → Completes (.wrr l g rd 0 imm) s (fun t =>
          t.reg a = s.reg a ∧ Logged ⟨0, 1, 1, 0, 0, 0, 0, 0, 0, 0, 0xFFFF, 0, 0xF, a, 0, 0⟩ s t))))

/-! ### The issue of instructions (R20, R127, R128) -/

/-- The formats of R127 and the opcodes of R128: the word with an instruction's fields in their places decodes to that instruction, and
a word with an opcode that the table does not list to none. -/
def Obligations.InstructionFormats : Prop :=
  ∀ (l : Loc) (gn : BitVec 1) (gp : BitVec 3) (rd ra rb : BitVec 5) (fn : BitVec 7) (imm : BitVec 12) (z : BitVec 1) (imm16 : BitVec 16)
    (off : BitVec 22) (pd cond : BitVec 3) (kind : BitVec 2) (low : BitVec 4),
    let g : Guard := ⟨gp, gn.getLsbD 0⟩
    let r := fun (op : BitVec 6) => decodeInsn l (op ++ gn ++ gp ++ rd ++ ra ++ rb ++ fn)
    let m := fun (op : BitVec 6) => decodeInsn l (op ++ gn ++ gp ++ rd ++ ra ++ imm)
    let w := fun (op : BitVec 6) => decodeInsn l (op ++ gn ++ gp ++ rd ++ z ++ imm16)
    let b := fun (op : BitVec 6) => decodeInsn l (op ++ gn ++ gp ++ off)
    let p := fun (op : BitVec 6) => decodeInsn l (op ++ gn ++ gp ++ pd ++ ra ++ rb ++ cond ++ kind ++ low)
    let c := fun (sub : BitVec 2) => decodeInsn l (0x32#6 ++ gn ++ gp ++ 0#5 ++ sub ++ pd ++ 0#12)
    (r 0x00 = some (.aluGroup l g rd ra rb fn) ∧ r 0x20 = some (.movs l g rd ra rb fn) ∧ r 0x21 = some (.swr l g rd ra rb fn) ∧
      r 0x22 = some (.trd l g rd ra rb fn) ∧ r 0x23 = some (.tset l g rd ra rb fn false) ∧ r 0x28 = some (.issue l g rd ra rb fn) ∧
      r 0x2A = some (.clist l g rd ra rb fn)) ∧
    (m 0x01 = some (.addi l g rd ra imm) ∧ m 0x02 = some (.andi l g rd ra imm) ∧ m 0x03 = some (.ori l g rd ra imm) ∧
      m 0x04 = some (.xori l g rd ra imm) ∧ m 0x05 = some (.shi l g rd ra imm) ∧ m 0x1E = some (.jr l g rd ra imm) ∧
      m 0x24 = some (.rdr l g rd ra imm 0) ∧ m 0x25 = some (.wrr l g rd ra imm) ∧ m 0x29 = some (.issuem l g rd ra imm)) ∧
    (∀ sz : BitVec 2, m (4#4 ++ sz) = some (.ld l g sz rd ra imm) ∧ m (5#4 ++ sz) = some (.st l g sz rd ra imm) ∧
      w (2#4 ++ sz) = some (.movw l g sz rd (z.getLsbD 0) imm16)) ∧
    (b 0x1C = some (.br l g off) ∧ b 0x1D = some (.call l g off)) ∧
    (p 0x18 = some (.cmp l g pd ra rb cond kind low) ∧ p 0x1A = some (.stest l g pd ra rb cond kind low) ∧
      p 0x1B = some (.plog l g pd ra rb cond kind low) ∧ p 0x2C = some (.ttest l g pd ra rb cond kind low) ∧
      p 0x2F = some (.semtest l g pd ra rb cond kind low)) ∧
    (m 0x2B = some (.twait l g rd ra imm) ∧ m 0x2D = some (.semsig l g rd ra imm) ∧ m 0x2E = some (.semwait l g rd ra imm) ∧
      m 0x30 = some (.wakeAhead l g rd ra imm) ∧ m 0x31 = some (.progMark l g rd ra imm) ∧ m 0x33 = some (.halt l g rd ra imm)) ∧
    (c 0 = some (.stepCommitArrive l g) ∧ c 1 = some (.stepCommitWait l g pd) ∧ c 2 = some (.stepCommitDone l g) ∧
      c 3 = some (.stepCommitRewind l g)) ∧
    (∀ op ∈ ([0x06, 0x07, 0x0C, 0x0D, 0x0E, 0x0F, 0x19, 0x1F, 0x26, 0x27, 0x34, 0x35, 0x36, 0x37, 0x38, 0x39, 0x3A, 0x3B, 0x3C, 0x3D,
      0x3E, 0x3F] : List (BitVec 6)), r op = none)

/-- An issue turn goes to the next ready context in round-robin order, and with none ready nothing happens (R20). It runs the next entry of
the context's list, or the instruction that its PC names: an unlisted opcode is cause 0x01, a fetch beyond tile SRAM cause 0x03,
and an uncorrectable word holds the context (R128, R131, R137, R155).
Model's readings and choices: log 18 and 90. -/
def Obligations.InstructionIssue : Prop :=
  ∀ (s : State) (t : TileId),
    let ready := fun (k : CtxId) => (s.ctx ⟨t, k⟩).mode = .run ∧ 6 ∉ (s.tile t).engStop ∧ s.clockRuns t = true
    let place := fun (k : CtxId) => k - (s.tile t).rr - 1
    ((∀ k, ¬ ready k) → exec (.instructionIssue t) s = .next s) ∧
    (∀ k : CtxId, ready k → (∀ j, place j < place k → ¬ ready j) →
      let l : Loc := ⟨t, k⟩
      let c := s.ctx l
      let a := t.val * 0x800000 + c.pc.toNat
      let word : BitVec 32 := BitVec.ofNat 32 (leVal (s.bytes a 4))
      (c.clist.isSome = true → exec (.instructionIssue t) s = exec (.clistEntryIssue l) s) ∧
      (c.clist = none →
        (c.pc.toNat + 4 ≤ 0x600000 → s.inStorage t c.pc.toNat 4 = false →
          (CleanT0 s a 4 →
            (∀ i, decodeInsn l word = some i → exec (.instructionIssue t) s = exec i s) ∧
            (∀ (g : Guard) (rd ra : BitVec 5) (imm : BitVec 12), decodeInsn l word = some (.addi l g rd ra imm) → c.passes g = true →
              Completes (.instructionIssue t) s (Turn l (c.wg rd (c.rg ra + imm.signExtend 64)).next s)) ∧
            (decodeInsn l word = none → Completes (.instructionIssue t) s (InsnFaulted l 1 s))) ∧
          (s.poison.get (fun _ => false) (poisonKey (a / 8 * 8)) = true →
            Completes (.instructionIssue t) s (fun u => ContextHeld l s u))) ∧
        (0x600000 < c.pc.toNat + 4 → Completes (.instructionIssue t) s (InsnFaulted l 3 s))))

/-! ### Engine commands (R138 to R143) -/

/-- The gates at the head of an engine's queue (R138, R142, R143). A commit-gated command waits until its tile has the decision of its step,
and under a discard leaves the queue without any work, its token incremented; a fenced command waits for every earlier command of
its context. -/
def Obligations.GatesOfAnEngine : Prop :=
  ∀ (s : State) (i : Instr) (t : TileId) (e : Fin 6) (op : Nat) (k : EngCmd) (rest : List EngCmd),
    engineRow i = some (t, e, op) → (s.tile t).queues[e] = k :: rest → cmdOp k.word = op →
    s.enginesRun = true → s.step.stopped = false → e.val ∉ (s.tile t).engStop → (s.tile t).search = none →
    let c := s.ctx ⟨t, k.ctx⟩
    let tok := cmdTok k.word
    (k.word.getLsbD 10 = true → k.epoch ≤ (s.tile t).bounds →
      ((s.tile t).decision = none → exec i s = .next s) ∧
      ((s.tile t).decision = some .discard → Completes i s (fun u =>
        (u.tile t).queues[e] = rest ∧ (∀ f : Fin 6, f ≠ e → (u.tile t).queues[f] = (s.tile t).queues[f]) ∧
        (∀ f : Fin 6, (u.tile t).active[f] = (s.tile t).active[f]) ∧
        u.ctx ⟨t, k.ctx⟩ = (if k.word.getLsbD 12 then c else { c with t := c.t.set tok (c.t[tok] + 1) }) ∧
        (∀ j, j ≠ ⟨t, k.ctx⟩ → u.ctx j = s.ctx j) ∧ ∃ x, u = { s with tiles := x }))) ∧
    (k.word.getLsbD 10 = false → k.word.getLsbD 11 = true →
      (∃ f : Fin 6, (∃ q ∈ (s.tile t).queues[f], q.ctx = k.ctx ∧ q.serial < k.serial) ∨
        (∃ a ∈ (s.tile t).active[f], a.cmd.ctx = k.ctx ∧ a.cmd.serial < k.serial)) →
      exec i s = .next s)

/-- The vector engine (R103 to R107, R110, R113, R115, R116, R122): a command that the rejection table lets pass is accepted, its results and
scale codes replace the destination and no other byte, its flags are raised, TILE VE_CNT_ELEM counts its elements, and the summaries of
a configured reduction wait for its completion; one that the table rejects faults its context with cause 0x05 and the table's row. -/
def Obligations.VectorCommands : Prop :=
  ∀ (s : State) (t : TileId) (k : EngCmd) (rest : List EngCmd), CleanTile s t → (s.tile t).active[1] = [] →
    let rows : List (Instr × Nat × (Rnd → Nat → Val → Val → Val → Exact × AFlags)) :=
      [(.add t, 1, fun m _ a b _ => ieeeAdd m a b), (.sub t, 2, fun m _ a b _ => ieeeAdd m a b.negate), (.mul t, 3, fun _ _ a b _ => ieeeMul a b),
       (.fma t, 4, fun m _ a b c => ieeeFma m a b c), (.div t, 5, fun _ _ a b _ => ieeeDiv a b), (.sqrt t, 6, fun _ _ a _ _ => ieeeSqrt a),
       (.min t, 7, fun _ _ a b _ => minMax false a b), (.max t, 8, fun _ _ a b _ => minMax true a b),
       (.abs t, 9, fun _ _ a _ _ => (.val (match a with | .nan _ => .nan false | x => x.abs), .none)),
       (.neg t, 10, fun _ _ a _ _ => (.val (match a with | .nan _ => .nan false | x => x.negate), .none)),
       (.vectorCmp t, 11, fun _ n a b _ => (.val (if condVal n a b then .fin false 1 0 else .zero), if condInv n a b then .invalid else .none)),
       (.sel t, 12, fun _ _ a b c => (.val (if !c.isZero && !c.isNan then a else b), .none)), (.cvt t, 13, fun _ _ a _ _ => (.val a, .none)),
       (.exp t, 16, fun _ _ a _ _ => (.val (texp a).1, (texp a).2)), (.log t, 17, fun _ _ a _ _ => (.val (tlog a).1, (tlog a).2)),
       (.tanh t, 18, fun _ _ a _ _ => (.val (ttanh a).1, (ttanh a).2)), (.rsqrt t, 19, fun _ _ a _ _ => (.val (trsqrt a).1, (trsqrt a).2))]
    ∀ x ∈ rows, Ready t 1 x.2.1 k rest s →
      let v := VecCmd.ofWord k.word
      let l : Loc := ⟨t, k.ctx⟩
      let arg := fun (f i : Nat) => (vecOperand s t k v f).getD i Val.zero
      let g30 := (k.ops[2]).toNat
      let o := v.deliverAll (s.keys t (g30 % 2 ^ 32) (g30 / 2 ^ 32))
        ((List.range v.n).map (fun i => x.2.2 v.mode v.rnd (arg v.a i) (if 2 ≤ vecSources v.op then arg v.b i else Val.zero)
          (if vecSources v.op = 3 then arg v.c i else Val.zero)))
      let dst := packElems (elemFmt v.fd).width o.es
      let out := fun (b : Nat) => t.val * 0x800000 + 64 * b
      let flags := (o.fl.foldl AFlags.or .none).bits
      let moved := progressed 1 (s.ctx l)
      (s.vecReject t k v = none → Completes x.1 s (fun u =>
        (∃ c, Accepted t 1 k rest true c s u ∧ match k.ruCfg v with
          | none => c = moved
          | some cfg =>
            let r := (o.vs.foldl (fun st y => (st.advance cfg y).1) (if cfg.acc then moved.ru else RunState.fresh))
            c = { moved with ru := r } ∧ ∃ a ∈ (u.tile t).active[1], a.cmd = k ∧ a.sbase = cfg.base ∧ a.sums = r.summaries cfg) ∧
        (v.dst ≠ noDst → o.sc = [] ∨ out v.c + o.sc.length ≤ out v.dst ∨ out v.dst + dst.length ≤ out v.c →
          u.bytes (out v.dst) dst.length = dst) ∧
        (v.dst ≠ noDst → u.bytes (out v.c) o.sc.length = o.sc.map (BitVec.ofNat 8)) ∧
        SameBytesOutside (v.outs.map (fun r => (t.val * 0x800000 + r.1, r.2.1))) s u ∧
        u.reg (rAflag t k.ctx) = s.reg (rAflag t k.ctx) ||| BitVec.ofNat 64 flags ∧
        u.reg (tileReg t 2 0x040) = countUp (s.reg (tileReg t 2 0x040)) v.n)) ∧
      (∀ c d, s.vecReject t k v = some (c, d) → Completes x.1 s (Rejected t 1 k c d s))

/-- The row engine (R117 to R122): a command that the rejection table lets pass writes its row and no other byte; a forward operation leaves
its statistics in the slot and sets the slot's flag, a backward one reads them, and SLOT_CLR clears its slot's flag alone. -/
def Obligations.RowCommands : Prop :=
  ∀ (s : State) (t : TileId) (i : Instr) (op : Nat) (k : EngCmd) (rest : List EngCmd), engineRow i = some (t, 2, op) →
    Ready t 2 op k rest s → CleanTile s t → (s.tile t).active[2] = [] →
    let r := RowCmd.ofWord k.word
    let l : Loc := ⟨t, k.ctx⟩
    let row := fun (b : Nat) => (operandElems r.fx r.n (s.bytes (t.val * 0x800000 + 64 * b) (elemBytes r.fx r.n)) []).map (·.1)
    let y := r.compute (row r.x) (if r.back then row r.g else []) (v32 ((k.ops[3]).toNat % 2 ^ 32)) ((s.tile t).side.get (fun _ => (0, 0)) r.slot)
    let es := y.1.1.map (fun v => (deliver (.val v, .none) (elemFmt r.fo) ((Rnd.ofCode r.rnd).getD .rne) 0 false).1)
    let dst := packElems (elemFmt r.fo).width es
    let at' := t.val * 0x800000 + 64 * r.o
    (s.rowReject t k r = none → Completes i s (fun u =>
      Accepted t 2 k rest true (progressed 2 (s.ctx l)) s u ∧
      (op ≠ 5 → u.bytes at' dst.length = dst ∧ SameBytesOutside [(at', elemBytes r.fo r.n)] s u) ∧
      (op = 1 ∨ op = 3 → (∃ v, y.2 = some v ∧ (u.tile t).side.get (fun _ => (0, 0)) r.slot = v) ∧ r.slot ∈ (u.tile t).sideValid) ∧
      (op = 2 ∨ op = 4 → (u.tile t).side = (s.tile t).side ∧ (u.tile t).sideValid = (s.tile t).sideValid) ∧
      (op = 5 → SameBytes s u ∧ (u.tile t).side = (s.tile t).side ∧
        ∀ n, n ∈ (u.tile t).sideValid ↔ n ∈ (s.tile t).sideValid ∧ n ≠ r.slot))) ∧
    (∀ c d, s.rowReject t k r = some (c, d) → Completes i s (Rejected t 2 k c d s))

/-- Matrix products (R64, R80 to R85, R100): one that the table of R84 rejects faults its context with cause 0x05 and the row; any other on
memory without errors is accepted and done, with no byte changed outside its output, its scales, its accumulator entries and its
work region. A dense product of an element format writes, for each row of A and each row of B, the step rule's sum of their
products converted to the output format. Drains into reduction buffers are left out here.
Model's readings and choices: log 41. -/
def Obligations.Products : Prop :=
  ∀ (s : State) (t : TileId) (k : EngCmd) (rest : List EngCmd) (feed bp thr : Nat), Ready t 0 1 k rest s → CleanTile s t →
    (s.tile t).active[0].length < 2 →
    let off := 64 * cmdFld k.word 63 47
    let movr := cmdFld k.word 46 38
    let base := t.val * 0x800000
    let d := QuadDesc.ofWords ((chunks 8 8 (s.bytes (base + off) 64)).map leVal) movr
    let entries := fun (r : Nat × Nat) => (base + 0x600000 + 8 * r.1, 8 * r.2)
    s.sramOk t off 64 = true →
    (∀ c row, s.quadReject t (cmdCmt k.word) movr off d = some (c, row) → Completes (.product t feed bp thr) s (Rejected t 0 k c row s)) ∧
    (s.quadReject t (cmdCmt k.word) movr off d = none → (d.dst = false → d.fo = 9 → s.windowOf t d.outSpan.1 d.outSpan.2 = none) →
      Completes (.product t feed bp thr) s (fun u =>
        Accepted t 0 k rest true (progressed 0 (s.ctx ⟨t, k.ctx⟩)) s u ∧
        SameBytesOutside (d.writes.map (fun r => (base + r.1, r.2)) ++ (if d.dst then [entries d.outSpan] else []) ++
          (if d.usesWork then [entries (d.work, d.workLen)] else [])) s u ∧
        (d.mode = 0 → d.maskm = 0 → d.accSrc = 0 → d.dst = false → d.fo ≠ 9 → isBlock d.fo = false → (elemFmt d.fo).width ≠ 4 → d.rnd < 5 →
          (d.m = 1 ∨ elemBytes d.fo d.n ≤ 64 * d.c.getD 1 0) →
          let f := elemFmt d.fo
          let n := f.width / 8
          let elems := fun (o : List Nat) (code r : Nat) =>
            operandElems code d.k (s.bytes (base + 64 * (o.getD 0 0 + r * o.getD 1 0)) (elemBytes code d.k))
              (s.bytes (base + 64 * (o.getD 2 0 + r * o.getD 3 0)) (ceilDiv d.k 32))
          ∀ r < d.m, ∀ c < d.n,
            u.bytes (base + 64 * (d.c.getD 0 0 + r * d.c.getD 1 0) + n * c) n =
              leBytes n (encodeVal f (convertVal (dotProduct d.g none (elems d.a d.fa r) (elems d.b d.fb c)).1 f d.mode' 0 d.ovf).1))))

/-- The DMA engine between tile memory and T1 (R176 to R181): a rejected command faults its context; any other on memory without errors
is accepted and done and changes no byte outside its destination range. COPY moves every byte of every row, TRANSPOSE puts element c
of source row r into place r of destination row c, and FILL repeats its pattern from the start of each row. -/
def Obligations.DmaCommands : Prop :=
  ∀ (s : State) (i : Instr) (t : TileId) (op : Nat) (k : EngCmd) (rest : List EngCmd), engineRow i = some (t, 3, op) →
    Ready t 3 op k rest s → CleanTile s t → (s.tile t).active[3] = [] →
    let off := 64 * cmdFld k.word 127 111
    let d := DmaDesc.ofWords ((chunks 8 8 (s.bytes (t.val * 0x800000 + off) 64)).map leVal)
    let a := unalias t d.src
    let b := unalias t d.dst
    let span := d.writeSpan op
    s.sramOk t off 64 = true → cmdFld k.word 110 32 = 0 →
    (∀ c row, s.dmaReject t k d = some (c, row) → Completes i s (Rejected t 3 k c row s)) ∧
    (s.dmaReject t k d = none → s.mgmt.base = false → s.replaying ⟨t, k.ctx⟩ = false → d.outside t op = false →
      CleanAt s b span → (op ≠ 3 → CleanAt s a d.readSpan) →
      Completes i s (fun u =>
        Accepted t 3 k rest true (progressed 3 (s.ctx ⟨t, k.ctx⟩)) s u ∧ SameBytesOutside [(b, span)] s u ∧
        (touchesAcc b span = false → (d.dstRows op = 1 ∨ d.dstLen op ≤ d.drs) →
          (d.planes = 1 ∨ (d.dstRows op - 1) * d.drs + d.dstLen op ≤ d.dps) →
          (op = 1 → ∀ p < d.planes, ∀ r < d.rows, ∀ j < d.len,
            u.byte (b + p * d.dps + r * d.drs + j) = s.byte (a + p * d.sps + r * d.srs + j)) ∧
          (op = 3 → ∀ p < d.planes, ∀ r < d.rows, ∀ j < d.len,
            u.byte (b + p * d.dps + r * d.drs + j) = BitVec.ofNat 8 (d.pat / 2 ^ (8 * (j % 8)))) ∧
          (op = 2 → d.esz < 4 → ∀ p < d.planes, ∀ r < d.rows, ∀ c < d.elems, ∀ j < 2 ^ d.esz,
            u.byte (b + p * d.dps + c * d.drs + r * 2 ^ d.esz + j) = s.byte (a + p * d.sps + r * d.srs + c * 2 ^ d.esz + j)))))

/-- Rows in T2 (R179, R181, R318, R324, R373): a COPY of one row from T2 is accepted with one host-link request of at most 512 bytes and
moves nothing yet; one into T2 outside the UIO ranges is a posted write and moves at once. A completion with status 0 asks for the rest
of its row, or moves the row and ends the command's wait; another status, and a timeout with STATUS 0, stop it with a HOST 0x01 entry.
While the host link is no use a completion waits.
Model's readings and choices: log 40, 121 and 144. -/
def Obligations.RowsInT2 : Prop :=
  ∀ (s : State) (t : TileId),
    (∀ (k : EngCmd) (rest : List EngCmd), Ready t 3 1 k rest s → CleanTile s t → (s.tile t).active[3] = [] →
      let off := 64 * cmdFld k.word 127 111
      let d := DmaDesc.ofWords ((chunks 8 8 (s.bytes (t.val * 0x800000 + off) 64)).map leVal)
      let a := unalias t d.src
      let b := unalias t d.dst
      s.sramOk t off 64 = true → cmdFld k.word 110 32 = 0 → s.dmaReject t k d = none → s.mgmt.base = false →
      s.replaying ⟨t, k.ctx⟩ = false → d.rows = 1 → d.planes = 1 →
      (tierOf a = .t2 → Completes (.copy t) s (fun u => Accepted t 3 k rest true (progressed 3 (s.ctx ⟨t, k.ctx⟩)) s u ∧ SameBytes s u ∧
        (∃ y, (u.tile t).active[3] = [y] ∧ y.waits = [s.host.nextTag]) ∧
        u.host.waiting = s.host.waiting ++
          [(⟨s.host.nextTag, some t, k.serial, 0, 0, a, min 512 d.len, d.len - min 512 d.len, false, false⟩ : Request)])) ∧
      (tierOf b = .t2 → tierOf a = .t0 ∨ tierOf a = .t1 → s.uio b = false → s.hostUp = true → CleanAt s a d.len →
        Completes (.copy t) s (fun u => Accepted t 3 k rest true (progressed 3 (s.ctx ⟨t, k.ctx⟩)) s u ∧ SameBytesBut b d.len s u ∧
          u.bytes b d.len = s.bytes a d.len ∧ u.host.waiting = s.host.waiting ∧ ∃ y, (u.tile t).active[3] = [y] ∧ y.waits = []))) ∧
    (∀ (tag : Nat) (r : Request) (x : Active), s.hostReq tag = some r →
      s.emb.moves.find? (fun m => decide (m.tag = tag)) = none → s.dmaOf r = some (t, x) →
      let d := DmaDesc.ofWords x.desc
      let b := unalias t d.dst + r.plane * d.dps + r.row * d.drs
      let src := unalias t d.src + r.plane * d.sps + r.row * d.srs
      let failed := fun (status : Nat) (u : State) =>
        u.host.waiting = s.host.waiting.filter (fun q => decide (q.tag ≠ tag)) ∧
        (∃ y ∈ (u.tile t).active[3], y.cmd = x.cmd ∧ y.stopped = true ∧ y.waits = []) ∧
        (LogRoom s → Logged ⟨0, 6, 1, 0, 0, 0, 0, 0, 0, 0, t, x.cmd.ctx, 3, r.addr, status, 0⟩ s u)
      (∀ status, s.hostUp = false → exec (.t2Completion tag status) s = .next s) ∧
      (∀ status, s.hostUp = true → status ≠ 0 → Completes (.t2Completion tag status) s (failed status)) ∧
      Completes (.t2CompletionTimeout tag) s (failed 0) ∧
      (s.hostUp = true → s.writesStop = false → cmdOp x.cmd.word = 1 → x.stopped = false → r.write = false → tierOf src = .t2 →
        (0 < r.left → tierOf (r.addr + r.len) = .t2 → Completes (.t2Completion tag 0) s (fun u =>
          SameBytes s u ∧ u.host.waiting = s.host.waiting.filter (fun q => decide (q.tag ≠ tag)) ++
            [{ r with tag := s.host.nextTag, addr := r.addr + r.len, len := min 512 r.left, left := r.left - min 512 r.left, held := false }] ∧
          ∃ y ∈ (u.tile t).active[3], y.cmd = x.cmd ∧ y.waits = x.waits.filter (fun w => decide (w ≠ r.tag)) ++ [s.host.nextTag])) ∧
        (r.left = 0 → tierOf b = .t0 ∨ tierOf b = .t1 → touchesAcc b d.len = false → CleanAt s b d.len → s.inputRange src d.len = false →
          Completes (.t2Completion tag 0) s (fun u =>
            u.bytes b d.len = s.bytes src d.len ∧ SameBytesBut b d.len s u ∧
            u.host.waiting = s.host.waiting.filter (fun q => decide (q.tag ≠ tag)) ∧
            ∃ y ∈ (u.tile t).active[3], y.cmd = x.cmd ∧ y.stopped = false ∧ y.waits = x.waits.filter (fun w => decide (w ≠ tag))))))

/-- NVMe commands (R181, R239, R241, R318, R339, R373). A COPY of one row from T3 is accepted with one I/O command of at most 128 KiB: where
the controller's submission queue has room its entry and the doorbell are written, else it is held. An error status, and no
completion within two seconds, each end the command, stop the DMA command that waits for it and record HOST 0x02. The entry that a completion
writes is taken from the completion queue by its phase tag: TAIL and HEAD step, the submission entry is free, and one that reports success
moves the row; the entry of a command that timed out frees its submission entry alone. While the host link is no use a completion waits. No
other I/O command that waits for room, rings that can be read, and no memory errors.
Model's readings and choices: log 20, 122, 144 and 159. -/
def Obligations.NvmeCommands : Prop :=
  ∀ (s : State) (t : TileId),
    (∀ (k : EngCmd) (rest : List EngCmd), Ready t 3 1 k rest s → NoUpsets s → (s.tile t).active[3] = [] → s.job.sizes.2.1 ≤ 4 →
      let off := 64 * cmdFld k.word 127 111
      let d := DmaDesc.ofWords ((chunks 8 8 (s.bytes (t.val * 0x800000 + off) 64)).map leVal)
      let a := unalias t d.src
      let ns := (s.reg (rNvns (t3Handle a))).toNat
      let cfg := (s.reg (rNvctl (fld ns 31 27))).toNat
      let block := if ns.testBit 26 then 4096 else 512
      let len := min 131072 d.len
      s.sramOk t off 64 = true → cmdFld k.word 110 32 = 0 → s.dmaReject t k d = none → s.mgmt.base = false →
      s.replaying ⟨t, k.ctx⟩ = false → d.rows = 1 → d.planes = 1 → tierOf a = .t3 →
      Completes (.copy t) s (fun u => Accepted t 3 k rest true (progressed 3 (s.ctx ⟨t, k.ctx⟩)) s u ∧
        (∃ y, (u.tile t).active[3] = [y] ∧ y.waits = [s.host.nextTag]) ∧
        u.qm.nvme = s.qm.nvme ++
          [(⟨s.host.nextTag, some t, k.serial, 0, 0, a, len, d.len - len, false, (s.nvmeOpen a).isNone⟩ : Request)] ∧
        (s.nvmeOpen a = none → SameBytes s u ∧ u.out = s.out) ∧
        (∀ q, s.nvmeOpen a = some q → (s.desc q).flagen = false → t2Base ≤ (s.desc q).ring →
          let at' := (s.desc q).entryAt (s.desc q).tail
          let tail := ((s.desc q).tail + 1) % 2 ^ 32
          u.peek at' 4 = 2 + s.host.nextTag % 2 ^ 16 * 2 ^ 16 ∧ u.peek (at' + 4) 4 = fld ns 63 32 ∧
          u.peek (at' + 40) 8 = a % 2 ^ 48 / block ∧ u.peek (at' + 48) 4 = len / block - 1 ∧ u.peek (s.descAt q + 16) 4 = tail ∧
          u.out = s.out ++ [Sent.busWrite (fld cfg 63 12 * 4096 + 2 * (s.desc q).nvqid * (4 * 2 ^ fld cfg 11 8))
            (leBytes 4 (tail % 2 ^ (s.desc q).log2n))]))) ∧
    (∀ (cid : Nat) (r : Request) (x : Active), s.qm.nvme.find? (fun r => decide (r.tag = cid)) = some r →
      s.emb.moves.find? (fun m => decide (m.tag = cid)) = none → s.dmaOf r = some (t, x) →
      let sq := s.nvmeSq (fld (s.reg (rNvns (t3Handle r.addr))).toNat 31 27)
      let takes := (∀ y ∈ s.qm.nvme ++ s.qm.late, y.tag % 2 ^ 16 = cid % 2 ^ 16 → y = r) ∧ s.hostUp = true ∧ s.writesStop = false ∧
        ∀ q, sq = some q → NoUpsets s ∧ s.job.sizes.2.1 ≤ 4 ∧
          let cq := s.desc (s.desc q).pair
          cq.cls = 5 ∧ cq.head = cq.tail ∧ t1Base ≤ cq.ring ∧ cq.ring + 16 * 2 ^ cq.log2n ≤ (s.dtab).1
      let failed := fun (status : Nat) (u : State) =>
        u.qm.nvme = s.qm.nvme.filter (fun q => decide (q.tag ≠ cid)) ∧
        (∃ y ∈ (u.tile t).active[3], y.cmd = x.cmd ∧ y.stopped = true ∧ y.waits = []) ∧
        Logged ⟨0, 6, 2, 0, 0, 0, 0, 0, 0, 0, t, x.cmd.ctx, 3, r.addr, status, 0⟩ s u
      (∀ ok, s.hostUp = false ∨ s.writesStop = true → exec (.nvmeCompletionEntry cid ok) s = .next s) ∧
      (r.held = true → exec (.nvmeTimeout cid) s = .next s ∧ ∀ ok, exec (.nvmeCompletionEntry cid ok) s = .next s) ∧
      ((∀ y ∈ s.qm.nvme, y.held = false) →
        (LogRoom s → Completes (.nvmeTimeout cid) s (fun u => failed 0 u ∧ u.qm.late = s.qm.late ++ [r])) ∧
        (LogRoom s → takes → Completes (.nvmeCompletionEntry cid false) s (fun u => ∃ status, status ≠ 0 ∧ failed status u)) ∧
        (let d := DmaDesc.ofWords x.desc
         let b := unalias t d.dst + r.plane * d.dps + r.row * d.drs
         let src := unalias t d.src + r.plane * d.sps + r.row * d.srs
         takes → cmdOp x.cmd.word = 1 → x.stopped = false → r.write = false → r.left = 0 →
         tierOf b = .t0 ∨ tierOf b = .t1 → b + d.len ≤ (s.dtab).1 → touchesAcc b d.len = false → NoUpsets s → s.job.sizes.2.1 ≤ 4 →
         tierOf src = .t3 → s.inputRange src d.len = false →
         Completes (.nvmeCompletionEntry cid true) s (fun u =>
           u.bytes b d.len = s.bytes src d.len ∧ u.qm.nvme = s.qm.nvme.filter (fun q => decide (q.tag ≠ cid)) ∧
           (∃ y ∈ (u.tile t).active[3], y.cmd = x.cmd ∧ y.stopped = false ∧ y.waits = x.waits.filter (fun w => decide (w ≠ cid))) ∧
           ∀ q, sq = some q →
             let cq := s.desc (s.desc q).pair
             u.peek (s.descAt q + 20) 4 = ((s.desc q).head + 1) % 2 ^ 32 ∧
             u.peek (s.descAt (s.desc q).pair + 16) 4 = (cq.tail + 1) % 2 ^ 32 ∧
             u.peek (s.descAt (s.desc q).pair + 20) 4 = (cq.head + 1) % 2 ^ 32)))) ∧
    (∀ (cid : Nat) (r : Request) (q : Nat) (ok : Bool), (∀ y ∈ s.qm.nvme, y.tag % 2 ^ 16 ≠ cid % 2 ^ 16) →
      s.qm.late = [r] → r.tag = cid → r.held = false → s.hostUp = true → s.writesStop = false → NoUpsets s → s.job.sizes.2.1 ≤ 4 →
      (∀ y ∈ s.qm.nvme, y.held = false) → s.nvmeSq (fld (s.reg (rNvns (t3Handle r.addr))).toNat 31 27) = some q →
      let cq := s.desc (s.desc q).pair
      cq.cls = 5 → cq.head = cq.tail → t1Base ≤ cq.ring → cq.ring + 16 * 2 ^ cq.log2n ≤ (s.dtab).1 →
      Completes (.nvmeCompletionEntry cid ok) s (fun u => u.qm.late = [] ∧ u.qm.nvme = s.qm.nvme ∧ u.tiles = s.tiles ∧ u.log = s.log ∧
        u.peek (s.descAt q + 20) 4 = ((s.desc q).head + 1) % 2 ^ 32))

/-- A finished command completes (R116, R140, R141, R163, R379): it leaves its engine, the summaries of its work go into its context's
registers, its token increments unless NT is 1, the progress counter of its engine advances for the completion and once in every 1,024 fast cycles of moved data, and TILE_CNT_BCONF takes the waits of its
accesses; one that is not finished stays.
Model's readings and choices: log 18, 130, 133, 141 and 147. -/
def Obligations.CommandsComplete : Prop :=
  ∀ (s : State) (t : TileId) (e : Fin 6) (k : Nat) (a : Active), (s.tile t).active[e][k]? = some a → e.val ∉ (s.tile t).engStop →
    a.stopped = false →
    let l : Loc := ⟨t, a.cmd.ctx⟩
    let c := s.ctx l
    let tok := cmdTok a.cmd.word
    (∀ moved waits, a.done = true → a.waits = [] → (e = 4 → s.qm.backlog.any Msg.isUpdate = false) → Completes (.commandCompletion t e ⟨k, moved, waits⟩) s (fun u =>
      (u.tile t).active[e] = (s.tile t).active[e].filter (fun b => decide (b.cmd.serial ≠ a.cmd.serial)) ∧
      (∀ f : Fin 6, f ≠ e → (u.tile t).active[f] = (s.tile t).active[f]) ∧
      (∀ f : Fin 6, (u.tile t).queues[f] = (s.tile t).queues[f]) ∧
      (let d := c.writeSummaries a.sbase a.sums
       u.ctx l = progressedBy e moved (if a.cmd.word.getLsbD 12 then d else { d with t := d.t.set tok (d.t[tok] + 1) })) ∧
      (∀ j, j ≠ l → u.ctx j = s.ctx j) ∧ SameBytes s u ∧
      (∀ x : TileId, u.reg (tileReg x 0 0x130) =
        countUp (s.reg (tileReg x 0 0x130)) ((waits.filter (fun w => decide (w.1 = x))).map (·.2)).sum) ∧
      SameRegsBut (waits.map (fun w => tileReg w.1 0 0x130) ++ [tileReg t 1 0x070, tileReg t 2 0x048, tileReg t 4 0x040, tileReg t 5 0x040, tileReg t 5 0x048]) s u)) ∧
    (∀ moved waits, e ≠ 5 → a.done = false ∨ a.waits ≠ [] → exec (.commandCompletion t e ⟨k, moved, waits⟩) s = .next s)

/-! ### The embedding engine (R191 to R216, R285, R286) -/

/-- POOL and SCATTER (R192 to R200, R216): a command whose codes, version slot, phase or table the table of R216 does not allow is rejected;
one that passes every check, with every row that it wants ready and asked for, is accepted on memory without errors and writes
nothing outside its staging area, its record and, for POOL, its output rows. POOL writes each output row from the rows of its valid
positions, read at their direct locations, and the counts of R198 into its record; SCATTER sends one row-update message for each
distinct index. Rows and what finds them on the device, and for SCATTER a job without staging rings.
Model's readings and choices: log 49, 51 and 142. -/
def Obligations.PoolAndScatter : Prop :=
  ∀ (s : State) (t : TileId) (sc : Bool) (k : EngCmd) (rest : List EngCmd),
    let i : Instr := if sc then .scatter t else .pool t
    let n := s.stepAt t
    let off := 64 * cmdFld k.word 127 111
    let base := t.val * 0x800000
    let p := PoolDesc.ofWords (leNums 8 8 (s.bytes (base + off) 64))
    Ready t 4 (if sc then 2 else 1) k rest s → NoUpsets s → NoEventQueue s → (s.tile t).active[4] = [] → s.cmdStep t k = n →
    (s.tile t).passed = false →
    (∀ row, s.embReject t k n = some (5, row) → p.codesBad sc = false → s.sramOk t off 64 = true →
      Completes i s (Rejected t 4 k 5 row s)) ∧
    (p.codesBad sc = true → s.sramOk t off 64 = true → Completes i s (Rejected t 4 k 5 1 s)) ∧
    (s.embReject t k n = none → s.sramOk t off 64 = false → Completes i s (Rejected t 4 k 5 6 s)) ∧
    (∀ d, s.embReject t k n = none → s.table (embTable k.word) = some d → s.sramOk t off 64 = true → p.codesBad sc = false →
      s.sramOk t p.off (4 * (p.nbags + 1)) = true → s.updatesLeft d n = false →
      let offs := leNums 4 (p.nbags + 1) (s.bytes (base + p.off) (4 * (p.nbags + 1)))
      let lo := offs.headD 0
      let cnt := offs.getLastD 0 - lo
      let j : PoolJob := ⟨t, k, embTable k.word, d, p, s.namedSlot k n, n, offs, leNums p.iw cnt (s.bytes (base + (p.idx + p.iw * lo)) (p.iw * cnt)),
        (if p.weighted then leNums p.ww cnt (s.bytes (base + (p.wgt + p.ww * lo)) (p.ww * cnt)) else []).map
          (decodeFmt (if p.half then .fs16 else .fp32))⟩
      let cs := s.classes j
      let rows := p.rows d lo (offs.getLastD 0)
      let at' := fun (r : Nat × Nat) => (base + r.1, r.2)
      let slot := d.vbase.getD j.v 0
      let near := fun (a : Nat) => tierOf a ≠ .t2 ∧ tierOf a ≠ .t3
      let settled := fun (x : Nat) => sc = true ∧ s.ownerOf d x = s.devId ∨
        s.rowReady j x = true ∧ (s.covered j x = true ∨ sc = true ∨ s.ownerOf d x = s.devId ∧ s.pinFree j = true)
      (∀ c row, s.poolReject t k d p off offs sc = some (c, row) → Completes i s (Rejected t 4 k c row s)) ∧
      (s.poolReject t k d p off offs sc = none → (∀ x ∈ s.wanted j, settled x) → (∀ r ∈ s.indexReads d j.tab j.v p.wide j.idxs, near r.1) →
        (∀ x ∈ j.idxs, ∀ a, s.jobRow j x = some a → near a) → (sc = true → s.rowQueues = []) →
        Completes i s (fun u =>
          Accepted t 4 k rest true (progressed 4 (s.ctx ⟨t, k.ctx⟩)) s u ∧
          SameBytesOutside (([(p.stage, p.ssize)] ++ (if sc then [] else rows) ++ p.record).map at') s u ∧
          ((∀ h, bitOf (s.hotCfg h) 42 = false) → d.hash = false → (s.tierDesc (embTable k.word)).dirLog = 0 → (∀ x ∈ j.idxs, s.ownerOf d x = s.devId) →
            t0End ≤ d.shmap → t0End ≤ slot →
            (sc = false → (if p.op = 0 then cnt else p.nbags) ≤ 1 ∨ elemBytes p.ofmt d.d ≤ p.ostride →
              let row := fun (q : Nat) => (q, s.bytes (slot + j.idxs.getD q 0 % d.shrows * d.stride) (16 + d.d * d.width))
              let keys := s.keys t ((k.ops[2]).toNat % 2 ^ 32) ((k.ops[2]).toNat / 2 ^ 32)
              ((∀ q ∈ p.record, ∀ w ∈ rows, crosses w q = false) → ∀ r ∈ j.outRows,
                let vr := (r.2.filter (fun q => decide (cs.getD q .missing = .valid))).map row
                let es := (List.range d.d).map (fun e => (j.element vr (keys.draw (r.1 * d.d + e)) e).1)
                let bs := packElems (elemFmt p.ofmt).width es
                u.bytes (base + (p.out + r.1 * p.ostride)) bs.length = bs) ∧
              (p.rrec ≠ 0x1FFFF → u.bytes (base + 64 * p.rrec) 20 = ((j.counts cs).map (leBytes 4)).flatten)) ∧
            (sc = true → s.replaying ⟨t, k.ctx⟩ = false → (∀ w ∈ rows, crosses w (p.stage, p.ssize) = false) →
              let dy := fun (r : Nat × List Nat) =>
                (operandElems p.ofmt d.d (s.bytes (base + (p.out + r.1 * p.ostride)) (elemBytes p.ofmt d.d)) []).map (·.1)
              let sums := (j.contribs cs (j.outRows.map dy)).foldl (fun l c => addPresum l c.1 c.2) []
              let q := s.pairAt (some t)
              u.inbox = s.inbox ++ sums.map (fun z => ownMsg s s.devId q.1 q.2 (.rowUpdate (embTable k.word) z.x z.n z.nf z.sums)))))))

/-- UPDATE (R206 to R209, R283 to R286): without CMT it is rejected with cause 0x08, and in a case of R286 with cause 0x05. Otherwise, on memory
without errors, it is accepted and done; each row of its gradients that does not have the next step's VER takes the optimizer's
new values, re-encoded with that VER, other bytes stay, and the tile's gradients and accumulators of the table are gone. Rows at
their direct locations on the device and formats other than Q8; one that the table of R216 does not allow is rejected.
Model's readings and choices: log 50. -/
def Obligations.RowUpdates : Prop :=
  ∀ (s : State) (t : TileId) (k : EngCmd) (rest : List EngCmd) (d : TableDesc), Ready t 4 3 k rest s → NoUpsets s → NoEventQueue s →
    (s.tile t).active[4] = [] →
    let n := s.stepAt t
    let tab := embTable k.word
    let off := 64 * cmdFld k.word 127 111
    let base := t.val * 0x800000
    let c := Coef.ofWords (leNums 8 8 (s.bytes (base + off) 64))
    let v := s.currentAt tab n
    let near := fun (a : Nat) => tierOf a ≠ .t2 ∧ tierOf a ≠ .t3
    (∀ x row, s.embReject t k n = some (x, row) → Completes (.update t) s (Rejected t 4 k x row s)) ∧
    (s.embReject t k n = none → s.table tab = some d → s.sramOk t off 64 = true → (c.cfen = true → s.sramOk t (64 * c.cfa) (4 * d.d) = true) →
    (k.word.getLsbD 10 = false → Completes (.update t) s (Rejected t 4 k 8 0 s)) ∧
    (k.word.getLsbD 10 = true → s.updateBad t d v off c = true → Completes (.update t) s (Rejected t 4 k 5 8 s)) ∧
    (k.word.getLsbD 10 = true → s.updateBad t d v off c = false → c.gsrc = false →
      (∀ h, bitOf (s.hotCfg h) 42 = false) → d.hash = false → (s.tierDesc tab).dirLog = 0 → d.fmt ≠ 0xB → t0End ≤ d.vbase.getD v 0 →
      let mine := s.emb.grads.filter (fun g => decide (g.tile = t.val ∧ g.table = tab))
      let at' := fun (g : Grad) => d.vbase.getD v 0 + g.index % d.shrows * d.stride
      let cf := if c.cfen then (leNums 4 d.d (s.bytes (base + 64 * c.cfa) (4 * d.d))).map v32 else []
      (mine.map (fun g => g.index % d.shrows)).Nodup → (∀ g ∈ mine, near (at' g)) → (∀ r ∈ s.accReads t, near r.1) →
      Completes (.update t) s (fun u =>
        Accepted t 4 k rest true (progressed 4 (s.ctx ⟨t, k.ctx⟩)) s u ∧
        SameBytesOutside (mine.map (fun g => (at' g, d.stride))) s u ∧
        u.emb.grads = s.emb.grads.filter (fun g => !decide (g.tile = t.val ∧ g.table = tab)) ∧
        u.emb.accs = s.emb.accs.filter (fun g => !decide (g.tile = t.val ∧ g.table = tab)) ∧
        ∀ g ∈ mine,
          let row := s.bytes (at' g) d.stride
          let vals := (updateRow d.opt c (clipScale c.clip s.normSq) cf (d.rowVals row) (g.vals.map v32)).1
          u.bytes (at' g) d.stride = if rowVer row = (n + 1) % 2 ^ 40 then row
            else (d.encodeRow row vals (n + 1) (rowDraw s.job.seed (s.reg (rTileStep t)).toNat tab g.index) Val.zero Val.zero).1)))

/-- VPIN and VUNPIN (R212, R216): VPIN adds a pin of its context on the version slot that it names, VUNPIN takes one away, and one that the
table of R216 does not allow is rejected. -/
def Obligations.VersionPins : Prop :=
  ∀ (s : State) (t : TileId) (add : Bool) (k : EngCmd) (rest : List EngCmd), Ready t 4 (if add then 4 else 5) k rest s →
    (s.tile t).active[4] = [] →
    let i : Instr := if add then .vpin t else .vunpin t
    let n := s.stepAt t
    let pin := (t.val, k.ctx.val, embTable k.word, s.namedSlot k n)
    (s.embReject t k n = none → s.replaying ⟨t, k.ctx⟩ = false → Completes i s (fun u =>
      Accepted t 4 k rest true (progressed 4 (s.ctx ⟨t, k.ctx⟩)) s u ∧ SameBytes s u ∧
      u.vpins = if add then s.vpins ++ [pin] else s.vpins.erase pin)) ∧
    (∀ c row, s.embReject t k n = some (c, row) → Completes i s (Rejected t 4 k c row s))

/-! ### Queues (R328, R331 to R334) -/

/-- SEND, RECV and PEEK (R331, R332): a command that R331 rejects faults its context. A SEND with room for its entries appends them in order
and advances TAIL, and with too little it waits; a RECV with enough entries copies them to tile SRAM and advances HEAD, and with too few
waits; PEEK writes TAIL − HEAD. No other byte changes. Rings outside tile memory and their descriptor that the link serves, entries read
from T1, queues without a flag.
Model's readings and choices: log 31, 62 and 142. -/
def Obligations.QueueEngine : Prop :=
  ∀ (s : State) (t : TileId) (i : Instr) (op : Nat) (k : EngCmd) (rest : List EngCmd), engineRow i = some (t, 5, op) →
    Ready t 5 op k rest s → NoUpsets s → NoEventQueue s → (s.tile t).active[5].length < 16 →
    (∀ a ∈ (s.tile t).active[5], a.queue ≠ some (qmQid k.word) ∧ a.cmd.serial ≠ k.serial) → s.mgmt.base = false → s.writesStop = false →
    let l : Loc := ⟨t, k.ctx⟩
    let q := qmQid k.word
    let d := s.desc q
    let n := qmCount k.word
    let buf := t.val * 0x800000 + qmAddr k.word
    let dst := s.descAt q
    let size := entrySize d.cls * 2 ^ d.log2n
    let acc := fun (fin : Bool) (u : State) => Accepted t 5 k rest fin (progressed 5 (s.ctx l)) s u
    (∀ c row, s.qmReject t k = some (c, row) → Completes i s (Rejected t 5 k c row (s.lookQueue q))) ∧
    (s.qmReject t k = none → s.replaying l = false → d.flagen = false → t0End ≤ d.ring → (d.ring + size ≤ dst ∨ dst + 64 ≤ d.ring) → t0End ≤ dst →
      d.used ≤ 2 ^ d.log2n →
      (op = 1 → s.farWaits d.ring = false → s.sendsTo q = [] → d.room < n → Completes (.send t) s (acc false)) ∧
      (op = 1 → s.farWaits d.ring = false → s.sendsTo q = [] → n ≤ d.room →
        (d.cls = 6 → s.heldEvents q = [] ∧ SMap.get (fun _ => 0) s.qm.lost q = 0) →
        Completes (.send t) s (fun u => acc true u ∧ u.peek (dst + 16) 4 = (d.tail + n) % 2 ^ 32 ∧
          (∀ j < n, u.bytes (d.entryAt (d.tail + j)) 64 = s.sentEntry d.cls (s.bytes (buf + 64 * j) 64)) ∧
          SameBytesOutside ((dst + 16, 4) :: (List.range n).map (fun j => (d.entryAt (d.tail + j), 64))) s u)) ∧
      (op = 2 → s.farWaits d.ring = false → s.book.replay = [] → s.book.field = false →
        (n ≤ d.used → (∀ j < n, tierOf (d.entryAt (d.head + j)) ≠ .t2 ∧ tierOf (d.entryAt (d.head + j)) ≠ .t3) → Completes (.recv t) s (fun u => acc true u ∧ u.peek (dst + 20) 4 = (d.head + n) % 2 ^ 32 ∧
          (∀ j < n, u.bytes (buf + 64 * j) 64 = s.bytes (d.entryAt (d.head + j)) 64) ∧
          SameBytesOutside [(dst + 20, 4), (buf, 64 * n)] s u)) ∧
        (d.used < n → Completes (.recv t) s (fun u => acc false u ∧ SameBytes s u))) ∧
      (op = 3 → d.cls ≠ 3 → Completes (.peek t) s (fun u => acc true u ∧ u.bytes buf 8 = leBytes 8 d.used ∧ SameBytesBut buf 8 s u)))

/-- Queue messages (R333): TILEOUT_FORWARD sends the next entry and keeps it until it is acknowledged; a QACK timeout starts again from SEQ; an
arriving QMSG is placed, taken as a duplicate, turned away as full or refused by the receiver's table, and answered with QACK; a
QACK placed advances SEQ and HEAD, one of full starts again, and one of refused stops the queue. A ring beyond a link that serves no
access makes a forward and an arrival wait, and nothing arrives while writes stop. Entries sent are read from the device, and no row
message is held back.
Model's readings and choices: log 62 and 142. -/
def Obligations.QueueMessages : Prop :=
  ∀ (s : State) (q : Nat) (m : Msg),
    let d := s.desc q
    let dst := s.descAt q
    let next := (d.seq + s.inFlight q) % 2 ^ 32
    (d.valid = true → d.cls = 2 → q ∉ s.qm.stopped →
      Completes (.qmsgResendTimeout q) s (fun u =>
        u.inFlight q = 0 ∧ u.reg (hubReg 5 0x108) = countUp (s.reg (hubReg 5 0x108)) (s.inFlight q) ∧ SameBytes s u ∧
        SameRegsBut [hubReg 5 0x108] s u) ∧
      (next = d.tail ∨ s.farWaits d.ring = true → exec (.tileoutForward q) s = .next s) ∧
      (next ≠ d.tail → s.farWaits d.ring = false → NoUpsets s → NoEventQueue s →
        tierOf (d.entryAt next) ≠ .t2 → tierOf (d.entryAt next) ≠ .t3 → Completes (.tileoutForward q) s (fun u =>
          u.inFlight q = s.inFlight q + 1 ∧ SameBytes s u ∧
          Sends d.peerdev s.curStep 0 (.qmsg d.peerq next (s.bytes (d.entryAt next) 64)) s u))) ∧
    (∀ (i : Nat) (e : List Byte), m.body = .qmsg q i e → m ∈ s.inbox →
      let r := { s with inbox := s.inbox.erase m }
      let takes := d.valid = true ∧ d.cls = 1 ∧ d.rsend = true ∧ d.peerdev = m.src
      (s.farWaits d.ring = true ∨ s.writesStop = true → exec (.qmsg m) s = .next s) ∧
      (s.farWaits d.ring = false → s.writesStop = false → s.qm.backlog = [] → NoUpsets s → NoEventQueue s →
        (takes → i = d.seq → 0 < d.room → d.flagen = false → e.length = 64 →
          (d.ring + 64 * 2 ^ d.log2n ≤ dst ∨ dst + 64 ≤ d.ring) →
          Completes (.qmsg m) s (fun u =>
            u.bytes (d.entryAt d.tail) 64 = e ∧ u.peek (dst + 16) 4 = (d.tail + 1) % 2 ^ 32 ∧ u.peek (dst + 24) 4 = (d.seq + 1) % 2 ^ 32 ∧
            SameBytesOutside [(d.entryAt d.tail, 64), (dst + 16, 4), (dst + 24, 4)] s u ∧
            Sends m.src s.curStep 0 (.qack q ((d.seq + 1) % 2 ^ 32) 0) r u)) ∧
        (takes → i ≠ d.seq → (d.seq + 2 ^ 32 - i) % 2 ^ 32 < 2 ^ 31 →
          Completes (.qmsg m) s (fun u => SameBytes s u ∧ Sends m.src s.curStep 0 (.qack q d.seq 0) r u)) ∧
        (takes → (i = d.seq ∧ d.room = 0 ∨ i ≠ d.seq ∧ 2 ^ 31 ≤ (d.seq + 2 ^ 32 - i) % 2 ^ 32) →
          Completes (.qmsg m) s (fun u => SameBytes s u ∧ Sends m.src s.curStep 0 (.qack q d.seq 1) r u)) ∧
        (¬ takes → Completes (.qmsg m) s (fun u => SameBytes s u ∧ Sends m.src s.curStep 0 (.qack q d.seq 2) r u ∧
          (LogRoom s → Reachable s m.src → Logged ⟨0, 6, 4, 0, 0, 0, 0, 0, 0, 0, 0xFFFF, 0, 0xF, q, 0, 0⟩ s u))))) ∧
    (∀ (o pq seq : Nat), m ∈ s.inbox → s.outQueue m.src pq = some o → seq < 2 ^ 32 → s.qm.backlog = [] → NoUpsets s → NoEventQueue s →
      let x := s.desc o
      let n := (seq + 2 ^ 32 - x.seq) % 2 ^ 32
      (m.body = .qack pq seq 0 → 0 < n → n ≤ (x.tail + 2 ^ 32 - x.seq) % 2 ^ 32 → Completes (.qack m) s (fun u =>
        u.peek (s.descAt o + 24) 4 = seq ∧ u.peek (s.descAt o + 20) 4 = seq ∧ u.inFlight o = s.inFlight o - n ∧
        SameBytesOutside [(s.descAt o + 20, 8)] s u ∧ u.inbox = s.inbox.erase m)) ∧
      (m.body = .qack pq seq 1 → Completes (.qack m) s (fun u => u.inFlight o = 0 ∧ SameBytes s u ∧ u.inbox = s.inbox.erase m)) ∧
      (m.body = .qack pq seq 2 → Completes (.qack m) s (fun u => o ∈ u.qm.stopped ∧ u.inbox = s.inbox.erase m)))

/-! ### Order-free sums (R199 to R204, R251 to R260) -/

/-- Row updates, tallies and the completion of a table's reduction (R200 to R202, R251, R340): a message of a later step waits, one of an earlier
step is dropped and counted, and any other is added exactly into its row's accumulators; the copy that reaches another device than its
owner is dropped. Messages leave a staging ring in arrival order, and one that a full ring held back then enters it as whole entries.
One tally of each member counts, and with every tally in and as many messages as they say, each row's gradient is its exact sum converted
once to FP32. Accumulators on the device and without memory errors.
Model's readings and choices: log 25, 52 and 141. -/
def Obligations.RowMessages : Prop :=
  ∀ (s : State) (m : Msg) (t : Nat) (d : TableDesc), s.table t = some d →
    (∀ (x n : Nat) (nf : Bool) (sums : List Int), m.body = .rowUpdate t x n nf sums →
      let h := d.home x
      let row := fun (u : State) => u.emb.accs.filter (fun a => decide (a.tile = h ∧ a.table = t ∧ a.index = x))
      (s.ownerOf d x = s.devId → s.later (some h) m = true ∨ s.nextInRing m = false → exec (.rowUpdate m) s = .next s) ∧
      (m ∈ s.inbox → s.ownerOf d x = s.devId → s.later (some h) m = false → s.stale (some h) m = true → Takes s → s.rowQueues = [] →
        Completes (.rowUpdate m) s (fun u => u = { s with inbox := s.inbox.erase m }.count (tileReg h 3 0x058) 1)) ∧
      (m ∈ s.inbox → s.ownerOf d x ≠ s.devId → s.qm.backlog = [] → s.rowQueues = [] →
        Completes (.rowUpdate m) s (fun u => u = { s with inbox := s.inbox.erase m })) ∧
      (∀ (q : Nat) (w : Msg), m ∈ s.inbox → s.ownerOf d x = s.devId → s.later (some h) m = false → s.writesStop = false → NoUpsets s →
        s.rowRing m 0 = some q → s.inRing q 0 = [m] → s.qm.backlog = [w] → w.dst = s.devId → w.mc = false → s.rowRing w 0 = some q →
        rowEntries w ≤ 2 ^ (s.desc q).log2n → (∀ j, tierOf ((s.desc q).entryAt j) = .t1) → Completes (.rowUpdate m) s (fun u =>
          u.inbox = s.inbox.erase m ++ [w] ∧ u.qm.backlog = [] ∧
          ∀ i < rowEntries w, u.bytes ((s.desc q).entryAt ((s.desc q).tail + s.ringTail q + i)) 64 =
            ((w.bytes 0 ++ List.replicate (64 * rowEntries w - (32 + w.body.len)) 0).drop (64 * i)).take 64)) ∧
      (Current (some h) m s → s.ownerOf d x = s.devId → s.rowQueues = [] → (s.emb.accs.map (·.order)).Nodup → (∀ a ∈ row s, a.sums.length = d.d) → sums.length = d.d →
        s.accUsed h false + s.accBytes t ≤ s.coalSize h → Completes (.rowUpdate m) s (fun u =>
          u.inbox = s.inbox.erase m ∧ SameBytes s u ∧
          ((row u).map (·.count)).sum = ((row s).map (·.count)).sum + n ∧
          (∀ e < d.d, ((row u).map (fun a => a.sums.getD e 0)).sum = ((row s).map (fun a => a.sums.getD e 0)).sum + sums.getD e 0) ∧
          u.emb.accs.filter (fun a => !decide (a.tile = h ∧ a.table = t ∧ a.index = x)) =
            s.emb.accs.filter (fun a => !decide (a.tile = h ∧ a.table = t ∧ a.index = x))))) ∧
    (∀ n : Nat, m.body = .tally t n → Current none m s →
      ((∀ e ∈ s.emb.tallies, ¬ (e.1 = m.src ∧ e.2.1 = t)) → Completes (.tally m) s (fun u =>
        u = { s with inbox := s.inbox.erase m, emb := { s.emb with tallies := s.emb.tallies ++ [(m.src, t, n)] } })) ∧
      ((∃ e ∈ s.emb.tallies, e.1 = m.src ∧ e.2.1 = t) → LogRoom s → Completes (.tally m) s (fun u =>
        u.emb.tallies = s.emb.tallies ∧ s.pairAt none ∈ u.step.barred ∧ Logged (stepEntry 5 t 0) s u))) ∧
    (∀ f : Fin 64, f.val = t →
      (NoUpsets s → (∀ h, ∀ r ∈ s.accReads h, tierOf r.1 ≠ .t2 ∧ tierOf r.1 ≠ .t3) → t ∉ s.emb.reduced → t ∈ s.ownTables → s.step.stopped = false → s.learning s.curStep = true → s.tallied t = true →
        Completes (.coalescerReductionComplete f) s (fun u =>
          u.emb.reduced = s.emb.reduced ++ [t] ∧ u.emb.accs = s.emb.accs ∧
          ∃ gs, u.emb.grads = s.emb.grads ++ gs ∧
            (∀ a ∈ s.emb.accs, a.table = t → ∃ g ∈ gs, g.tile = a.tile ∧ g.index = a.index) ∧
            ∀ g ∈ gs, g.table = t ∧ g.vals = (List.range d.d).map (fun e => fxTo .fp32
              ((s.emb.accs.filter (fun a => decide (a.table = t ∧ a.index = g.index))).map (fun a => a.sums.getD e 0)).sum d.lsbe))) ∧
      (s.tallied t = false → exec (.coalescerReductionComplete f) s = .next s))

/-- Reduction messages (R251, R254, R255, R258, R259, R373): a shard message adds its wide sums into the owner's storage and covers its
elements, and one outside the shard, or of elements covered before, is discarded whole with a STEP 0x02 entry and its step does not
commit; a result goes into OUT; a tree value is kept by its distance; a norm partial counts once, a second one is a STEP 0x05 entry,
and with one of every member the job record is their sum. -/
def Obligations.ReductionMessages : Prop :=
  ∀ (s : State) (m : Msg) (n first : Nat),
    (∀ (b : BufDesc), s.bufDesc n = some b → Current (some b.tile) m s → NoUpsets s →
      (∀ sums : List Int, m.body = .redShard n first sums → b.mode = 0 →
        let sh := s.ownShard b
        let twice := ∃ r ∈ (s.buf n).covered, r.1 = m.src ∧ overlaps first sums.length r.2.1 r.2.2 = true
        (sh.1 ≤ first → first + sums.length ≤ sh.1 + sh.2 → ¬ twice → (s.buf n).closed = false →
          Completes (.redShard m) s (fun u =>
            (∀ j < sums.length, u.wideSum b (first + j) = (s.wideSum b (first + j) + sums.getD j 0).bmod (2 ^ 128)) ∧
            SameBytesBut (b.elemAt first) (16 * sums.length) s u ∧ u.inbox = s.inbox.erase m ∧
            (u.buf n).covered = (s.buf n).covered ++ [(m.src, first, sums.length)])) ∧
        (¬ (sh.1 ≤ first ∧ first + sums.length ≤ sh.1 + sh.2) ∨ twice → LogRoom s → Completes (.redShard m) s (fun u =>
          u.bufs = s.bufs ∧ s.pairAt (some b.tile) ∈ u.step.barred ∧ Logged (stepEntry 2 n first) s u ∧ (NoEventQueue s → SameBytes s u)))) ∧
      (∀ vals : List Nat, m.body = .redResult n first vals → b.mode = 0 →
        (b.kind = 1 → first + vals.length ≤ b.nelem → (s.buf n).shardDone = false → Completes (.redResult m) s (fun u =>
          u.bytes (b.tile * 0x800000 + (b.out + 4 * first)) (4 * vals.length) = (vals.map (leBytes 4)).flatten ∧
          SameBytesBut (b.tile * 0x800000 + (b.out + 4 * first)) (4 * vals.length) s u ∧
          (u.buf n).outCov = (s.buf n).outCov ++ [(m.src, first, vals.length)])) ∧
        (b.kind ≠ 1 ∨ b.nelem < first + vals.length → LogRoom s → Completes (.redResult m) s (fun u =>
          u.bufs = s.bufs ∧ Logged (stepEntry 2 n first) s u))) ∧
      (∀ (dist : Nat) (vals : List Nat), m.body = .treeValue n first dist vals → b.mode = 1 →
        (first + vals.length ≤ b.nelem → 0 < dist → (s.buf n).closed = false → Completes (.treeValue m) s (fun u =>
          u.buf n = { s.buf n with tree := (s.buf n).tree ++ [(dist, first, vals)] } ∧ SameBytes s u)) ∧
        (b.nelem < first + vals.length → LogRoom s → Completes (.treeValue m) s (fun u =>
          u.bufs = s.bufs ∧ Logged (stepEntry 2 n first) s u)))) ∧
    (∀ (sq : Int) (nf cl : Nat), m.body = .normPartial sq nf cl → Current none m s →
      let ps := s.step.partials ++ [(m.src, (⟨sq, nf, cl, s.curStep⟩ : JobRec))]
      ((∀ p ∈ s.step.partials, p.1 ≠ m.src) → Completes (.normPartial m) s (fun u =>
        u.step.partials = ps ∧
        (s.step.spoilt = false → s.step.jobRec = none → (∀ d ∈ s.memberIds, ∃ p ∈ ps, p.1 = d) →
          u.step.jobRec = some ⟨(ps.map (·.2.squares)).sum, (ps.map (·.2.nonfin)).sum, (ps.map (·.2.clamps)).sum, s.curStep⟩))) ∧
      ((∃ p ∈ s.step.partials, p.1 = m.src) → LogRoom s → Completes (.normPartial m) s (fun u =>
        u.step.partials = s.step.partials ∧ u.step.spoilt = true ∧ s.pairAt none ∈ u.step.barred ∧ Logged (stepEntry 5 0 m.src) s u)))

/-- Pin requests, row images and prefetch plans (R228, R233 to R237): a request for a row of the home tile's own step at its direct location
in T1 takes a pin while the table has room, and another device gets the row's image; one of a passed step is dropped. An image
lands with its tag in a free way of its mirror set, and one of a passed step is dropped. A plan asks once for each row that it
names, counts once each index out of range, and the four plans that a tile can hold are counted. A full job without staging rings, outside
base camp, no image that waits already, and rows of plans and what finds them on the device.
Model's readings and choices: log 45, 46 and 143. -/
def Obligations.PinsImagesAndPlans : Prop :=
  ∀ (s : State) (m : Msg) (t v x : Nat) (d : TableDesc), s.table t = some d → NoUpsets s → NoEventQueue s → Takes s → s.rowQueues = [] →
    s.mgmt.base = false → s.job.baseRun = false →
    (m.body = .pinReq t v x → m ∈ s.inbox → s.emb.waiting = [] → (∀ r ∈ s.host.waiting, r.held = false) →
      let h := d.home x
      let n := s.stepAt h
      let a := d.vbase.getD v 0 + x % d.shrows * d.stride
      (m.step < n → Completes (.pinReq m) s (fun u => u.inbox = s.inbox.erase m ∧ u.emb.pins = s.emb.pins ∧ SameBytes s u)) ∧
      (m.step = n → (∀ g, bitOf (s.hotCfg g) 42 = false) → d.hash = false → (s.tierDesc t).dirLog = 0 → tierOf a = .t1 →
        s.currentAt t n = v → s.moving t v x = false → s.findPin t v x n = none → (s.pinsOf h).length < s.pinRoom h →
        (∀ p ∈ s.pinsOf h, p.asks = []) → Completes (.pinReq m) s (fun u =>
          u.emb.pins = s.emb.pins ++ [⟨h, t, v, x, n, 1, s.emb.pinSeq + 1, []⟩] ∧
          u.emb.waiting = [] ∧ SameBytes s u ∧
          (m.src ≠ s.devId → Sends m.src n (s.pairAt (some h)).2 (.rowImage t v x (s.bytes a d.stride)) { s with inbox := s.inbox.erase m } u)))) ∧
    (∀ row : List Byte, m.body = .rowImage t v x row → m ∈ s.inbox →
      let k := s.tierDesc t
      let set := k.mirSet t x
      let a := d.mirAt k set 0
      (m.step < s.curStep → Completes (.rowImage m) s (fun u => u = { s with inbox := s.inbox.erase m })) ∧
      (s.curStep ≤ m.step → 0 < k.mirSets → s.mirrorRow t v x m.step = none → (∀ r ∈ s.emb.mirror, ¬ (r.table = t ∧ r.set = set)) →
        Completes (.rowImage m) s (fun u =>
          u.bytes a (64 + row.length) = leBytes 64 (x + m.step * 2 ^ 40) ++ row ∧ SameBytesBut a (64 + row.length) s u ∧
          u.inbox = s.inbox.erase m ∧ u.emb.mirror = s.emb.mirror ++ [⟨t, v, x, m.step, set, 0⟩]))) ∧
    (∀ (tile : TileId) (value : Word), wfld value 46 41 = t →
      let base := tile.val * 0x800000
      let off := 64 * wfld value 63 47
      let p := PoolDesc.ofWords (leNums 8 8 (s.bytes (base + off) 64))
      let lo := s.peek (base + p.off) 4
      let hi := s.peek (base + (p.off + 4 * p.nbags)) 4
      let n := s.stepAt tile + 1
      let xs := leNums p.iw (hi - lo) (s.bytes (base + (p.idx + p.iw * lo)) (p.iw * (hi - lo)))
      let rows := (xs.filter (fun y =>
        match s.classify d t (s.currentAt t n) n p.wide y with
        | .valid => true
        | .missing => decide (s.ownerOf d y ≠ s.devId)
        | _ => false)).eraseDups
      s.sramOk tile off 64 = true → s.sramOk tile p.off (4 * (p.nbags + 1)) = true → s.sramOk tile (p.idx + p.iw * lo) (p.iw * (hi - lo)) = true →
      ((s.plansOf tile).length < 4 → (∀ r ∈ s.indexReads d t (s.currentAt t n) p.wide xs, tierOf r.1 ≠ .t2 ∧ tierOf r.1 ≠ .t3) →
        Completes (.embPlan tile value) s (fun u =>
          u.emb.plans = s.emb.plans ++ [⟨tile, t, s.currentAt t n, n, rows⟩] ∧
          u.reg (embCnt tile (0x800 + 32 * t + 8)) = countUp (s.reg (embCnt tile (0x800 + 32 * t + 8)))
            (xs.eraseDups.filter (fun y => decide (s.classify d t (s.currentAt t n) n p.wide y = .range))).length ∧
          ((∀ y ∈ rows, s.ownerOf d y = s.devId) → u.reg (embCnt tile 0x080) = countUp (s.reg (embCnt tile 0x080)) rows.length))) ∧
      (4 ≤ (s.plansOf tile).length → Completes (.embPlan tile value) s (fun u => u = s.count (embCnt tile 0x0A8) 1)))

/-! ### Step commit (R262 to R273, R376, R418) -/

/-- Readiness and the leader's decision (R149, R265, R267, R268, R269, R272): a tile arrives when its step set has, and its buffers close;
a ready device sets its commit set aside and reports to the leader; the leader waits for every report, and for the handling of an error that
keeps the step from committing, then decides by the table's rows; a member records the decision, at its commit point when it advances, and ignores a copy. A HALT ends the job that a STOP waits for.
Model's readings and choices: log 27 and 120. -/
def Obligations.StepReports : Prop :=
  ∀ s : State,
    let n := s.step.no
    let a := s.step.att
    let decided := fun (d : Decision) (u : State) =>
      (d = .halt → s.job.stopReq ≠ none → u.job.st = .loaded) ∧
      (d = .halt → s.job.stopReq = none → u.step.halted = some 0) ∧
      (d ≠ .halt ∨ s.job.stopReq = none →
        u.step.decision = (if d = .halt then none else some (d, n, a)) ∧ u.step.no = (if d = .commit ∨ d = .skip then n + 1 else n) ∧
        ∃ r ∈ u.book.recs, r.type = 4 ∧ r.step = n ∧ r.att = a ∧ r.body = [Decision.code d])
    (∀ t : TileId,
      let x := s.tile t
      let left := ∃ c ∈ s.stepCtxs t, (x.ctxs[c]).step ≠ .arrived ∨ ∃ e : Fin 6,
        (∃ k ∈ x.queues[e], k.ctx = c ∧ k.serial ≤ (x.ctxs[c]).arrSerial ∧ cmdCmt k.word = false) ∨
        (∃ k ∈ x.active[e], k.cmd.ctx = c ∧ k.cmd.serial ≤ (x.ctxs[c]).arrSerial ∧ cmdCmt k.cmd.word = false)
      (left → exec (.tileArrival t) s = .next s) ∧
      (¬ left → s.stepCtxs t ≠ [] → x.arrived = false → x.decision = none → s.step.stopped = false →
        Completes (.tileArrival t) s (fun u => (u.tile t).arrived = true ∧ (∀ l, u.ctx l = s.ctx l) ∧
          (s.learning (s.stepAt t) = true → ∀ i b, s.bufDesc i = some b → b.tile = t.val → (u.buf i).closed = true)))) ∧
    (∀ job : JobRec, s.step.jobRec = some job → NoUpsets s → s.job.st = .running → s.job.baseRun = false → s.step.decision = none → s.step.stopped = false →
      s.step.halted = none → s.step.reported = false → s.step.spoilt = false → (n, a) ∉ s.step.barred → s.book.asked = true → (∀ t ∈ s.stepTiles, (s.tile t).arrived = true) →
      (s.learning n = true → s.reductionsDone = true) →
      Completes .deviceReady s (fun u =>
        (∃ k : CommitSet, u.step.commit = some k ∧ k.step = n ∧ k.grads = s.emb.grads ∧ k.arrivals = s.step.arrivals ∧ k.job = job ∧
          k.inputs = s.commitRanges.map (fun r => (r.1, r.2.1, s.bytes (r.1 * 0x800000 + r.2.1) r.2.2))) ∧
        u.step.reported = true ∧
        (s.leader ≠ s.devId → ∃ dg : Word, Sends s.leader n a (.stepReport dg) s u ∧
          ((∀ w ∈ s.emb.switches, w.2.2 ≠ n) → dg = 0)))) ∧
    (∀ (m : Msg) (dg : Word), m.body = .stepReport dg → Current none m s → s.leader = s.devId → s.step.decision = none →
      s.step.halted = none → s.cairn.st = 0 → a < 65535 → (∀ r ∈ s.step.reports, r.1 ≠ m.src) →
      let rs := s.step.reports ++ [(m.src, dg)]
      let all := ∀ d ∈ s.memberIds, ∃ r ∈ rs, r.1 = d
      let differ := ∃ x ∈ rs, ∃ y ∈ rs, x.2 ≠ y.2
      let bad := (∃ r, s.step.jobRec = some r ∧ 0 < r.nonfin) ∨
        s.step.jobRec = none ∧ ∃ k, s.step.commit = some k ∧ 0 < k.job.nonfin
      let stop := (s.reg rStepCtl).getLsbD 0 = true ∨ wfld (s.reg rStepCtl) 15 8 < s.step.skipRun + 1
      let clean := s.step.spoilt = false ∧ (n, a) ∉ s.step.barred
      (s.step.rejoined = true → Completes (.stepReport m) s (decided .discard)) ∧
      (s.step.rejoined = false → ¬ clean → Completes (.stepReport m) s (fun u =>
        u = { s with inbox := s.inbox.erase m, step := { s.step with reports := rs } })) ∧
      (s.step.rejoined = false → clean →
        (¬ all → Completes (.stepReport m) s (fun u =>
          u = { s with inbox := s.inbox.erase m, step := { s.step with reports := rs } })) ∧
        (all → differ → Completes (.stepReport m) s (decided .halt)) ∧
        (all → ¬ differ → bad → stop → Completes (.stepReport m) s (decided .halt)) ∧
        (all → ¬ differ → bad → ¬ stop → Completes (.stepReport m) s (decided .skip)) ∧
        (all → ¬ differ → ¬ bad → Completes (.stepReport m) s (decided .commit)))) ∧
    (∀ (m : Msg) (d : Decision), m.body = .stepDecision d → Current none m s → s.step.halted = none →
      (s.step.decision = none → Completes (.stepDecision m) s (decided d)) ∧
      (s.step.decision ≠ none → Completes (.stepDecision m) s (fun u => u = { s with inbox := s.inbox.erase m })))

/-- Delivery, boundaries, rejoin and queries (R149, R205, R228, R256, R269, R270, R272, R338, R376, R418): waiting contexts receive the
decision, and one that does not commit empties the queues of gated commands; a context that sits the step out goes on waiting, and runs
again with its own phase; a tile whose step set has ended passes its boundary; when every tile has, the device enters its next step or
attempt, or a waiting STOP ends the job, unless writes stop; a rejoin makes the leader decide DISCARD, or rolls the device back to the newest
complete cairn, if that is the one it names and no other device is away, and with no partner ends the job; a device that comes back while it
fills this one is asked again, or, lost itself, ends the job; the leader answers a query with what it recorded.
Model's readings and choices: log 42, 43, 64, 136 and 148. -/
def Obligations.TileBoundaries : Prop :=
  ∀ (s : State) (d : Decision) (n a : Nat),
    (s.step.decision = some (d, n, a) →
      let adv := d = .commit ∨ d = .skip
      (∀ t : TileId, t.val ∈ s.stepTiles → (s.tile t).passed = false →
        (d = .halt → exec (.stepDecisionDelivery t) s = .next s) ∧
        (d ≠ .halt → (s.tile t).decision = none → Completes (.stepDecisionDelivery t) s (fun u =>
          (u.tile t).decision = some d ∧
          (∀ c ∈ s.stepCtxs t, ∀ pd, (s.ctx ⟨t, c⟩).mode = .wait → (s.ctx ⟨t, c⟩).wait = .decision pd →
            (s.ctx ⟨t, c⟩).epoch ≤ (s.tile t).bounds →
            (s.offPhase ⟨t, c⟩ n = true → u.ctx ⟨t, c⟩ = { s.ctx ⟨t, c⟩ with epoch := (s.ctx ⟨t, c⟩).epoch + 1 }) ∧
            (s.offPhase ⟨t, c⟩ n = false →
              (u.ctx ⟨t, c⟩).mode = .run ∧ (u.ctx ⟨t, c⟩).g = (s.ctx ⟨t, c⟩).g ∧ (u.ctx ⟨t, c⟩).pc = (s.ctx ⟨t, c⟩).pc ∧
              (pd ≠ 0 → (u.ctx ⟨t, c⟩).rp pd = decide adv) ∧
              (adv → (u.ctx ⟨t, c⟩).step = .decidedCommit) ∧ (d = .discard → (u.ctx ⟨t, c⟩).step = .decidedDiscard))) ∧
          (d ≠ .commit → ∀ e : Fin 6, ∀ k ∈ (u.tile t).queues[e], ¬ (cmdCmt k.word = true ∧ s.ownDecision t k = true)))) ∧
        ((s.tile t).decision = some d → d ≠ .halt →
          let ended := ∀ c ∈ s.stepCtxs t, adv ∨ (s.ctx ⟨t, c⟩).alive = true → (s.tile t).bounds < (s.ctx ⟨t, c⟩).epoch
          (adv → ¬ ended → exec (.tileStepBoundary t) s = .next s) ∧
          (s.writesStop = true → d ≠ .discard → exec (.tileStepBoundary t) s = .next s) ∧
          (ended → s.gatedLeft t = false → (d = .commit → s.learning (s.stepAt t) = true → s.gatherOut (s.stepAt t) = false) → s.writesStop = false →
            (adv → s.markWaits t (s.stepAt t) = false) → (d = .discard → ∀ c, c ∉ s.stepCtxs t → (s.ctx ⟨t, c⟩).mode ≠ .held) →
            Completes (.tileStepBoundary t) s (fun u =>
              (u.tile t).passed = true ∧ (u.tile t).decision = none ∧ (u.tile t).arrived = false ∧
              (u.tile t).bounds = (s.tile t).bounds + 1 ∧ (∀ l, l.tile ≠ t ∨ s.offPhase l n = false → u.ctx l = s.ctx l) ∧
              (adv → ∀ c ∈ s.stepCtxs t, s.offPhase ⟨t, c⟩ n = true → s.offPhase ⟨t, c⟩ (n + 1) = false → (s.ctx ⟨t, c⟩).mode = .wait →
                (u.ctx ⟨t, c⟩).mode = .run ∧ (u.ctx ⟨t, c⟩).step = .start) ∧
              (∀ i b, s.bufDesc i = some b → b.tile = t.val → u.buf i = .fresh) ∧
              (∀ x ∈ u.emb.accs, x.tile ≠ t.val) ∧ (∀ g ∈ u.emb.grads, g.tile ≠ t.val) ∧
              (adv → u.reg (rTileStep t) = BitVec.ofNat 64 (n + 1) ∧ ∀ p ∈ u.emb.pins, p.tile = t.val → n < p.step) ∧
              (¬ adv → u.reg (rTileStep t) = s.reg (rTileStep t) ∧ u.emb.pins = s.emb.pins))) ∧
          (d = .discard → (s.tile t).search = none → NoUpsets s → ∀ c, c ∉ s.stepCtxs t → (s.ctx ⟨t, c⟩).mode = .held →
            Completes (.tileStepBoundary t) s (fun u =>
              (u.ctx ⟨t, c⟩).pc = (SavedCtx.ofBytes ⟨t, c⟩ (s.bytes (s.saveAddr ⟨t, c⟩) 1024)).pc ∧ (u.ctx ⟨t, c⟩).mode ≠ .held)))) ∧
      ((∃ t ∈ s.stepTiles, (s.tile t).passed = false) → exec .deviceStepBoundary s = .next s) ∧
      (s.writesStop = true → exec .deviceStepBoundary s = .next s) ∧
      ((∀ t ∈ s.stepTiles, (s.tile t).passed = true) → d ≠ .halt → s.writesStop = false → (adv → ∀ t : TileId, s.markWaits t n = false) →
        (s.job.stopReq ≠ none → Completes .deviceStepBoundary s (fun u => u.job.st = .loaded ∧ u.job.stopReq = none)) ∧
        (s.job.stopReq = none → Completes .deviceStepBoundary s (fun u =>
          u.step.decision = none ∧ u.step.no = s.step.no ∧ u.step.commit = none ∧
          (∀ t ∈ s.stepTiles, (u.tile t).passed = false) ∧ (adv → u.step.att = 0) ∧ (d = .discard → u.step.att = a + 1) ∧
          (adv → s.book.target = none → s.book.field = false → s.job.baseRun = false →
            ∃ r ∈ u.book.recs, r.type = 7 ∧ r.step = n ∧ r.body.getD 1 0 = s.cairn.lastC) ∧
          ((∃ t ∈ s.stepTiles, (s.tile t).arrived = false) → s.step.halted = none → s.book.target = none →
            s.book.field = false → u.step.phase = 0))))) ∧
    (∀ m : Msg, m.body = .rejoin → m ∈ s.inbox → m.src < 4096 → s.job.st = .running →
      let fills := s.belay.fill ≠ 0 ∧ ∃ r ∈ s.belay.fillLeft, s.holder r = some m.src
      let others := ∃ x < 4096, x ≠ m.src ∧ s.peerDown x = true
      (fills → s.belay.fill ≠ 1 → m.step = s.cairn.lastC → Completes (.rejoin m) s (fun u =>
        u.job.st = .loaded ∧ u.job.startReq = none ∧ u.belay.fill = 0)) ∧
      (fills → s.belay.fill = 1 ∨ m.step ≠ s.cairn.lastC → Completes (.rejoin m) s (fun u =>
        u.job = s.job ∧ u.step.no = s.step.no ∧ u.step.decision = s.step.decision ∧ u.belay.fill = s.belay.fill ∧
        u.belay.fillLeft = s.belay.fillLeft)) ∧
      (¬ fills → m.step = s.curStep → s.leader = s.devId → s.step.decision = none → s.step.halted = none → s.step.att < 65535 → s.cairn.st = 0 →
        Completes (.rejoin m) s (fun u => u.step.decision = some (.discard, m.step, s.step.att) ∧ u.step.no = m.step)) ∧
      (¬ fills → m.step = s.curStep → s.leader ≠ s.devId → Completes (.rejoin m) s (fun u =>
        u.step = s.step ∧ u.peerDown m.src = false ∧ (s.qm.backlog = [] → u.inbox = s.inbox.erase m))) ∧
      (¬ fills → m.step < s.curStep → m.step ≠ s.cairn.lastC → Completes (.rejoin m) s (fun u =>
        u.step = s.step ∧ (s.qm.backlog = [] → u.inbox = s.inbox.erase m))) ∧
      (¬ fills → m.step < s.curStep → m.step = s.cairn.lastC →
        (others → Completes (.rejoin m) s (fun u => u.step = s.step ∧ u.inbox = s.inbox)) ∧
        (¬ others → s.partner ≠ none → (∀ r ∈ s.changedRows, (s.holder r).isSome = true) → Completes (.rejoin m) s (fun u =>
          u.step.no = m.step ∧ u.step.att = 0 ∧ u.step.decision = none ∧ u.cairn.st = 6 ∧ u.belay.fill = 1)) ∧
        (¬ others → s.partner = none → Completes (.rejoin m) s (fun u => u.job.st = .loaded)))) ∧
    (∀ (m : Msg) (r : RtbRec), m.body = .decisionQuery → m ∈ s.inbox → s.qm.backlog = [] → s.leader = s.devId →
      (s.book.recs.filter (fun r => decide (r.type = 4 ∧ r.step = m.step))).getLast? = some r → r.body = [Decision.code d] →
      Completes (.decisionQuery m) s (fun u => Sends m.src m.step r.att (.stepDecision d) { s with inbox := s.inbox.erase m } u))

/-! ### Links (R290 to R316, R381) -/

/-- Configuration, training and the peer's return (R292, R295, R307, R312, R313): a changed half starts again with no peer, a FAILED one
tries again, a reserved code changes nothing; a link trained with its port's quanta admitted resends its unacknowledged flits first,
numbered from 0, and keeps its partial messages; the third training in a row that times out ends in FAILED, and a member left without a route is an error.
Model's readings and choices: log 65. -/
def Obligations.LinkSetup : Prop :=
  ∀ s : State, NoEventQueue s →
    (∀ (i : Iface) (p : Fin 12) (size : Nat) (v : Word), s.serves (ifaceNo i) = true →
      let a := rLnkCfg p.val
      let c := v.toNat % 256 / 8 * 8
      (size ≠ 8 ∧ size ≠ 4 → LogRoom s → Completes (.linkCfgWrite i p size v) s (fun u =>
        u.links = s.links ∧ u.reg a = s.reg a ∧ Logged (accessEntry 2 a) s u)) ∧
      (size = 8 ∨ size = 4 →
        (fld c 7 6 = 3 ∨ fld c 7 6 = 2 ∧ bitOf c 5 = false → LogRoom s → Completes (.linkCfgWrite i p size v) s (fun u =>
          u.links = s.links ∧ u.reg a = s.reg a ∧ Logged (accessEntry 1 a) s u)) ∧
        (¬ (fld c 7 6 = 3 ∨ fld c 7 6 = 2 ∧ bitOf c 5 = false) → Completes (.linkCfgWrite i p size v) s (fun u =>
          u.reg a = BitVec.ofNat 64 c ∧ ∀ h < 2,
            let l := 2 * p.val + h
            let changed := cfgOf (s.lnkCfg l) h ≠ cfgOf c h
            let first := if (cfgOf c h).2.2 then 1 else 0
            (changed → u.link l = { (s.link l).fresh first with peer := 0, peerPort := 0 }) ∧
            (¬ changed → (s.link l).state = 5 → u.link l = (s.link l).fresh first) ∧
            (¬ changed → (s.link l).state ≠ 5 → (u.link l).state = (s.link l).state ∧ (u.link l).peer = (s.link l).peer))))) ∧
    (∀ (l : LinkId) (peer port : Nat),
      ((s.link l).state ≠ 1 → exec (.linkTrained l peer port) s = .next s ∧ exec (.linkTrainingTimeout l) s = .next s) ∧
      (s.portPowered l = false → exec (.linkTrained l peer port) s = .next s) ∧
      ((s.link l).state = 1 →
        (s.portPowered l = true → Completes (.linkTrained l peer port) s (fun u =>
          (u.link l).state = 2 ∧ (u.link l).peer = peer % 4096 ∧ (u.link l).peerPort = port % 32 ∧ (u.link l).fails = 0 ∧
          (u.link l).got = (s.link l).got ∧
          ∀ (i : Nat) (f : TxFlit), (s.link l).retry[i]? = some f → (u.link l).retry[i]? = some { f with seq := i })) ∧
        ((s.link l).fails < 2 → Completes (.linkTrainingTimeout l) s (fun u =>
          (u.link l).state = 1 ∧ (u.link l).fails = (s.link l).fails + 1 ∧ u.log = s.log ∧ u.netWait = s.netWait ∧
          ∀ k, k ≠ l.val → u.link k = s.link k)) ∧
        (2 ≤ (s.link l).fails → (s.link l).unfinished = [] → LogRoom s →
          let lost := fun (d : Nat) => d ≠ s.devId ∧ bitOf (s.route d) 15 = true ∧
            ∀ p ∈ [fld (s.route d) 4 0, fld (s.route d) 12 8], 24 ≤ p ∨ p = l.val ∨ (s.link p).state = 5 ∨ (s.link p).state = 0
          Completes (.linkTrainingTimeout l) s (fun u =>
            (u.link l).state = 5 ∧ (u.link l).peer = (s.link l).peer ∧
            ((∀ d ∈ s.memberIds, ¬ lost d) → Logged (linkEntry 2 l (s.link l).peer 0) s u) ∧
            ((∃ d ∈ s.memberIds, lost d) → (∀ e, s.log.slots.get (fun _ => none) ((s.log.next + 1) % 2 ^ 32 % 64) = some e → e.state = 2) →
              ∃ e, u.log.slots.get (fun _ => none) ((s.log.next + 1) % 2 ^ 32 % 64) = some e ∧
                e.cls = 5 ∧ e.cause = 4 ∧ e.state = 0))))) ∧
    (∀ l : LinkId,
      ((s.link l).state = 3 ∨ (s.link l).state = 4 → Completes (.peerReturn l) s (fun u =>
        u.link l = { s.link l with state := 1, fails := 0 } ∧ u.log = s.log ∧ SameBytes s u ∧ ∀ k, k ≠ l.val → u.link k = s.link k)) ∧
      (¬ ((s.link l).state = 3 ∨ (s.link l).state = 4) → exec (.peerReturn l) s = .next s))

/-- Retry, flits and messages (R293 to R295, R297, R299 to R303, R305, R310, R316, R340): a NAK or a timeout resends the unacknowledged flits
from a place on; a retrain keeps them and the partial messages; a flit that fails its checks is discarded with one NAK, the expected one is
taken, acknowledges, and as the last of its message makes it whole; the oldest whole message of a VC is discarded when it is bad, has been
forwarded 63 times, or is none that a Birov-mode link carries, and otherwise delivered here, forwarded on its route, or split; one
for a ring that is full stays, and one behind an earlier one of its flow waits. Flits are taken, resent and acknowledged while the hub has power.
Model's readings and choices: log 66, 67, 68 and 140. -/
def Obligations.LinkTransport : Prop :=
  ∀ (s : State) (l : LinkId),
    let k := s.link l
    let mode := s.lnkMode l
    let cnt := fun (off n : Nat) (u : State) => u.reg (rLnkCnt (l.val / 2) off) = countUp (s.reg (rLnkCnt (l.val / 2) off)) n
    (k.state ≠ 2 ∨ s.hubUp = false → ∀ seq f, exec (.nak l seq) s = .next s ∧ exec (.ackTimeout l) s = .next s ∧
      exec (.flitReceived l f) s = .next s) ∧
    (k.state ≠ 2 → ∀ c, exec (.linkRetrain l c) s = .next s) ∧
    (k.state = 2 →
      let resent := fun (i n : Nat) (u : State) => (∃ owed, u.link l = { k with retry := k.retry.drop i, resends := (if i = 0 then k.resends else 0) + 1, owed := owed }) ∧
        cnt 0x068 1 u ∧ cnt 0x040 n u
      (∀ seq, (∀ f ∈ k.retry, f.seq ≠ seq) → exec (.nak l seq) s = .next s) ∧
      (∀ (seq i : Nat) (f : TxFlit), k.retry[i]? = some f → f.seq = seq → (∀ j < i, ∀ g, k.retry[j]? = some g → g.seq ≠ seq) →
        s.hubUp = true → Completes (.nak l seq) s (resent i (k.retry.length - i))) ∧
      (k.retry = [] → exec (.ackTimeout l) s = .next s) ∧ (k.retry ≠ [] → s.hubUp = true → Completes (.ackTimeout l) s (resent 0 k.retry.length)) ∧
      (∀ c : RetrainCause,
        (c = .resends → k.resends < 16 → exec (.linkRetrain l c) s = .next s) ∧
        (c ≠ .resends ∨ 16 ≤ k.resends → Completes (.linkRetrain l c) s (fun u =>
          (u.link l).state = 1 ∧ (u.link l).retry = k.retry ∧ (u.link l).got = k.got ∧ (u.link l).peer = k.peer ∧ cnt 0x070 1 u ∧
          (k.unsent = [] → LogRoom s → Logged (linkEntry 1 l k.peer 0) s u)))) ∧
      (∀ f : Flit, s.hubUp = true →
        let w := wireFlitOf mode f.bytes
        let bad := f.fecBad = true ∨ crcFails mode f.bytes = true
        (bad → Completes (.flitReceived l f) s (fun u =>
          (∃ owed, u.link l = { k with nakked := true, owed := owed }) ∧ cnt 0x050 f.corrected u ∧ cnt 0x058 f.uncorrected u ∧ (f.fecBad = false → cnt 0x060 1 u) ∧
          (k.nakked = true → u.out = s.out) ∧
          (k.nakked = false → ∃ w : WireFlit, w.ftype = 2 ∧ w.ack = (k.rxSeq + s.seqMod l - 1) % s.seqMod l ∧ u.out = s.out ++ [.flit l (w.bytes mode)]))) ∧
        (¬ bad → w.ftype = 1 →
          (w.seq = k.rxSeq → w.vc < 8 → k.toSom = [] → Completes (.flitReceived l f) s (fun u =>
            let n := fun (v : Fin 8) => if w.som then 1 else k.got[v] + 1
            (u.link l).rxSeq = (w.seq + 1) % s.seqMod l ∧ (u.link l).nakked = false ∧ cnt 0x048 1 u ∧
            (∀ v : Fin 8, (u.link l).got[v] = if v.val = w.vc then (if w.eom then 0 else n v) else k.got[v]) ∧
            (∀ v : Fin 8, v.val = w.vc → (u.link l).ready = k.ready ++ (if w.eom then
              [msgOf mode (k.grown w).src (k.grown w).dst (k.grown w).mc w.vc (k.grown w).hops (n v) (k.grown w).data] else [])))) ∧
          (w.seq ≠ k.rxSeq → Completes (.flitReceived l f) s (fun u =>
            (u.link l).rxSeq = k.rxSeq ∧ (u.link l).got = k.got ∧ (u.link l).ready = k.ready ∧
            u.reg (rLnkCnt (l.val / 2) 0x048) = s.reg (rLnkCnt (l.val / 2) 0x048)))) ∧
        (∀ (i : Nat) (g : TxFlit), ¬ bad → k.retry[i]? = some g → g.seq = w.ack →
          (∀ j < i, ∀ h, k.retry[j]? = some h → h.seq ≠ w.ack) →
          Completes (.flitReceived l f) s (fun u => ∃ new, (u.link l).retry = k.retry.drop (i + 1) ++ new)))) ∧
    (∀ m : Msg,
      (k.nextOf m = false ∨ s.holdsUp m = true → exec (.messageDelivery l m) s = .next s) ∧
      (k.nextOf m = true → s.holdsUp m = false → s.hubUp = true →
        let bad := m.body.cls = none ∨ (∃ n, m.body = .belay (.reserved n)) ∨ m.lenOk = false ∨ m.mc = true ∧ m.body.cls ≠ some 2 ∨
          m.body.cls ≠ some (m.vc / 2)
        let gone := fun (off : Nat) (u : State) => u.inbox = s.inbox ∧ u.netWait = s.netWait ∧ (u.link l).ready = k.ready.erase m ∧
          (∀ j, j ≠ l.val → u.link j = s.link j) ∧ cnt off 1 u ∧ (LogRoom s → Logged (linkEntry 3 l k.peer m.body.mtype) s u)
        (mode ≠ 0 → (birovCarries mode m && s.birovDirect l m) = false → Completes (.messageDelivery l m) s (gone 0x098)) ∧
        (mode = 0 → bad → Completes (.messageDelivery l m) s (gone 0x088)) ∧
        (mode = 0 → ¬ bad → 63 ≤ m.hops → Completes (.messageDelivery l m) s (gone 0x080)) ∧
        (mode = 0 → ¬ bad → m.hops < 63 →
          (m.mc = false → m.dst = s.devId → m.body ≠ .belay .call → Completes (.messageDelivery l m) s (fun u =>
            u.inbox = s.inbox ++ [m] ∧ (u.link l).ready = k.ready.erase m ∧ (s.rowRing m 0 = none → SameBytes s u))) ∧
          (m.dst = s.devId ∨ m.mc = true ∧ m.dst2 = s.devId → m.body = .belay .call → s.job.st = .running → s.job.baseRun = false → s.job.stopReq = none →
            Completes (.messageDelivery l m) s (fun u => u.cairn.next = m.step ∧ u.cairn.st = 1 ∧ (m.mc = true → cnt 0x078 1 u))) ∧
          (m.mc = false → m.dst ≠ s.devId →
            (bitOf (s.route m.dst) 15 = false → Completes (.messageDelivery l m) s (gone 0x080)) ∧
            (bitOf (s.route m.dst) 15 = true → s.linkFor m.dst = none ∨ s.behind m = true → m.src ≠ s.devId → Completes (.messageDelivery l m) s (fun u =>
              u.inbox = s.inbox ∧ u.netWait = s.netWait ++ [{ m with hops := m.hops + 1 }] ∧ (u.link l).ready = k.ready.erase m)) ∧
            (∀ o dl, bitOf (s.route m.dst) 15 = true → s.linkFor m.dst = some (o, dl) → s.lnkMode o = 0 → s.behind m = false → m.src ≠ s.devId →
              let m' := { m with hops := m.hops + 1, vc := if dl = true ∧ m.vc % 2 = 0 then m.vc + 1 else m.vc }
              Completes (.messageDelivery l m) s (fun u => u.inbox = s.inbox ∧ begins (u.link o) m' = begins (s.link o) m' + 1))) ∧
          (m.mc = true → m.dst = s.devId → m.dst2 ≠ s.devId → m.body ≠ .belay .call → Completes (.messageDelivery l m) s (fun u =>
            u.inbox = s.inbox ++ [{ m with hops := m.hops + 1, mc := false, dst2 := 0 }] ∧ cnt 0x078 1 u)))))

/-- The peer's reset and ERR_PEERDOWN (R8, R306, R307, R381): an UP link that sees a reset notice or loses its peer keeps its retry buffer,
drops and counts its partial messages and flags the peer; the host's write sets the bits that it reaches, whole or one half, while such
accesses are served. -/
def Obligations.PeerEvents : Prop :=
  ∀ s : State, NoEventQueue s →
    (∀ l : LinkId,
      let k := s.link l
      let gone := fun (state : Nat) (u : State) =>
        (u.link l).state = state ∧ (u.link l).retry = k.retry ∧ (u.link l).got = Vector.replicate 8 0 ∧ (u.link l).parts = [] ∧
        (u.link l).nakked = false ∧ (u.link l).queue = k.begun ∧
        u.reg (rLnkCnt (l.val / 2) 0x090) =
          countUp (s.reg (rLnkCnt (l.val / 2) 0x090)) (k.got.toList.countP (fun n => decide (0 < n))) ∧
        u.peerDown k.peer = true
      (k.state = 2 → k.peer < 4096 → Completes (.resetNotice l) s (gone 3) ∧ Completes (.peerLost l) s (gone 4)) ∧
      (k.state ≠ 2 → exec (.resetNotice l) s = .next s ∧ exec (.peerLost l) s = .next s)) ∧
    (∀ (i : Iface) (w : Fin 64) (size half : Nat) (v : Word),
      let a := rPeerDown w.val
      let wrote := fun (x : Word) (u : State) => u.reg a = x ∧ (∀ n, n ≠ w.val → u.reg (rPeerDown n) = s.reg (rPeerDown n)) ∧
        SameBytes s u ∧ (u.anyPeerDown = true → LogRoom s → (u.findDeferral 6 none).isSome = true)
      (s.serves (ifaceNo i) = false → exec (.errPeerdownWrite i w size half v) s = .next s) ∧
      (s.serves (ifaceNo i) = true →
      (size = 8 → half % 2 = 0 → Completes (.errPeerdownWrite i w size half v) s (wrote v)) ∧
      (size = 4 → half % 2 = 0 → Completes (.errPeerdownWrite i w size half v) s
        (wrote ((s.reg a).extractLsb' 32 32 ++ v.extractLsb' 0 32))) ∧
      (size = 4 → half % 2 = 1 → Completes (.errPeerdownWrite i w size half v) s
        (wrote (v.extractLsb' 0 32 ++ (s.reg a).extractLsb' 0 32))) ∧
      (size ≠ 4 → size ≠ 8 ∨ half % 2 = 1 → LogRoom s → Completes (.errPeerdownWrite i w size half v) s (fun u =>
        u.reg a = s.reg a ∧ Logged (accessEntry 2 (a + 4 * (half % 2))) s u))))

/-! ### Errors, hangs and recovery (R165, R166, R371 to R391) -/

/-- The patrol scrubber and channel retrains (R165, R166, R182, R386): a clean granule is passed over, a single-bit upset is corrected and
counted, a double one poisons the granule and is logged; a channel due to retrain retrains, its entry is done when that ends, and a
retrain that fails is a DMEM 0x03 entry.
Model's readings and choices: log 16 and 87. -/
def Obligations.MemoryMaintenance : Prop :=
  ∀ (s : State), NoEventQueue s →
    (∀ (t : TileId) (x : Option (Fin 8 × Bool)),
      let off := 64 * ((s.tile t).scrub % 98304)
      let base := t.val * 0x800000 + off
      let last := fun (w : Fin 8) (unc : Bool) => BitVec.ofNat 64 (2 ^ 31 + (if unc then 2 ^ 30 else 0) + off + 8 * w.val)
      let moved := fun (u : State) => (u.tile t).scrub = ((s.tile t).scrub + 1) % 98304 ∧ (u.tile t).ctxs = (s.tile t).ctxs ∧
        (∀ n, n ≠ t.val → u.tile n = s.tile n) ∧ SameBytes s u
      (s.clockRuns t = false → exec (.patrolScrub t x) s = .next s) ∧
      (s.clockRuns t = true → CleanT0 s base 64 →
        (x = none → Completes (.patrolScrub t x) s (fun u => moved u ∧ u.regs = s.regs ∧ u.log = s.log)) ∧
        (∀ w, x = some (w, false) → Completes (.patrolScrub t x) s (fun u => moved u ∧ u.log = s.log ∧
          u.upset.get (fun _ => 0) (base + 8 * w.val) = 0 ∧ u.poison = s.poison ∧
          u.reg (rCntCe t) = countUp (s.reg (rCntCe t)) 1 ∧ u.reg (rEccLast t) = last w false)) ∧
        (∀ w, x = some (w, true) → Completes (.patrolScrub t x) s (fun u => moved u ∧
          u.poison.get (fun _ => false) base = true ∧ u.reg (rEccLast t) = last w true ∧
          (LogRoom s → Logged ⟨0, 3, 3, 0, 0, 0, 0, 0, 0, 0, t, 0, 0xF, (last w true).toNat, 0, 0⟩ s u))))) ∧
    (∀ (c : Fin 96) (ok : Bool),
      (c.val ∉ s.rst.chRetrain → exec (.channelRetrain c) s = .next s) ∧
      (c.val ∈ s.rst.chRetrain → Completes (.channelRetrain c) s (fun u =>
        c.val ∉ u.rst.chRetrain ∧ c.val ∈ u.rst.chBusy ∧ u.reg (hubReg 4 0x078) = countUp (s.reg (hubReg 4 0x078)) 1 ∧
        u.log = s.log ∧ SameBytes s u)) ∧
      (c.val ∉ s.rst.chBusy → exec (.channelRetrainComplete c ok) s = .next s) ∧
      (c.val ∈ s.rst.chBusy → Completes (.channelRetrainComplete c ok) s (fun u =>
        c.val ∉ u.rst.chBusy ∧ SameBytes s u ∧ SameRegsBut [] s u ∧
        (∀ n e, s.rst.handling = some n → s.entry n = some e → e.cls = 4 → e.cause = 2 → e.d5 = c.val → ok = true →
          u.entry n = some { e with state := 2, tend := s.aon.toNat } ∧ u.rst.handling = none) ∧
        (ok = false → s.rst.handling = none → LogRoom s → Logged ⟨0, 4, 3, 0, 0, 0, 0, 0, 0, 0, 0x400 + c.val / 4, 0, 0xF, c.val, 0, 0⟩ s u))))

/-- Handling an error (R371, R373, R375, R377, R378, R382): with nothing pending nothing happens; an entry that is only recorded is done; a
tile memory error of program, save or committed state calls for a device reset, another abandons the attempt before the commit point
and finishes the tile after it; a STEP 0x03 or 0x04 entry halts the job; a HANG entry starts the search of its tile among the suspects of its
expiry.
Model's readings and choices: log 81, 82 and 162. -/
def Obligations.ErrorHandling : Prop :=
  ∀ s : State,
    (s.pendingEntry = none → exec .errorHandlingStart s = .next s) ∧
    (∀ e : LogEntry, s.pendingEntry = some e → s.entry e.seq = some e → s.rst.phase = .none → s.rst.handling = none →
      s.rst.trigger = none → s.rst.chRetrain = [] → s.rst.chBusy = [] → (∀ t : TileId, (s.tile t).search = none) → s.pastCommit = false →
      let done := fun (u : State) => u.entry e.seq = some { e with state := 2, tend := s.aon.toNat } ∧ u.rst.handling = none
      (e.recordedOnly = true → Completes .errorHandlingStart s (fun u =>
        done u ∧ SameBytes s u ∧ u.tiles = s.tiles ∧ u.step = s.step ∧ u.regs = s.regs)) ∧
      (e.recordedOnly = false → e.cls = 3 → e.unit < 640 → s.tmemFatal e.unit e.d5 = true → Completes .errorHandlingStart s (fun u =>
        u.rst.trigger = some (1, e.seq) ∧ u.rst.handling = some e.seq ∧ u.entry e.seq = some { e with state := 1 } ∧
        SameBytes s u ∧ u.tiles = s.tiles)) ∧
      (e.recordedOnly = false → (e.cls = 3 ∧ e.unit < 640 ∧ s.tmemFatal e.unit e.d5 = false ∨ e.cls = 5 ∧ e.cause = 3) →
        s.job.st = .running → s.step.halted = none → s.step.stopped = false → s.step.decision = none → s.rst.abandons = none →
        (∀ d ∈ s.memberIds, Reachable s d) → Reachable s s.leader → Completes .errorHandlingStart s (fun u =>
          done u ∧ u.step.stopped = true ∧ u.rst.abandons = some (s.curStep, s.step.att, e.cls, e.cause, 1) ∧
          u.reg (hubReg 4 0x060) = countUp (s.reg (hubReg 4 0x060)) 1 ∧
          (∀ l ∈ s.allStepCtxs, (s.ctx l).alive = true → (u.ctx l).mode = .held) ∧
          (s.step.reported = false → s.memberIds = [s.devId] →
            ownMsg s s.devId s.curStep s.step.att .rejoin ∈ u.inbox))) ∧
      (e.cls = 7 → e.cause = 3 ∨ e.cause = 4 → s.job.st = .running → s.step.halted = none → s.job.stopReq = none →
        s.upset.get (fun _ => 0) (s.descAt s.evq) = 0 → Completes .errorHandlingStart s (fun u =>
        done u ∧ u.step.halted = some e.seq ∧ u.step.phase = 4 ∧ u.step.no = s.step.no ∧
        ∀ l ∈ s.allStepCtxs, (s.ctx l).alive = true → (u.ctx l).mode = .held))) ∧
    (∀ (e : LogEntry) (t : TileId), s.pendingEntry = some e → s.entry e.seq = some e → s.rst.phase = .none → s.rst.handling = none →
      s.rst.trigger = none → (s.tile t).search = none → e.unit = t.val →
      (∀ d n a, s.step.decision = some (d, n, a) → d = .commit ∨ d = .skip → (s.tile t).passed = false →
        e.cls = 3 → e.recordedOnly = false → s.tmemFatal t e.d5 = false → s.struckTile e = t.val → s.job.st = .running → t.val ∉ s.step.finished → NoUpsets s →
        Completes .errorHandlingStart s (fun u => u.step.finished = s.step.finished ++ [t.val] ∧ u.step.decision = s.step.decision ∧
          u.reg (hubReg 4 0x068) = countUp (s.reg (hubReg 4 0x068)) 1 ∧ u.rst.handling = none)) ∧
      (e.cls = 8 → s.pastCommit = false → (∀ x ∈ (s.tile t).expired, x.seq ≠ e.seq) → Completes .errorHandlingStart s (fun u =>
        u.entry e.seq = some { e with state := 2, tend := s.aon.toNat } ∧ u.rst.handling = none ∧ u.tiles = s.tiles)) ∧
      (∀ (x : Expired) (c : CtxId) (rest : List CtxId), e.cls = 8 → s.pastCommit = false → NoUpsets s →
        (s.tile t).expired.find? (fun x => decide (x.seq = e.seq)) = some x → x.suspects = c :: rest →
        Completes .errorHandlingStart s (fun u =>
          u.rst.handling = some e.seq ∧ (u.tile t).engStop = [] ∧
          (∃ k, (u.tile t).search = some k ∧ k.seq = e.seq ∧ k.suspects = c :: rest ∧ k.todo = c :: rest ∧ k.pos = x.pos ∧ k.again = [] ∧ k.restarts = 0) ∧
          (∀ i, i ≠ c → (s.ctx ⟨t, i⟩).mode = .run ∨ (s.ctx ⟨t, i⟩).mode = .wait → (u.ctx ⟨t, i⟩).mode = .held) ∧
          (s.offPhase ⟨t, c⟩ (s.pairAt (some t.val)).1 = false → (u.ctx ⟨t, c⟩).mode = .run) ∧
          (u.ctx ⟨t, c⟩).pc = (SavedCtx.ofBytes ⟨t, c⟩ (s.bytes (s.saveAddr ⟨t, c⟩) 1024)).pc ∧
          ∀ f : Fin 6, (u.tile t).queues[f] = [] ∧ (u.tile t).active[f] = [])))

/-- The hang search (R380, R382, R384, R385): a running window that nothing pauses stops its unit, with a HANG entry, an open deferral, and the
suspects and positions of its expiry; a
suspect that reaches its position is clear; one that hangs again is parked, unless what it waits on is in reset; the last verdict ends
the search.
Model's readings and choices: log 74 and 162. -/
def Obligations.HangSearch : Prop :=
  ∀ s : State,
    (∀ (l : Loc) (x : Expiry),
      let unit := x.unit
      let mark := if unit = 0 then 6 else unit.val - 1
      let idle := s.windowRuns l unit = false ∨ s.windowPaused l unit = true ∨ (s.tile l.tile).search ≠ none ∨ mark ∈ (s.tile l.tile).engStop
      (idle → exec (.hangDetected l x) s = .next s) ∧
      (¬ idle → LogRoom s → (∀ e, s.log.slots.get (fun _ => none) ((s.log.next + 1) % 2 ^ 32 % 64) = some e → e.state = 2) →
        s.log.next < 2 ^ 32 → Completes (.hangDetected l x) s (fun u =>
          (u.tile l.tile).engStop = (s.tile l.tile).engStop ++ [mark] ∧ (∀ k, u.ctx k = s.ctx k) ∧
          u.reg (hubReg 4 0x040) = countUp (s.reg (hubReg 4 0x040)) 1 ∧
          u.log.slots.get (fun _ => none) (s.log.next % 64) = some ⟨s.log.next, 8, 1, 0, 0, 0, s.aon.toNat, 0, s.step.no, s.step.att,
            l.tile, l.ctx, if unit = 0 then 0xE else unit.val - 1, 0, 0, 0⟩ ∧
          (∃ e, u.log.slots.get (fun _ => none) ((s.log.next + 1) % 2 ^ 32 % 64) = some e ∧ e.cls = 0xB ∧ e.cause = 9 ∧ e.state = 3 ∧
            e.d5 = l.tile.val) ∧
          ∃ k, (u.tile l.tile).expired = (s.tile l.tile).expired ++ [k] ∧ k.seq = s.log.next ∧
            (∀ c : CtxId, c ∈ k.suspects ↔ (s.ctx ⟨l.tile, c⟩).alive = true ∧ (c ∈ x.had ∨
              (unit = 0 ∧ ((s.ctx ⟨l.tile, c⟩).mode = .run ∨ (s.ctx ⟨l.tile, c⟩).mode = .wait) ∨
               ∃ f : Fin 6, unit.val = f.val + 1 ∧ (s.tile l.tile).uses c f = true))) ∧
            ∀ c : CtxId, (c.val, (s.ctx ⟨l.tile, c⟩).pc.toNat, (s.ctx ⟨l.tile, c⟩).prog.toList) ∈ k.pos)) ∧
    (s.searching = none → exec .replayPositionReached s = .next s ∧ exec .replayHangAgain s = .next s) ∧
    (∀ (t : TileId) (k : Search) (c : CtxId) (rest : List CtxId), s.searching = some (t, k, c) → k.todo = c :: rest → s.early t = false →
      let there := s.atPosition ⟨t, c⟩ k = true
      let goes := fun (again peer : List CtxId) (u : State) =>
        (rest ≠ [] → ∃ k', (u.tile t).search = some k' ∧ k'.todo = rest ∧ k'.suspects = k.suspects ∧ k'.again = again ∧ k'.peerWait = peer) ∧
        (rest = [] → (u.tile t).search = none ∧ u.rst.handling = none ∧
          ((∀ x ∈ again, x ∈ peer) → u.reg (hubReg 4 0x048) = countUp (s.reg (hubReg 4 0x048)) 1))
      (¬ there → exec .replayPositionReached s = .next s) ∧
      (there → exec .replayHangAgain s = .next s ∧ Completes .replayPositionReached s (goes k.again k.peerWait)) ∧
      (¬ there → (s.waitDevs ⟨t, c⟩).any s.peerDown = true → Completes .replayHangAgain s (fun u =>
        goes (k.again ++ [c]) (k.peerWait ++ [c]) u ∧ u.reg (hubReg 4 0x050) = countUp (s.reg (hubReg 4 0x050)) 1)) ∧
      (¬ there → (s.waitDevs ⟨t, c⟩).any s.peerDown = false → Completes .replayHangAgain s (fun u =>
        goes (k.again ++ [c]) k.peerWait u ∧ (c ∉ rest → (u.ctx ⟨t, c⟩).mode = .parked) ∧
        u.reg (hubReg 4 0x058) = countUp (s.reg (hubReg 4 0x058)) 1))))

/-- The device reset (R9, R306, R386 to R393, R447, R458): a request or a trigger begins one, with notices on every UP link; a silent unit is
marked unreadable; a sealed dump lies in its slot and the domains reset, tile memory with them, while the always-on domain, T1 and the
log stay, but for the suspensions that end; the verified
device reloads its image, recovers its step, and rejoins, once it has finished one past its commit point; a reset that fails is counted, and the
third leaves the device FAILED. No memory errors after the restart, and an image in T1.
Model's readings and choices: log 70, 71, 78, 83, 84, 85, 163, 164 and 165. -/
def Obligations.DeviceReset : Prop :=
  ∀ s : State, NoEventQueue s →
    let r := s.rst
    let failed := fun (u : State) => u.rst.failRun = r.failRun + 1 ∧ (2 ≤ r.failRun → u.rst.phase = .failed ∧ u.rst.trigger = none)
    (∀ (i : Iface) (v : Word), s.serves (ifaceNo i) = true → Completes (.resetreqGo i v) s (fun u =>
      (r.phase ≠ .failed → r.trigger = none → ∃ q, u.rst.trigger = some (2, q)) ∧ (r.trigger ≠ none → u.rst.trigger = r.trigger) ∧
      (r.phase = .failed → u.rst = r) ∧ u.tiles = s.tiles ∧ SameBytes s u)) ∧
    (r.trigger = none → exec .deviceResetBegin s = .next s) ∧
    (∀ cause seq, r.trigger = some (cause, seq) →
      (r.phase = .none → Completes .deviceResetBegin s (fun u =>
        u.rst.phase = (if cause = 3 then .hold else .dump) ∧ u.rst.cause = cause ∧ u.rst.trigSeq = seq ∧ u.rst.trigger = none ∧
        u.rst.began = s.aon.toNat ∧ u.reg (hubReg 4 0x080) = countUp (s.reg (hubReg 4 0x080)) 1 ∧ u.tiles = s.tiles ∧
        (cause ≠ 3 → SameBytes s u) ∧
        (cause = 3 → u.rst.feedRec = some (s.log, s.sluice) ∧ SameBytesBut (s.dumpAddr r.nextSlot).1 (s.dumpAddr r.nextSlot).2 s u) ∧
        (∃ w : Nat → WireFlit, (∀ l, (w l).ftype = 3) ∧
          u.out = s.out ++ ((List.range 24).filter (fun l => decide ((s.link l).state = 2))).map (fun l => .flit l ((w l).bytes (s.lnkMode l)))) ∧
        (bitOf r.dumpValid 0 = false → u.rst.dumpSlot = 0) ∧ (bitOf r.dumpValid 0 = true → bitOf r.dumpValid 1 = false → u.rst.dumpSlot = 1) ∧
        (bitOf r.dumpValid 0 = true → bitOf r.dumpValid 1 = true → u.rst.dumpSlot = 1 - r.dumpNewest))) ∧
      (r.phase = .failed → exec .deviceResetBegin s = .next s) ∧
      (r.phase ≠ .none → r.phase ≠ .failed → Completes .deviceResetBegin s (fun u =>
        failed u ∧ (r.failRun < 2 → u.rst.phase = (if cause = 3 then .hold else .dump) ∧ u.rst.cause = (if cause = 3 then 3 else 7))))) ∧
    ((r.phase = .dump ∨ r.phase = .restart ∨ r.phase = .reload ∨ r.phase = .recovering) → Completes .deviceResetFail s (fun u =>
      failed u ∧ (r.failRun < 2 → r.trigger = none → LogRoom s → u.rst.phase = .none ∧ u.rst.trigger = some (7, s.log.next) ∧
        u.rst.trigAt = (s.aon.toNat, s.step.no, s.step.att)))) ∧
    (¬ (r.phase = .dump ∨ r.phase = .restart ∨ r.phase = .reload ∨ r.phase = .recovering) → exec .deviceResetFail s = .next s) ∧
    (¬ (r.phase = .dump ∧ r.dumpAt < dumpUnits.length) → exec .dumpUnitTimeout s = .next s) ∧
    (r.phase = .dump → r.dumpAt < dumpUnits.length → Completes .dumpUnitTimeout s (fun u =>
      ∃ n, r.dumpAt ≤ n ∧ n < dumpUnits.length ∧ u.rst.dumpAt = n + 1 ∧ u.rst.unreadable = r.unreadable ++ [(dumpUnits.getD n 0, 1)])) ∧
    (r.phase ≠ .dump → exec .dumpSealed s = .next s) ∧
    (r.phase = .dump → NoUpsets s → s.job.sizes.1 ≤ 64 → r.dumpSlot < 2 → r.dumpValid < 4 → SMap.wf (fun _ => Tile.reset) s.tiles = true →
      let a := t1End - s.job.sizes.1 * 2 ^ 24 + r.dumpSlot * (s.job.sizes.1 * 2 ^ 23)
      Completes .dumpSealed s (fun u =>
        u.rst.phase = .restart ∧ bitOf u.rst.dumpValid r.dumpSlot = true ∧ u.rst.dumpNewest = r.dumpSlot ∧ u.mgmt.base = true ∧
        u.bytes a s.dump.length = s.dump ∧ (s.dump.length < 2 ^ 38 → u.peek (a + 4) 4 = dumpUnits.length + 2 ^ 16) ∧ u.peek (a + 8) 8 = r.trigAt.1 % 2 ^ 64 ∧ u.peek (a + 16) 8 = r.trigAt.2.1 % 2 ^ 64 ∧
        (∀ b, b < t0End → u.byte b = unlisted s.undef b) ∧
        (∀ b, t0End ≤ b → ¬ (a ≤ b ∧ b < a + s.dump.length) → u.byte b = s.byte b) ∧
        (∀ b, u.reg b = if keptReg b then s.reg b else regReset b) ∧
        (∀ l : Loc, (u.ctx l).mode = if (s.ctx l).alive then .idle else (s.ctx l).mode) ∧
        (∀ t, (u.tile t).queues = Vector.replicate 6 [] ∧ (u.tile t).active = Vector.replicate 6 []) ∧
        ((∀ e ∈ s.tiles, e.2.search = none) → ∀ n e, s.entry n = some e →
          let ends := e.cls = 0xB ∧ e.cause ∈ [3, 4, 5, 6, 9] ∧ e.state = 3
          (¬ ends → u.entry n = some e) ∧ (ends → u.entry n = some { e with state := 2, tend := s.aon.toNat })) ∧
        u.log.next = s.log.next ∧ u.aon = s.aon ∧ (s.mgmt.update = none → u.flash = s.flash) ∧ u.sluice.budget = s.sluice.budget ∧
        u.step.lastDec = 0 ∧ u.step.phase = 0 ∧ u.belay = s.belay ∧ u.book.divStep = 0 ∧ u.host.pbrid = 0 ∧
        u.inbox = [] ∧ u.netWait = [])) ∧
    (∀ found : List Nat,
      let seals := [0, 1].any (fun k => bitOf r.dumpValid k && !s.sealOk k)
      let bad := (found ++ (if seals then [0] else [])).eraseDups
      (r.phase ≠ .restart ∨ s.mgmt.joined.length < 24 → exec (.t1Verified found) s = .next s) ∧
      (r.phase = .restart → 24 ≤ s.mgmt.joined.length → NoUpsets s →
        (s.job.st = .empty → s.host.perst = false → s.job.startReq = none → Completes (.t1Verified found) s (fun u =>
          u.rst.phase = .none ∧ u.rst.failRun = 0 ∧ u.mgmt.base = false ∧ u.rst.handling = none)) ∧
        (s.host.perst = true → s.job.st = .empty → Completes (.t1Verified found) s (fun u => u.rst.phase = .waiting ∧ SameBytes s u)) ∧
        (s.job.st ≠ .empty → (∀ x ∈ bad, x < 2) → Completes (.t1Verified found) s (fun u => u.rst.phase = .reload ∧ u.rst.bad = bad ∧
          (0 ∈ bad → u.rst.dumpValid = 0) ∧ u.job = s.job ∧ SameBytes s u ∧ SameRegsBut [] s u)) ∧
        (s.job.st = .running → (∃ x ∈ bad, 2 ≤ x) → Completes (.t1Verified found) s (fun u =>
          u.rst.phase = .reload ∧ (s.partner ≠ none → u.belay.fill = 3 ∧ u.cairn.st = 5) ∧ (s.partner = none → u.job.st = .loaded))))) ∧
    (∀ img : ImageRead,
      (r.phase ≠ .reload ∨ s.belay.fill = 3 → exec (.jobImageReload img) s = .next s) ∧
      (r.phase = .reload → s.belay.fill ≠ 3 → s.host.perst = false → s.job.startReq = none →
        (s.job.baseRun = true → Completes (.jobImageReload img) s (fun u => u.job.st = .empty ∧ u.job.img = none ∧ u.rst.phase = .none)) ∧
        (s.job.baseRun = false → s.farWaits s.job.addr = true → exec (.jobImageReload img) s = .next s) ∧
        (s.job.baseRun = false → tierOf s.job.addr = .t1 → NoUpsets s →
          (img = .unreadable → Completes (.jobImageReload img) s failed) ∧
          (∀ i j, img = .image i → s.job.img = some j → s.job.st = .running →
            let bs := s.bytes s.job.addr s.job.len
            let same := imageDigest j bs = s.job.ident ∧ imageCarried j bs = s.job.ident
            (same → Completes (.jobImageReload img) s (fun u => u.mgmt.base = false ∧
              (r.bad = [] → s.step.decision = none → s.step.reported = false → u.rst.phase = .rejoining ∧ u.step.stopped = true ∧
                u.step.no = s.step.no ∧ u.step.decision = none) ∧
              (∀ d n a, r.bad = [] → s.step.decision = some (d, n, a) → d = .commit ∨ d = .skip → u.rst.phase = .recovering ∧
                u.step.resume = true ∧ u.step.phase = 5 ∧ u.step.decision = s.step.decision))) ∧
            (¬ same → Completes (.jobImageReload img) s failed)))))

/-- Dump copies (R357, R373, R387, R391, R395): GO takes the bus address and the slot; a copy that ends leaves the slot's bytes in host memory, or a
HOST 0x01 entry when its write failed; an uncorrectable burst of the slot is an error of the ERR_ block, which resets the device. No copy
ends well while the link serves no write, or writes stop; a 1 written to a slot's valid bit frees it. -/
def Obligations.DumpCopy : Prop :=
  ∀ s : State, NoEventQueue s →
    (∀ (i : Iface) (v : Word),
      s.serves (ifaceNo i) = true → s.rst.copyBusy = false → Completes (.dumpcpyGo i v) s (fun u =>
        u.rst = { s.rst with copyBusy := true } ∧ wfld (u.reg rDumpCpy) 63 12 = wfld v 63 12 ∧
        wfld (u.reg rDumpCpy) 1 1 = wfld v 1 1 ∧ SameBytes s u ∧ u.log = s.log)) ∧
    (∀ ok : Bool,
      let dst := t2Base + wfld (s.reg rDumpCpy) 63 12 * 4096
      let n := s.job.sizes.1 * 2 ^ 23
      let src := t1End - s.job.sizes.1 * 2 ^ 24 + wfld (s.reg rDumpCpy) 1 1 * n
      (s.rst.copyBusy = false → exec (.dumpCopyDone ok) s = .next s) ∧
      (s.rst.copyBusy = true →
        (ok = true → s.hostUp = false ∨ s.writesStop = true → exec (.dumpCopyDone ok) s = .next s) ∧
        (ok = true → s.hostUp = true → s.writesStop = false → CleanAt s src n → Completes (.dumpCopyDone ok) s (fun u =>
          u.rst.copyBusy = false ∧ u.bytes dst n = s.bytes src n ∧ SameBytesBut dst n s u)) ∧
        (ok = true → s.hostUp = true → s.writesStop = false → (∃ w ∈ burstsOf src n, 2 ≤ s.upset.get (fun _ => 0) w) → (∀ w ∈ burstsOf src n, s.upset.get (fun _ => 0) w ≠ 1) → LogRoom s →
          Completes (.dumpCopyDone ok) s (fun u => u.rst.copyBusy = false ∧ SameBytes s u ∧
            Logged ⟨0, 4, 1, 1, 0, 0, 0, 0, 0, 0, 0x704, 0, 0xF, src, 0, 0⟩ s u ∧
            (s.rst.trigger = none → u.rst.trigger = some (6, s.log.next)))) ∧
        (ok = false → LogRoom s → Completes (.dumpCopyDone ok) s (fun u => u.rst.copyBusy = false ∧ SameBytes s u ∧
          Logged ⟨0, 6, 1, 2, 0, 0, 0, 0, 0, 0, 0xFFFF, 0, 0xF, dst, 0, 0⟩ s u)))) ∧
    (∀ v : Word, s.serves 1 = true → Completes (.registerWrite (.bar0 0x40028) 8 v) s (fun u =>
      u.rst.copyBusy = s.rst.copyBusy ∧ ∀ b < 2, bitOf u.rst.dumpValid b = (bitOf s.rst.dumpValid b && !v.getLsbD b)))

/-! ### Cairns, belay and replay (R399 to R419) -/

/-- Calls and copies (R268, R403, R404, R406, R410, R411): the leader calls a cairn when one is due or asked for, and tells every member; it does
not decide the step before it without every CALLACK; the copy engine sends a marked row and clears CPEND, and passes over an unmarked one.
A base camp job calls none, and nothing is copied while writes stop.
Model's readings and choices: log 57. -/
def Obligations.CairnCommands : Prop :=
  ∀ s : State,
    (s.leader ≠ s.devId ∨ s.job.st ≠ .running ∨ s.job.baseRun = true ∨ s.cairn.next ≠ 0 ∨ s.cairn.st ≠ 0 ∨ s.step.halted ≠ none →
      exec .cairnCallIssue s = .next s) ∧
    (s.leader = s.devId → s.job.st = .running → s.job.baseRun = false → s.cairn.next = 0 → s.cairn.st = 0 → s.step.halted = none → s.step.decision = none →
      s.job.stopReq = none → s.job.img.bind (·.phase) = none →
      let called := fun (c : Nat) (u : State) => u.cairn.next = c ∧ u.cairn.st = 1 ∧ u.cairn.early = false ∧
        ∀ d ∈ s.others, bitOf (s.route d) 15 = true → ∀ o dl, s.linkFor d = some (o, dl) → s.lnkMode o = 0 →
          s.behind (ownMsg s d c 0 (.belay .call)) = false → begins (s.link o) (ownMsg s d c 0 (.belay .call)) < begins (u.link o) (ownMsg s d c 0 (.belay .call))
      (s.cairn.early = true → Completes .cairnCallIssue s (fun u => called (s.step.no + 1) u ∧
        u.reg (hubReg 8 0x068) = countUp (s.reg (hubReg 8 0x068)) 1)) ∧
      (s.cairn.early = false → s.cairn.cost = none →
        (s.cairn.lastC + 1000 ≤ s.step.no + 2 → Completes .cairnCallIssue s (called (max (s.cairn.lastC + 1000) (s.step.no + 1)))) ∧
        (s.step.no + 2 < s.cairn.lastC + 1000 → exec .cairnCallIssue s = .next s))) ∧
    (∀ m : Msg, s.writesStop = true ∨ s.job.st ≠ .running → exec (.callack m) s = .next s) ∧
    (∀ m : Msg, m ∈ s.inbox → s.leader = s.devId → s.job.st = .running → Takes s →
      let ready := s.step.decision = none ∧ s.step.halted = none ∧ s.step.rejoined = false ∧ 0 < s.cairn.st ∧
        s.cairn.next = s.step.no + 1 ∧ s.nonfinite = false ∧ s.step.spoilt = false ∧ (s.step.no, s.step.att) ∉ s.step.barred
      (m.body = .belay .callack →
        (m.step ≠ s.cairn.next → Completes (.callack m) s (fun u => u = { s with inbox := s.inbox.erase m })) ∧
        (m.step = s.cairn.next → Completes (.callack m) s (fun u => m.src ∈ u.cairn.acks ∧ (∀ x ∈ s.cairn.acks, x ∈ u.cairn.acks) ∧
          (ready → (∀ d ∈ s.memberIds, ∃ r ∈ s.step.reports, r.1 = d) → (∀ x ∈ s.step.reports, ∀ y ∈ s.step.reports, x.2 = y.2) →
            ((∀ d ∈ s.memberIds, d = m.src ∨ d ∈ s.cairn.acks) → u.step.decision = some (.commit, s.step.no, s.step.att)) ∧
            ((∃ d ∈ s.memberIds, d ≠ m.src ∧ d ∉ s.cairn.acks) → u.step.decision = none))))) ∧
      (∀ dg, m.body = .stepReport dg → Current none m s → ready → (∃ d ∈ s.memberIds, d ∉ s.cairn.acks) →
        (∀ x ∈ s.step.reports, x.2 = dg) → Completes (.stepReport m) s (fun u => u.step.decision = none))) ∧
    (∀ t : TileId,
      (¬ (s.cairn.st = 2 ∨ s.cairn.st = 3) ∨ s.writesStop = true ∨ (∀ r ∈ s.cairn.frozen, r.tile ≠ t.val) → exec (.cairnRowCopy t) s = .next s) ∧
      (∀ (r : DirtyRow) (d : TableDesc) (a : Nat), s.cairn.st = 2 ∨ s.cairn.st = 3 →
        s.cairn.frozen.find? (fun r => decide (r.tile = t.val)) = some r → s.table r.table = some d → 0 < d.stride →
        s.hotRow (d.home r.index) r.table r.slot r.index = none → s.hotRow r.tile r.table r.slot r.index = none →
        s.rowLoc r.table r.slot r.index = some a → (∀ x ∈ (a, 0) :: s.lookupReads d r.table r.slot r.index, tierOf x.1 ≠ .t2 ∧ tierOf x.1 ≠ .t3) →
        NoUpsets s → NoEventQueue s → s.writesStop = false →
        let row := s.bytes a d.stride
        Completes (.cairnRowCopy t) s (fun u => u.cairn.frozen = s.cairn.frozen.erase r ∧
          (bitOf (s.peek a 16) 42 = false → SameBytes s u) ∧
          (bitOf (s.peek a 16) 42 = true → u.peek a 16 = setFld (s.peek a 16) 42 42 0 ∧ SameBytesBut a 16 s u ∧
            ∀ p o dl, s.partner = some p → p ≠ s.devId → bitOf (s.route p) 15 = true → s.linkFor p = some (o, dl) → s.lnkMode o = 0 →
              let m := ownMsg s p s.cairn.next 0 (.belay (.rowcopy r.table r.slot r.index row))
              s.behind m = false → begins (s.link o) m < begins (u.link o) m))))

/-- The belay store and the end of a cairn (R408, R412, R413, R415): a ward's rows and shadows are stored and counted, its records stored, and
nothing of a device that is no ward; before START nothing is taken; SEAL is answered once all that it counts is stored; SEALED ends the device's part or a VREADY;
with every DONE the leader, and at COMPLETE each member, has the cairn and frees the records of steps before it.
Model's readings and choices: log 28, 58 and 89. -/
def Obligations.BelayStore : Prop :=
  (∀ (s : State) (m : Msg), s.writesStop = true ∨ s.job.st ≠ .running → ∀ c ∈ ([.rowcopy m, .shadow m, .rtbrec m, .belaySeal m, .belaySealed m, .belayDone m,
    .belayComplete m] : List Instr), exec c s = .next s) ∧
  ∀ (s : State) (m : Msg), m ∈ s.inbox → s.job.st = .running → Takes s →
    let r := { s with inbox := s.inbox.erase m }
    let ward := m.src ∈ s.wards
    let room := fun (i : BelayItem) => (s.belay.store.map (fun e => e.item.size)).sum + i.size ≤ s.belayRoom
    let without := fun (c : Nat) (i : BelayItem) =>
      s.belay.store.filter (fun e => !(decide (e.ward = m.src ∧ e.cairn = c) && e.item.same i))
    let kept := fun (c : Nat) (i : BelayItem) (u : State) => u.belay.store = without c i ++ [⟨m.src, c, i⟩] ∧ u.inbox = s.inbox.erase m
    let counted := fun (x : Instr) (i : BelayItem) =>
      (ward → room i → Completes x s (fun u => kept m.step i u ∧ u.stored m.src m.step = s.stored m.src m.step + 1)) ∧
      (ward → s.belayRoom < i.size → (⟨m.src, m.step, i⟩ : BelayRec) ∉ s.belay.store → Completes x s (fun u => u.belay = s.belay ∧ u.inbox = s.inbox.erase m)) ∧
      (¬ ward → Completes x s (fun u => u = r))
    let ended := fun (u : State) => u.cairn.lastC = m.step ∧ u.cairn.next = 0 ∧ u.cairn.st = 0 ∧
      ∀ x ∈ u.book.recs, x.type ≠ 8 → x.type ≠ 9 → m.step ≤ x.step ∨ x.type = 4
    (∀ t v x row, m.body = .belay (.rowcopy t v x row) → counted (.rowcopy m) (.row t v x row)) ∧
    (∀ t o bs, m.body = .belay (.shadow t o bs 0) → counted (.shadow m) (.shadow t o bs)) ∧
    (∀ x, m.body = .belay (.rtbrec x 0) →
      (ward → room (.record x) → Completes (.rtbrec m) s (fun u => kept x.step (.record x) u ∧ u.belay.got = s.belay.got)) ∧
      (¬ ward → Completes (.rtbrec m) s (fun u => u = r))) ∧
    (∀ n, m.body = .belay (.sealOf n) →
      (s.stored m.src m.step < n → exec (.belaySeal m) s = .next s) ∧
      (n ≤ s.stored m.src m.step → Completes (.belaySeal m) s (Sends m.src m.step 0 (.belay (.sealedOf n)) r))) ∧
    (∀ n, m.body = .belay (.sealedOf n) →
      let mine := m.step = s.cairn.next ∧ s.cairn.st = 3 ∧ s.cairn.sealAsked = true ∧ n = s.cairn.msgs
      (s.job.readyReq = none →
        (mine → Completes (.belaySealed m) s (fun u => u.cairn.st = 4 ∧ u.cairn.sealed = true ∧
          Sends s.leader s.cairn.next 0 (.belay .done) r u)) ∧
        (¬ mine → Completes (.belaySealed m) s (fun u => u = r))) ∧
      (∀ q tag c k t v, s.job.readyReq = some (q, tag, c, k, t, v) → (s.slotStates t).length = 4 → v < 4 → ¬ mine →
        (m.step = c → k ≤ n → Completes (.belaySealed m) s (fun u => u.job.readyReq = none ∧ u.slotState t v = 1 ∧ u.cairn = s.cairn)) ∧
        (m.step ≠ c ∨ n < k → Completes (.belaySealed m) s (fun u => u = r)))) ∧
    (m.body = .belay .done →
      (m.step ≠ s.cairn.next ∨ s.leader ≠ s.devId → Completes (.belayDone m) s (fun u => u = r)) ∧
      (m.step = s.cairn.next → s.leader = s.devId →
        ((∃ d ∈ s.memberIds, d ≠ m.src ∧ d ∉ s.cairn.dones) → Completes (.belayDone m) s (fun u =>
          m.src ∈ u.cairn.dones ∧ u.cairn.next = s.cairn.next ∧ u.cairn.lastC = s.cairn.lastC ∧ u.book = s.book)) ∧
        ((∀ d ∈ s.memberIds, d = m.src ∨ d ∈ s.cairn.dones) → Completes (.belayDone m) s ended))) ∧
    (m.body = .belay .complete →
      (m.step = s.cairn.next → Completes (.belayComplete m) s ended) ∧
      (m.step ≠ s.cairn.next → Completes (.belayComplete m) s (fun u => u = r)))

/-- Asking, gathering, feeding and filling (R399, R407, R411, R417, R418): ASK makes the leader's next call early; GATHER writes header and vector
into this device's own copy of the row, and a ward's row of the commit before a cairn into that cairn; equal feed codes make the pair
correlated, a ward is answered, and the last feed completes a START whose fill has ended; a FILLREQ is answered from the store; a fill
writes its rows, shadows and records while it is in progress, and the last message ends it. Before START nothing is taken.
Model's readings and choices: log 29, 59 and 63. -/
def Obligations.BelayExchange : Prop :=
  (∀ (s : State) (m : Msg), s.writesStop = true ∨ s.job.st ≠ .running →
    ∀ c ∈ ([.ask m, .gather m, .feed m, .fillreq m, .belayFill m] : List Instr), exec c s = .next s) ∧
  ∀ (s : State) (m : Msg), m ∈ s.inbox → s.job.st = .running → Takes s →
    let r := { s with inbox := s.inbox.erase m }
    let left := fun (u : State) (y : Nat × Nat × Nat) => u.belay = { s.belay with fillLeft := s.belay.fillLeft.filter (fun z => decide (z ≠ y)) }
    (m.body = .belay .ask → Completes (.ask m) s (fun u => u.cairn.early = true ∧ u.inbox = s.inbox.erase m ∧
      (LogRoom s → (u.findDeferral 7 (some 0)).isSome = true))) ∧
    (∀ t v x row d a, m.body = .belay (.gather t v x row) → s.rowAt t v x = some a → s.table t = some d → NoUpsets s → NoEventQueue s →
      let w := row.take d.shared
      Completes (.gather m) s (fun u => u.bytes a w.length = w ∧ SameBytesBut a w.length s u ∧
        (m.src ∉ s.wards ∨ s.cairn.next ≠ m.step + 1 → u.belay = s.belay) ∧
        (m.src ∈ s.wards → s.cairn.next = m.step + 1 → (s.belay.store.map (fun e => e.item.size)).sum + row.length ≤ s.belayRoom →
          (⟨m.src, m.step + 1, .row t v x row⟩ : BelayRec) ∈ u.belay.store))) ∧
    (∀ code, m.body = .belay (.feed code) →
      (s.partner ≠ some m.src → m.src ∉ s.wards → Completes (.feed m) s (fun u => u = r)) ∧
      (s.partner = some m.src ∨ m.src ∈ s.wards → Completes (.feed m) s (fun u =>
        m.src ∈ u.belay.fed ∧ (∀ d ∈ s.belay.fed, d ∈ u.belay.fed) ∧ u.belay.corr = (s.belay.corr || decide (code = s.belay.feed)) ∧
        (s.belay.fill = 0 → s.cairn.st ≠ 3 → u.fedAll = true → u.job.startReq = none) ∧
        (u.fedAll = false → u.job.startReq = s.job.startReq) ∧
        (s.cairn.st ≠ 3 → s.partner ≠ some m.src → Sends m.src 0 0 (.belay (.feed s.belay.feed)) r u) ∧
        (s.cairn.st ≠ 3 → s.partner = some m.src → u.links = s.links ∧ u.netWait = s.netWait)))) ∧
    (∀ t v x, m.body = .belay (.fillreq t v x) →
      let n := 1 + s.belay.fillSeq % (2 ^ 32 - 1)
      let fill := fun (bs : List Byte) (u : State) => Sends m.src s.cairn.lastC 0 (.belay (.fill n t v x bs)) r u ∧
        u.belay.fillSeq = s.belay.fillSeq + 1
      ((t, v, x) ≠ wholeStream → (t, v, x) ≠ shadowStream → s.gathered t = false →
        (∀ bs, (s.wardItems m.src).find? (fun i => i.same (.row t v x [])) = some (.row t v x bs) → Completes (.fillreq m) s (fill bs)) ∧
        ((s.wardItems m.src).find? (fun i => i.same (.row t v x [])) = none → Completes (.fillreq m) s (fill []))) ∧
      ((t, v, x) = wholeStream ∨ (t, v, x) = shadowStream → s.belay.store = [] → Completes (.fillreq m) s (fill []))) ∧
    (∀ n t v x bs, m.body = .belay (.fill n t v x bs) →
      (s.belay.fill = 0 → Completes (.belayFill m) s (fun u => u = r)) ∧
      (s.belay.fill ≠ 0 →
        ((∃ y ∈ s.belay.fillLeft, y ≠ (t, v, x)) →
          (bs = [] → Completes (.belayFill m) s (fun u => left u (t, v, x) ∧ SameBytes s u)) ∧
          (∀ d a, s.table t = some d → 16 ≤ bs.length → s.rowLoc t v x = some a → s.hotRow (d.home x) t v x = none → NoUpsets s →
            Completes (.belayFill m) s (fun u => left u (t, v, x) ∧
              u.bytes a bs.length = withHeader bs (setFld (headerOf bs) 42 41 0) ∧ SameBytesBut a (max bs.length d.stride) s u ∧
              ∀ j, bs.length ≤ j → j < d.stride → u.byte (a + j) = 0))) ∧
        (s.belay.fillLeft = [wholeStream] → (t, v, x) = wholeStream → bs = [] →
          (∀ q tag, s.belay.fill = 2 → s.job.startReq = some (q, tag) →
            Completes (.belayFill m) s (fun u => u.belay.fill = 0 ∧ u.step.no = s.cairn.lastC ∧ u.step.stopped = false ∧
              u.cairn.st = (if ∃ e ∈ s.book.recs, e.type = 7 ∧ s.cairn.lastC ≤ e.step then 6 else 0) ∧
              u.job.startReq = if s.fedAll then none else some (q, tag))) ∧
          (s.belay.fill = 3 → Completes (.belayFill m) s (fun u => u = { r with belay := { s.belay with fill := 0, fillLeft := [] } }))))) ∧
    (∀ t o bs k, m.body = .belay (.shadow t o bs k) → k ≠ 0 →
      (s.belay.fill ≠ 0 → s.partner = some m.src → Completes (.shadow m) s (fun u => SameBytes s u ∧ u.belay = s.belay ∧
        ∀ j < bs.length, u.book.shadow.get (fun _ => 0) (t * 0x800000 + (o + j)) = bs.getD j 0)) ∧
      (s.belay.fill = 0 ∨ s.partner ≠ some m.src → Completes (.shadow m) s (fun u => u = r))) ∧
    (∀ x k, m.body = .belay (.rtbrec x k) → k ≠ 0 →
      (s.fillsBook = true → s.partner = some m.src → Completes (.rtbrec m) s (fun u =>
        u = { r with book := { s.book with recs := s.book.recs ++ [x] } })) ∧
      (s.fillsBook = false ∨ s.partner ≠ some m.src → Completes (.rtbrec m) s (fun u => u = r)))

/-! ### The host and the management bus (R5 to R9, R317 to R345, R439 to R442) -/

/-- Register accesses through the BARs and MCTP (R5, R6, R8, R319, R439, R440, R442): one aligned 64-bit access, or an aligned half, of a
register reaches its bits. A write stores the RW bits of a register with no action and makes one change log entry, clears W1C bits
without one, and does nothing to RO and RC bits; a read returns the register and restarts an RC counter at the events of its
cycle. Other sizes and alignments, addresses that name no register, reserved codes, and values that the state refuses are
discarded with an ACCESS entry; while accesses are not served nothing happens.
Model's readings and choices: log 36, 107 and 127. -/
def Obligations.HostRegisters : Prop :=
  ∀ s : State, NoEventQueue s → LogRoom s →
    (∀ (src : RegAt) (size incs : Nat) (v : Word), s.serves (if src = .mgt (offAt src) then 2 else 1) = false →
      exec (.registerWrite src size v) s = .next s ∧ exec (.rcRegisterRead src size incs) s = .next s) ∧
    (∀ (src : RegAt) (a size incs : Nat) (v : Word), Reaches src a →
      let r := a / 8 * 8
      let iface := if src = .mgt a then 2 else 1
      s.serves iface = true →
      (regInfo r = none → (∃ m sh, (size, a % 8, m, sh) ∈ widths) →
        Completes (.registerWrite src size v) s (Discarded 4 a s) ∧
        Completes (.rcRegisterRead src size incs) s (fun u => u.hostRd = 0 ∧ Discarded 4 a s u)) ∧
      (∀ i, regInfo r = some i →
        ((∀ m sh, (size, a % 8, m, sh) ∉ widths) →
          Completes (.registerWrite src size v) s (Discarded 2 a s) ∧
          Completes (.rcRegisterRead src size incs) s (fun u => u.hostRd = 0 ∧ Discarded 2 a s u)) ∧
        (∀ m sh, (size, a % 8, m, sh) ∈ widths →
          let M := BitVec.ofNat 64 m
          let data := (v <<< sh) &&& M
          let new := (s.reg r &&& ~~~(BitVec.ofNat 64 i.rw &&& M)) ||| (data &&& BitVec.ofNat 64 i.rw)
          let act := data &&& BitVec.ofNat 64 i.wo
          let good := s.regReserved r m (new ||| act) = false ∧ s.regRefused r new.toNat act.toNat = false
          let still := s.netWait = [] ∧ s.qm.backlog = [] ∧ ∀ l : LinkId, (s.link l).holds = []
          (s.regReserved r m (new ||| act) = true → Completes (.registerWrite src size v) s (Discarded 1 r s)) ∧
          (s.regReserved r m (new ||| act) = false → s.regRefused r new.toNat act.toNat = true →
            Completes (.registerWrite src size v) s (Discarded 3 r s)) ∧
          (good → i.wo = 0 → i.w1c = 0 → i.rw &&& m ≠ 0 → r ≠ rSluCtrl → (∀ p < 12, r ≠ rLnkCfg p) → (∀ w < 64, r ≠ rPeerDown w) → (isRoute r = true → still) →
            Completes (.registerWrite src size v) s (fun u => u.reg r = new ∧ SameRegsBut [r, rChgStat] s u ∧ SameBytes s u ∧
              u.log = s.log ∧ u.tiles = s.tiles ∧ Changed iface r new s u) ∧
            (src = .mgt a → s.sec.boot = .running → Completes (.mctpRegisterWrite a size v) s (fun u =>
              u.out = s.out ++ [.mctp 0 0] ∧ u.reg r = new ∧ SameRegsBut [r, rChgStat] s u ∧ SameBytes s u ∧ Changed 2 r new s u))) ∧
          (good → i.w1c ≠ 0 → r ≠ rDumpSt → Completes (.registerWrite src size v) s (fun u =>
            u.reg r = s.reg r &&& ~~~(data &&& BitVec.ofNat 64 i.w1c) ∧ SameRegsBut [r] s u ∧ SameBytes s u ∧ u.log = s.log ∧
            u.chgNext = s.chgNext)) ∧
          (good → r = rDumpSt → Completes (.registerWrite src size v) s (fun u => u.chgNext = s.chgNext ∧ SameRegsBut [] s u ∧
            ∀ b < 2, bitOf u.rst.dumpValid b = (bitOf s.rst.dumpValid b && !data.getLsbD b))) ∧
          (good → i.rw = 0 → i.wo = 0 → i.w1c = 0 → exec (.registerWrite src size v) s = .next s) ∧
          (let got := fun (u : State) =>
             SameBytes s u ∧ u.log = s.log ∧ u.tiles = s.tiles ∧ SameRegsBut (if i.rc = 0 then [] else [r]) s u ∧
             (i.rc = 2 ^ 64 - 1 → u.reg r = countUp (s.reg r &&& ~~~M) incs) ∧
             (r = rChgStat → size = 8 → wfld (u.reg r) 31 0 = min incs (2 ^ 32 - 1))
           let word := ((if i.rc = 2 ^ 64 - 1 then s.reg r else s.view r) &&& M) >>> sh
           Completes (.rcRegisterRead src size incs) s (fun u => u.hostRd = word ∧ got u) ∧
           (src = .mgt a → s.sec.boot = .running → Completes (.mctpRegisterRead a size incs) s (fun u =>
             u.out = s.out ++ [.mctp 0 word.toNat] ∧ got u)))))) ∧
    (∀ (src : RegAt) (off size incs : Nat) (v : Word),
      s.serves 1 = true → src = .bar2 off ∧ 0x140000000 ≤ off ∨
        src = .bar0 off ∧ 0x1C0000 ≤ off ∧ ¬ (0x200000 ≤ off ∧ off < 0x210000) ∧ ¬ (0x800000 ≤ off ∧ off < 0x1000000) →
      Completes (.registerWrite src size v) s (Discarded 4 off s) ∧
      Completes (.rcRegisterRead src size incs) s (fun u => u.hostRd = 0 ∧ Discarded 4 off s u)) ∧
    (∀ (a size incs : Nat) (v : Word),
      (s.sec.boot = .running → s.serves 2 = true → regInfo (a / 8 * 8) = none →
        Completes (.mctpRegisterWrite a size v) s (fun u => u.out = s.out ++ [.mctp 1 0] ∧ Discarded 4 a s u) ∧
        Completes (.mctpRegisterRead a size incs) s (fun u => u.out = s.out ++ [.mctp 1 0] ∧ Discarded 4 a s u)) ∧
      (s.sec.boot ≠ .running ∨ s.serves 2 = false → exec (.mctpRegisterWrite a size v) s = .next s ∧ exec (.mctpRegisterRead a size incs) s = .next s))

/-- Doorbells, descriptors by register, and the two windows (R211, R320, R321, R323, R328 to R330, R344, R439, R445): a doorbell sets TAIL or HEAD within the
entries that the other side has made available, and the entries that a TILEIN queue so gains are recorded while the job runs; a
descriptor is written from QM_QDATA, or refused with its status, and read back; BAR4 writes T1 except version slots that are not
BUILDING, committed ranges and the reserves; BAR2 writes tile memory while no job runs, and reads it. While accesses are not served
none of them does anything, and no doorbell and no window write does while writes stop.
Model's readings and choices: log 112, 113, 114, 115, 116 and 141. -/
def Obligations.HostDataPath : Prop :=
  ∀ s : State, NoEventQueue s → LogRoom s →
    (∀ (q size : Nat) (v : Word),
      let d := s.desc q
      let n := v.toNat % 2 ^ 32
      let at' := s.descAt q
      let gap := (n + 2 ^ 32 - d.head) % 2 ^ 32
      let used := (d.tail + 2 ^ 32 - d.head) % 2 ^ 32
      let produces := d.valid = true ∧ (d.cls = 0 ∨ d.cls = 1 ∧ d.rsend = false) ∧ used ≤ gap ∧ gap ≤ 2 ^ d.log2n
      let consumes := d.valid = true ∧ d.cls = 6 ∧ gap ≤ used
      (s.serves 1 = false ∨ s.writesStop = true → exec (.doorbell q size v) s = .next s) ∧
      (s.serves 1 = true → s.writesStop = false →
      (size ≠ 8 → Completes (.doorbell q size v) s (Discarded 2 (0x800000 + 8 * q) s)) ∧
      (size = 8 → 2 ^ 32 ≤ v.toNat → Completes (.doorbell q size v) s (Discarded 4 (0x800000 + 8 * q) s)) ∧
      (size = 8 → v.toNat < 2 ^ 32 → ¬ produces → ¬ consumes → NoUpsets s → Completes (.doorbell q size v) s (fun u =>
        SameBytes s u ∧ SameRegsBut [hubReg 5 0x100] s u ∧ u.tiles = s.tiles ∧ Logged (accessEntry 4 (0x800000 + 8 * q)) s u)) ∧
      (size = 8 → v.toNat < 2 ^ 32 → NoUpsets s →
        (produces → d.cls = 0 ∨ s.job.st ≠ .running → Completes (.doorbell q size v) s (fun u =>
          u.peek (at' + 16) 4 = n ∧ SameBytesBut (at' + 16) 4 s u ∧ SameRegsBut [hubReg 5 0x100] s u ∧ u.log = s.log ∧ u.book = s.book)) ∧
        (produces → d.cls = 1 → s.job.st = .running → s.job.baseRun = false → s.partner = none → bitOf s.exportCtl 1 = false →
          let count := (n + 2 ^ 32 - d.tail) % 2 ^ 32
          Completes (.doorbell q size v) s (fun u => u.peek (at' + 16) 4 = n ∧ ∃ news, u.book.recs = s.book.recs ++ news ∧
            news.length ≤ count ∧ ((∀ k < count, tierOf (d.entryAt ((d.tail + k) % 2 ^ 32)) = .t1) → news.length = count) ∧ ∀ x ∈ news, x.type = 2 ∧ x.tile = d.tile ∧ x.ctx = d.ctx ∧ x.step = s.step.no)) ∧
        (consumes → s.heldEvents q = [] → s.qm.lost.get (fun _ => 0) q = 0 → Completes (.doorbell q size v) s (fun u =>
          u.peek (at' + 20) 4 = n ∧ SameBytesBut (at' + 20) 4 s u ∧ u.log = s.log))))) ∧
    (∀ (i : Iface) (v : Word), s.serves (ifaceNo i) = true → wfld (s.reg rQctl) 25 24 = 0 → NoUpsets s →
      let q := wfld v 19 0
      let d := s.desc q
      let words := (List.range 8).map (fun j => (s.reg (rQdata j)).toNat)
      let n := QDesc.ofWords (fun j => words.getD j 0)
      let bad := n.cls = 7 ∨ n.log2n < 4 ∨ 20 < n.log2n ∨ n.ring % 64 ≠ 0 ∨ s.hostReadable n.ring (entrySize n.cls * 2 ^ n.log2n) = false
      let named := s.job.img.any (fun i => i.queues.any (fun e => decide (e.1 = q)))
      let status := if s.queueExists q = false then 4 else if d.valid = true ∧ d.head ≠ d.tail then 2
        else if s.job.st = .running ∧ named = true then 3 else if bad then 1 else 0
      let ended := fun (k : Nat) (u : State) =>
        wfld (u.reg rQctl) 31 28 = k ∧ wfld (u.reg rQctl) 19 0 = q ∧ u.log = s.log ∧ Changed (ifaceNo i) rQctl (u.reg rQctl) s u
      Completes (.queueDescriptorWrite i v) s (fun u => ended status u ∧ SameRegsBut [rQctl, rChgStat, hubReg 5 0x100] s u ∧
        (status ≠ 0 → SameBytes s u ∧ u.qm = { s.qm with cache := u.qm.cache }) ∧
        (status = 0 → (∀ j < 8, u.peek (s.descAt q + 8 * j) 8 = words.getD j 0) ∧ SameBytesBut (s.descAt q) 64 s u ∧ q ∉ u.qm.stopped)) ∧
      (Completes (.queueDescriptorRead i v) s (fun u => SameBytes s u ∧
        (s.queueExists q = false → ended 4 u ∧ SameRegsBut [rQctl, rChgStat] s u) ∧
        (s.queueExists q = true → ended 0 u ∧
          (q ∉ s.rowQueues → ∀ j < 8, (u.reg (rQdata j)).toNat = s.peek (s.descAt q + 8 * j) 8) ∧
          (∀ k, s.rowQueues.idxOf? q = some k →
            (∀ j < 8, j ≠ 2 → (u.reg (rQdata j)).toNat = s.peek (s.descAt q + 8 * j) 8) ∧
            wfld (u.reg (rQdata 2)) 31 0 = (d.tail + s.ringTail q) % 2 ^ 32 ∧
            (s.ringUsed q (k % 2) ≤ s.ringTail q → wfld (u.reg (rQdata 2)) 63 32 = (d.head + (s.ringTail q - s.ringUsed q (k % 2))) % 2 ^ 32)))))) ∧
    (∀ (off : Nat) (data : List Byte),
      let w := s.reg rMemWin
      let a := 0x40000000000 + wfld w 14 4 * 2 ^ 30 + off
      let n := data.length
      (s.mgmt.base = true ∨ 2 ^ wfld w 3 0 * 2 ^ 30 < off + n ∨ s.serves 1 = false ∨ s.enginesRun = false →
        exec (.hostWindowWrite off data) s = .next s) ∧
      (s.serves 1 = true → s.enginesRun = true → s.mgmt.base = false → off + n ≤ 2 ^ wfld w 3 0 * 2 ^ 30 →
        (s.closedSlot a n = true ∨ s.committedAt a n = true ∨ s.touchesReserve a n = true →
          Completes (.hostWindowWrite off data) s (Discarded 3 a s)) ∧
        (s.closedSlot a n = false → s.committedAt a n = false → s.touchesReserve a n = false → NoUpsets s →
          Completes (.hostWindowWrite off data) s (fun u => u.bytes a n = data ∧ SameBytesBut a n s u ∧ SameRegsBut [] s u ∧
            u.log = s.log ∧ u.tiles = s.tiles)))) ∧
    (∀ (off len : Nat) (data : List Byte),
      let n := data.length
      let fits := fun (k : Nat) => off < 0x140000000 ∧ off % 0x800000 + k ≤ 0x640000
      ((tileRegAt off).isSome = true ∨ s.serves 1 = false →
        exec (.hostTileMemoryWrite off data) s = .next s ∧ exec (.hostTileMemoryRead off len) s = .next s) ∧
      ((tileRegAt off).isSome = false → s.serves 1 = true →
        (¬ fits n → Completes (.hostTileMemoryWrite off data) s (Discarded 4 off s)) ∧
        (¬ fits len → Completes (.hostTileMemoryRead off len) s (fun u => u.rdBytes = List.replicate len 0 ∧ Discarded 4 off s u)) ∧
        (fits n → s.job.st = .running → Completes (.hostTileMemoryWrite off data) s (Discarded 3 off s)) ∧
        (fits n → s.job.st ≠ .running → NoUpsets s → Completes (.hostTileMemoryWrite off data) s (fun u =>
          u.bytes off n = data ∧ SameBytesBut off n s u ∧ SameRegsBut [] s u ∧ u.log = s.log ∧ u.tiles = s.tiles)) ∧
        (fits len → NoUpsets s → Completes (.hostTileMemoryRead off len) s (fun u =>
          u.rdBytes = s.bytes off len ∧ SameBytes s u ∧ SameRegsBut [] s u ∧ u.log = s.log ∧ u.tiles = s.tiles)) ∧
        (fits 8 → off % 8 = 0 → s.upset.get (fun _ => 0) off = 2 → s.poison.get (fun _ => false) (poisonKey off) = false →
          Completes (.hostTileMemoryRead off 8) s (fun u => u.rdBytes = List.replicate 8 0 ∧ SameBytes s u ∧
            Logged ⟨0, 3, 5, 0, 0, 0, 0, 0, 0, 0, off / 0x800000, 0, 0xF, (u.reg (rEccLast (off / 0x800000))).toNat, 0, 0⟩ s u))))

/-- The host link and PERST# (R318, R341, R386, R444, R458): a link trains once the device runs and PERST# is high; below 32 GT/s it is DEGRADED, and
an integrity failure makes IDE insecure, each with a HOST entry; PERST# resets the port, and for 100 µs or longer the device. The flag
page, which waited for the link, is written as it trains. That training ends the insecure state is the model's reading (log 54).
Model's readings and choices: log 54 and 97. -/
def Obligations.HostLink : Prop :=
  ∀ s : State,
    let can := s.hubUp = true ∧ s.sec.boot = .running ∧ s.host.perst = false
    let up := fun (w r : Nat) (g : Bool) (ide pbr : Nat) (u : State) =>
      u.host = { s.host with trained := true, width := w, rate := r, degr := g, ide := ide, pbrid := pbr, waiting := u.host.waiting,
                             nextTag := u.host.nextTag } ∧ u.mgmt = { s.mgmt with service := true }
    let quiet := s.qm.held = [] ∧ Quiet s ∧ s.qm.rung = [] ∧ s.cairn.st ≠ 3
    let page := s.reg rFlagBase
    let down := { s with host := { s.host with trained := false, width := 0, rate := 0, degr := false } }
    let held := { s with host := { s.host with perst := true, trained := false, width := 0, rate := 0, degr := false } }
    let entry := fun (cause : Nat) (u : State) => ∃ d5 d6, Logged ⟨0, 6, cause, 0, 0, 0, 0, 0, 0, 0, 0xFFFF, 0, 0xF, d5, d6, 0⟩ s u
    (∀ w r pbr secure,
      (can → w ∈ [4, 8, 16] → r ∈ [1, 2] → Completes (.hostLinkTrained ⟨w, r⟩ ⟨pbr, secure⟩) s (fun u =>
        up w r false (if secure then 1 else 0) (pbr % 4096) u ∧ u.hostUp = true ∧
        (quiet → u.log = s.log ∧ u.regs = s.regs ∧ (page.getLsbD 0 = false → SameBytes s u) ∧
          (page.getLsbD 0 = true → let a := 0x8000000000000000 + wfld page 63 12 * 4096
            u.bytes a s.qm.flags.length = s.qm.flags ∧ SameBytesBut a s.qm.flags.length s u)))) ∧
      (¬ can ∨ w ∉ [4, 8, 16] ∨ r ∉ [1, 2] → exec (.hostLinkTrained ⟨w, r⟩ ⟨pbr, secure⟩) s = .next s) ∧
      (can → w ∈ [4, 8, 16] → LogRoom s → Completes (.cxlRateDegraded w) s (fun u => up w 3 true 0 s.host.pbrid u ∧ u.hostUp = false ∧ entry 5 u)) ∧
      (¬ can ∨ w ∉ [4, 8, 16] → exec (.cxlRateDegraded w) s = .next s)) ∧
    (s.host.trained = true → LogRoom s → Completes .ideIntegrityFailure s (fun u =>
      u.host = { s.host with ide := 2 } ∧ u.hostUp = false ∧ entry 3 u)) ∧
    (s.host.trained = false → exec .ideIntegrityFailure s = .next s) ∧
    exec .hostLinkDown s = .next down ∧
    (s.sec.boot = .running → s.host.trained = false → exec .hostLinkTrainTimeout s = .next { s with mgmt := { s.mgmt with service := true } }) ∧
    (s.sec.boot ≠ .running ∨ s.host.trained = true → exec .hostLinkTrainTimeout s = .next s) ∧
    exec (.perstAssert false) s = .next held ∧
    (s.powered = true → s.sec.boot = .running → s.rst.phase = .none ∨ s.rst.phase = .rejoining → s.rst.trigger = none →
      Completes (.perstAssert true) s (fun u => u.host = held.host ∧ (∃ q, u.rst = { s.rst with trigger := some (2, q), trigAt := (s.aon.toNat, s.step.no, s.step.att) }) ∧ SameBytes s u ∧
        u.tiles = s.tiles ∧ u.regs = s.regs ∧ u.log = s.log)) ∧
    (s.powered = false ∨ (s.rst.phase ≠ .none ∧ s.rst.phase ≠ .rejoining) ∨ s.rst.trigger ≠ none → exec (.perstAssert true) s = .next held) ∧
    (s.rst.phase ≠ .waiting → exec .perstRelease s = .next { s with host := { s.host with perst := false } }) ∧
    (s.rst.phase = .waiting → s.job.st = .empty → s.job.startReq = none → Completes .perstRelease s (fun u =>
      u.host.perst = false ∧ u.rst.phase = .none ∧ u.rst.failRun = 0))

/-- The input (R346, R356 to R358, R363, R374, R388, R456): MOD_EN starts the inrush, and its fall acts as a feed failure; two samples below 38 V,
and 10 µs above 52 V, declare one, which counts it, opens its deferral, records it, begins a device reset of cause 3 and takes every
tile's target to nothing; a trip does the same without beginning the reset; one that comes while the first is in its crossing sets the
overrun bit, and each is counted (R363), as does the fall of MOD_EN; below 30 V, and 100 ms after a clamp, all state is lost;
beyond the absolute maximum nothing is guaranteed, and the model stops.
Model's readings and choices: log 92, 93, 94, 95, 123 and 138. -/
def Obligations.PowerInput : Prop :=
  ∀ s : State, NoEventQueue s →
    let on := s.power.stage = .good ∨ s.power.stage = .hold ∨ s.power.stage = .clamped
    let tapers := fun (u : State) => ∀ t < 640, u.sluice.target.get (fun _ => 0) t = 0
    let power := fun (cause : Nat) (u : State) =>
      (⟨0, 9, cause, 1, 0, 0, 0, 0, 0, 0, 0xFFFF, 0, 0xF, (u.reg rSens).toNat, (u.reg rTemp).toNat, 0⟩ : LogEntry)
    let declared := fun (stage : Stage) (u : State) =>
      u.power.stage = stage ∧ u.power.feedFail = true ∧ u.reg rCntFeed = countUp (s.reg rCntFeed) 1 ∧ tapers u ∧ SameBytes s u ∧
      SameRegsBut [rSens, rCntFeed] s u ∧ u.rst = { s.rst with trigger := some (3, (s.log.next + 1) % 2 ^ 32), trigAt := u.rst.trigAt } ∧
      (s.rst.trigger = none → u.rst.trigAt = (s.aon.toNat, s.step.no, s.step.att)) ∧
      LoggedTwo ⟨0, 0xB, 0xB, 3, 1, 0x1E, 0, 0, 0, 0, 0xFFFF, 0, 0xF, 0, 0, 0⟩ (power 1 u) s u
    let fresh := s.power.feedFail = false ∧ s.crossingBusy s.power.feedAt = false ∧ s.findDeferral 0xB (some 0) = none ∧
      s.rst.phase ≠ .failed ∧ LogRoomTwo s
    let counted := fun (c : Nat) (u : State) => u.reg c = countUp (s.reg c) 1 ∧ u.log = s.log ∧ u.rst = s.rst ∧ SameBytes s u
    (s.power.stage = .off ∨ s.power.stage = .opened →
      exec .modEnRise s = .next { s with power := { s.power with stage := .inrush, modEn := true } }) ∧
    (¬ (s.power.stage = .off ∨ s.power.stage = .opened) → exec .modEnRise s = .next { s with power := { s.power with modEn := true } }) ∧
    (s.power.stage = .inrush → Completes .modEnFall s (fun u => AllLost .off s u ∧ u.power.modEn = false)) ∧
    (on → fresh → Completes .modEnFall s (fun u =>
      declared (if s.power.stage = .clamped then .clamped else .hold) u ∧ u.power.modEn = false ∧ u.power.closing = true)) ∧
    (s.power.stage = .off ∨ s.power.stage = .opened → exec .modEnFall s = .next { s with power := { s.power with modEn := false } }) ∧
    (∀ v w, s.power.stage = .good ∨ s.power.stage = .hold → v < 38000 → w < 38000 → fresh → Completes (.feedFailure v w) s (fun u =>
      declared .hold u ∧ wfld (u.reg rSens) 63 48 = w ∧ wfld (u.reg rSens) 47 0 = wfld (s.reg rSens) 47 0)) ∧
    (∀ v w, s.power.stage = .clamped → v < 38000 → w < 38000 → fresh → Completes (.feedFailure v w) s (declared .clamped)) ∧
    (∀ v w, on → v < 38000 → w < 38000 →
      (s.crossingBusy s.power.feedAt = true → Completes (.feedFailure v w) s (fun u => counted rCntFeed u ∧ (u.reg rXovr).getLsbD 3 = true)) ∧
      (s.crossingBusy s.power.feedAt = false → s.feedStands = true →
        Completes (.feedFailure v w) s (fun u => counted rCntFeed u ∧ u.reg rXovr = s.reg rXovr ∧ u.power.feedAt = some s.aon.toNat))) ∧
    (∀ v w, ¬ on ∨ 38000 ≤ v ∨ 38000 ≤ w → exec (.feedFailure v w) s = .next s) ∧
    (∀ v, 65000 < v → exec (.overvoltageClamp v) s = .fault .beyondRatings) ∧
    (∀ v, v ≤ 65000 → ¬ (s.power.stage = .good ∨ s.power.stage = .hold) ∨ v ≤ 52000 → exec (.overvoltageClamp v) s = .next s) ∧
    (∀ v, v ≤ 65000 → 52000 < v → s.power.stage = .good ∨ s.power.stage = .hold → fresh → Completes (.overvoltageClamp v) s (fun u =>
      declared .clamped u ∧ u.reg rSens = s.reg rSens)) ∧
    (s.power.stage = .clamped → Completes .overvoltageOpen s (AllLost .opened s)) ∧
    (s.power.stage ≠ .clamped → exec .overvoltageOpen s = .next s) ∧
    Completes .powerLost s (AllLost .off s) ∧
    (s.power.stage = .hold ∨ s.power.stage = .clamped → s.power.closing = false → s.rst.trigger = none ∨ s.rst.phase = .failed →
      (s.rst.phase ≠ .hold → exec .inputRestored s = .next { s with power := { s.power with
        stage := .good, taper := s.power.taper && decide (s.rst.phase ≠ .failed) } }) ∧
      (s.rst.phase = .hold → Completes .inputRestored s (fun u => u.power.stage = .good ∧ u.rst.phase = .restart ∧ u.mgmt.base = true))) ∧
    (¬ (s.power.stage = .hold ∨ s.power.stage = .clamped) ∨ s.power.closing = true ∨ (s.rst.trigger ≠ none ∧ s.rst.phase ≠ .failed) →
      exec .inputRestored s = .next s) ∧
    (∀ d : Fin 3,
      (¬ on → exec (.thermalTrip d) s = .next s) ∧
      (on → s.power.ttrip = false → s.crossingBusy s.power.tripAt = false → s.findDeferral 0xC (some 0) = none → LogRoomTwo s →
        Completes (.thermalTrip d) s (fun u =>
        u.power.ttrip = true ∧ d.val ∈ u.sluice.tripped ∧ u.reg rCntTtrip = countUp (s.reg rCntTtrip) 1 ∧ tapers u ∧ SameBytes s u ∧
        SameRegsBut [rCntTtrip] s u ∧ u.rst = s.rst ∧
        LoggedTwo ⟨0, 0xB, 0xC, 3, 1, 0x18, 0, 0, 0, 0, 0xFFFF, 0, 0xF, 0, 0, 0⟩ (power 2 u) s u)) ∧
      (on → s.crossingBusy s.power.tripAt = true → Completes (.thermalTrip d) s (fun u =>
        d.val ∈ u.sluice.tripped ∧ counted rCntTtrip u ∧ (u.reg rXovr).getLsbD 4 = true)) ∧
      (on → s.crossingBusy s.power.tripAt = false → s.power.ttrip = true → s.power.taper = true → Completes (.thermalTrip d) s (fun u =>
        d.val ∈ u.sluice.tripped ∧ counted rCntTtrip u ∧ SameRegsBut [rCntTtrip] s u)))

/-- The sluice and the temperatures (R348, R350, R351, R354 to R356, R360, R367, R369, R443): a cap and a hot window set the duty ceiling, under
which every tile's target falls; a consumer's request stands in one queue, in its place; an aon cycle pays the heads of the queues
from each other and from the slew, and nothing else, and a rim block that tapers, or whose port is disabled, steps down; samples stand in the
always-on registers, and each threshold crossed is reported once to the bus owner.
Model's readings and choices: log 33, 69, 77, 96, 161 and 168. -/
def Obligations.SluiceCommands : Prop :=
  ∀ s : State,
    let k := s.sluice
    let targets := fun (u : State) => ∀ t < 640, u.sluice.target.get (fun _ => 0) t = u.tileBudget (u.targetLevel t) ∧ u.targetLevel t ≤ u.duty + 2
    let hot := k.hot = true ∨ ∃ t ∈ k.temps.toList, 16 * 95 ≤ t.toInt
    let warm := k.warm = true ∨ ∃ t ∈ k.temps.toList, 16 * 90 < t.toInt
    let limited := fun (u : State) => LogRoom s → u.duty < 3 →
      (u.findDeferral (if u.sluice.capDuty ≤ u.sluice.thDuty then 3 else 4) (some 0)).isSome = true
    Completes .thermalWindow s (fun u => targets u ∧ limited u ∧ u.sluice.hot = false ∧ u.sluice.warm = false ∧ u.sluice.capDuty = k.capDuty ∧
      (hot → u.sluice.thDuty = k.thDuty - 1) ∧ (¬ hot → warm → u.sluice.thDuty = k.thDuty) ∧
      (¬ hot → ¬ warm → u.sluice.thDuty = min 3 (k.thDuty + 1))) ∧
    (let w := wfld (s.reg rSluCap) 11 0
     Completes .capWindow s (fun u => targets u ∧ limited u ∧ u.sluice.thDuty = k.thDuty ∧
      (∀ d, 1 ≤ d → d ≤ 3 → 640 * levelBudget (d + 2) * 40 ≤ (w - 600) * 1000 → d ≤ u.sluice.capDuty) ∧
      (1600 ≤ w → 640 * levelBudget (u.sluice.capDuty + 2) * 40 ≤ (w - 600) * 1000))) ∧
    (∀ c : Fin 676,
      let T := s.targetOf c
      let B := s.budget c
      Completes (.levelRequestJoin c) s (fun u => u.sluice.budget = k.budget ∧ u.sluice.target.get (fun _ => 0) c = T ∧ u.regs = s.regs ∧ u.tiles = s.tiles ∧
        (∀ e, e.1 ≠ c.val → (e ∈ u.sluice.up ↔ e ∈ k.up) ∧ (e ∈ u.sluice.down ↔ e ∈ k.down)) ∧
        (B < T → (c.val, T - B) ∈ u.sluice.up ∧ (∀ e ∈ u.sluice.down, e.1 ≠ c.val) ∧
          ((∃ e ∈ k.up, e.1 = c.val) → u.sluice.up.map (·.1) = k.up.map (·.1)) ∧
          ((∀ e ∈ k.up, e.1 ≠ c.val) → k.fresh = [] → u.sluice.up = k.up ++ [(c.val, T - B)])) ∧
        (T < B → (c.val, B - T) ∈ u.sluice.down ∧ (∀ e ∈ u.sluice.up, e.1 ≠ c.val) ∧
          ((∃ e ∈ k.down, e.1 = c.val) → u.sluice.down.map (·.1) = k.down.map (·.1)) ∧
          ((∀ e ∈ k.down, e.1 ≠ c.val) → k.fresh = [] → u.sluice.down = k.down ++ [(c.val, B - T)])) ∧
        (T = B → (∀ e ∈ u.sluice.up, e.1 ≠ c.val) ∧ ∀ e ∈ u.sluice.down, e.1 ≠ c.val))) ∧
    (let on := s.power.stage = .good ∨ s.power.stage = .hold ∨ s.power.stage = .clamped
     let r := 35 * wfld (s.reg rSluCtrl) 12 8
     let held := fun (cs : List Nat) (u : State) => ∀ c, c ∉ cs → u.budget c = s.budget c
     (¬ on → exec .sluicePayout s = .next s) ∧
     (s.drained = true → on → Completes .sluicePayout s (AllLost .opened s)) ∧
     (on → s.power.closing = false → Completes .sluicePayout s (fun u =>
        u.aon = s.aon + 1 ∧ held (k.up.map (·.1) ++ k.down.map (·.1)) u ∧ u.tiles = s.tiles ∧
        (∀ c, 640 ≤ c → c < 676 → s.tapering = true ∨ s.rimOn c = false → u.sluice.target.get (fun _ => 0) c = u.targetOf c) ∧
        (s.tapering = false → (∀ c, 640 ≤ c → c < 676 → s.rimOn c = true ∨
            (s.budget c = 0 ∧ k.target.get (fun _ => 0) c = 0 ∧ ∀ e ∈ k.up ++ k.down, e.1 ≠ c)) → u.sluice.target = k.target ∧
        (k.up = [] → k.down = [] → u.sluice.up = [] ∧ u.sluice.down = [] ∧ u.sluice.cu = 0 ∧ u.sluice.cd = 0) ∧
        (∀ c R, k.up = [(c, R)] → k.down = [] → 0 < R →
          let m := min R (k.cu + r)
          u.budget c = s.budget c + m ∧ u.sluice.cu = k.cu + r - m ∧ u.sluice.down = [] ∧
          u.sluice.up = (if R = m then [] else [(c, R - m)])) ∧
        (∀ c R, k.up = [] → k.down = [(c, R)] → 0 < R →
          let m := min R (k.cd + r)
          u.budget c = s.budget c - m ∧ u.sluice.cd = k.cd + r - m ∧ u.sluice.up = [] ∧
          u.sluice.down = (if R = m then [] else [(c, R - m)])) ∧
        (∀ c d R, k.up = [(c, R)] → k.down = [(d, R)] → c ≠ d → u.budget c = s.budget c + R ∧ u.budget d = s.budget d - R ∧
          u.sluice.up = [] ∧ u.sluice.down = [] ∧ held [c, d] u)))) ∧
     (∀ x : Sensors,
        (65000 < x.vin.toNat ∨ 16 * 55 < x.inlet.toInt → exec (.sensorUpdate x) s = .fault .beyondRatings) ∧
        (¬ (65000 < x.vin.toNat ∨ 16 * 55 < x.inlet.toInt) → ¬ on → exec (.sensorUpdate x) s = .next s) ∧
        (¬ (65000 < x.vin.toNat ∨ 16 * 55 < x.inlet.toInt) → on → Completes (.sensorUpdate x) s (fun u =>
          wfld (u.reg rSens) 63 48 = x.vin.toNat ∧ wfld (u.reg rSens) 47 32 = x.iin.toNat ∧ wfld (u.reg rSens) 31 0 = 0 ∧
          u.reg rTemp = x.die0 ++ x.die1 ++ x.hub ++ x.inlet ∧ SameRegsBut [rSens, rTemp] s u ∧ SameBytes s u ∧
          u.sluice.temps = #v[x.die0, x.die1, x.hub] ∧
          ((1, 1) ∈ u.mgmt.crossed ↔ 50000 < x.vin.toNat) ∧ ((1, 4) ∈ u.mgmt.crossed ↔ x.vin.toNat < 40000) ∧
          ((1, 5) ∈ u.mgmt.crossed ↔ x.vin.toNat < 38000) ∧ ((7, 1) ∈ u.mgmt.crossed ↔ 16 * 40 < x.inlet.toInt) ∧
          (∀ p ∈ [(4, x.die0), (5, x.die1), (6, x.hub)], ((p.1, 1) ∈ u.mgmt.crossed ↔ 16 * 95 ≤ p.2.toInt) ∧
            ((p.1, 2) ∈ u.mgmt.crossed ↔ 16 * 105 ≤ p.2.toInt) ∧ ((p.1, 3) ∈ u.mgmt.crossed ↔ 16 * 115 ≤ p.2.toInt)) ∧
          ∃ ms, u.out = s.out ++ ms ∧ (s.mgmt.eid = none → ms = []) ∧ ∀ id th dir, s.mgmt.eid ≠ none → (Sent.sensor id th dir ∈ ms ↔
            (dir = true ∧ (id, th) ∈ u.mgmt.crossed ∧ (id, th) ∉ s.mgmt.crossed ∨
             dir = false ∧ (id, th) ∈ s.mgmt.crossed ∧ (id, th) ∉ u.mgmt.crossed))))) ∧
     (∀ (d : Fin 3) (x : BitVec 16),
        (¬ on → exec (.dieTemperatureLimit d x) s = .next s) ∧
        (on → Completes (.dieTemperatureLimit d x) s (fun u =>
          wfld (u.reg rTemp) (63 - 16 * d.val) (48 - 16 * d.val) = x.toNat ∧ u.sluice.temps = k.temps.set d x ∧ SameRegsBut [rTemp] s u ∧
          (d.val ∈ u.sluice.tripped ↔ 16 * 105 ≤ x.toInt) ∧ (∀ j, j ≠ d.val → (j ∈ u.sluice.tripped ↔ j ∈ k.tripped)) ∧
          (u.sluice.tripped ≠ [] → ∀ t < 640, u.targetLevel t ≤ 1) ∧ targets u ∧
          (s.power.ttrip = true → s.power.taper = true → s.rst.phase ≠ .failed → s.rst.trigger = none →
            (u.sluice.tripped = [] → (∀ y ∈ u.sluice.temps.toList, y.toInt < 16 * 90) → ∃ q, u.rst.trigger = some (4, q)) ∧
            ((∃ y ∈ u.sluice.temps.toList, 16 * 90 ≤ y.toInt) → u.rst = s.rst))))))

/-! ### Bring-up, security and management (R425 to R449) -/

/-- Bring-up (R428 to R433, R444, R446): the boot chain runs the active slot, or the other when a component of it is not valid, and else stays in
ROM recovery; it extends the measurement registers, takes the repair and row maps of the configuration record that was valid at power-on
when its arrangement is, and has an
identity when the seed can be corrected and the key that it gives is that of the device identity certificate. Controllers join in logical order, each once its quanta are admitted,
and the third failure is recorded; base camp mode ends with the last channel.
Model's readings and choices: log 99, 100, 101, 102 and 137. -/
def Obligations.BringUp : Prop :=
  ∀ s : State,
    let can := s.sec.boot = .none ∧ (s.power.stage = .inrush ∨ s.power.stage = .good)
    let f := s.flash.powerOn
    let good := fun (c : Component) (comp : Nat) => c.magic = 0x4345444E ∧ c.comp = comp ∧ s.flash.counter ≤ c.svn ∧ c.len = c.bytes.length ∧
      sm3 (keyBytes c.signer) = s.rom.keyHash ∧ sm3 c.bytes = c.digest ∧ sm2Verify c.signer (signedPart c) c.sig = true
    let boots := fun (k : Nat) (a b : Component) => f.slot k = (some a, some b) ∧ good a 1 ∧ good b 2
    let fails := fun (k : Nat) => (∀ a, (f.slot k).1 = some a → ¬ good a 1) ∨ (∀ b, (f.slot k).2 = some b → ¬ good b 2)
    let runs := fun (k : Nat) (b : Component) (x : Straps) (u : State) =>
      u.sec.boot = .running ∧ u.sec.bootSlot = k ∧ u.sec.svn = b.svn ∧ u.sec.fallback = decide (k ≠ f.active) ∧ u.power.stage = .good ∧
      u.sec.meas[0] = extendMeas s.sec.meas[0] (sm3 s.rom.version) ∧
      (u.sec.idok = true ↔ ∃ z, x.seed = some z ∧ s.flash.ident.devKey = some (publicKey (identityKey z))) ∧
      (∀ z, x.seed = some z → u.sec.idok = true → u.sec.aliasKey = some (derivedKey (beBytes 32 z.toNat ++ beBytes 32 u.sec.meas[1] ++
        beBytes 32 u.sec.meas[2] ++ beBytes 32 u.sec.meas[3]))) ∧
      (s.power.sampled = false → u.mgmt.smbus = x.smbus ∧ u.belay.feed = x.feed.val) ∧
      (s.power.sampled = true → u.mgmt.smbus = s.mgmt.smbus ∧ u.belay.feed = s.belay.feed) ∧
      (∀ c n, (s.sec.cfg = none ∧ f.config s.rom.keyHash = some (c, n)) ∨ s.sec.cfg = some (some (c, n)) →
        u.sec.cfgCopy = n ∧ u.sec.cfg = some (some (c, n)) ∧ u.sec.tilesOn = mapOk c.body ∧
        (mapOk c.body = true → u.sec.rowMap = c.body.rowMap ∧ u.sec.repair = c.body.repair)) ∧
      ((s.sec.cfg = none ∧ f.config s.rom.keyHash = none) ∨ s.sec.cfg = some none → u.sec.tilesOn = false)
    (∀ x : Straps,
      (¬ can → exec (.powerGood x) s = .next s) ∧
      (∀ a b, can → boots f.active a b → Completes (.powerGood x) s (fun u => runs f.active b x u ∧
        u.flash = f ∧ u.sec.meas[1] = extendMeas s.sec.meas[1] a.digest ∧ u.sec.meas[2] = extendMeas s.sec.meas[2] b.digest)) ∧
      (∀ a b, can → fails f.active → boots (1 - f.active) a b → 1 - f.active ≠ f.active → Completes (.powerGood x) s (runs (1 - f.active) b x)) ∧
      (can → fails f.active → fails (1 - f.active) → Completes (.powerGood x) s (fun u => u.sec.boot = .recovery ∧ u.power.stage = .good))) ∧
    (∀ (c : Fin 24) (ok : Bool),
      let turn := s.mgmt.service = true ∧ s.mgmt.joined.length = c.val ∧ s.budget (652 + c.val) = 2 * (16 * 68)
      let failures := s.mgmt.trainFails.get (fun _ => 0) c.val
      (¬ turn → exec (.controllerTrained c ok) s = .next s) ∧
      (turn → Completes (.controllerTrained c true) s (fun u => u.mgmt.joined = s.mgmt.joined ++ [c.val] ∧ u.log = s.log ∧ SameBytes s u)) ∧
      (turn → failures < 2 → Completes (.controllerTrained c false) s (fun u =>
        u.mgmt.joined = s.mgmt.joined ∧ u.mgmt.trainFails.get (fun _ => 0) c.val = failures + 1 ∧ u.log = s.log)) ∧
      (turn → failures = 2 → LogRoom s → Completes (.controllerTrained c false) s (fun u => u.mgmt.joined = s.mgmt.joined ∧
        Logged ⟨0, 4, 3, 0, 0, 0, 0, 0, 0, 0, 0x400 + c.val, 0, 0xF, 4 * c.val, 0, 0⟩ s u))) ∧
    (∀ c : Fin 96,
      (c.val / 4 ∈ s.mgmt.joined → Completes (.channelInitialised c) s (fun u => c.val ∈ u.mgmt.channels ∧
        (∀ k, k ≠ c.val → (k ∈ u.mgmt.channels ↔ k ∈ s.mgmt.channels)) ∧ u.mgmt.joined = s.mgmt.joined)) ∧
      (c.val / 4 ∉ s.mgmt.joined → exec (.channelInitialised c) s = .next s)) ∧
    (s.mgmt.base = true → s.mgmt.channels.length = 96 → s.rst.phase = .none → Completes .baseCampEnd s (fun u =>
      u.mgmt = { s.mgmt with base := false } ∧ (s.job.baseRun = false → u.fclkUnits = wfld (s.reg rSluCtrl) 1 0 + 1) ∧ (Quiet s → SameBytes s u))) ∧
    (s.mgmt.base = false ∨ s.mgmt.channels.length ≠ 96 ∨ s.rst.phase ≠ .none → exec .baseCampEnd s = .next s)

/-- Management requests, updates and the self-test (R431, R433 to R437, R441, R449): an SPDM request that needs a signature needs an identity, and
there are four sessions; one update path at a time; a component goes to the inactive slot or the older record, and is verified,
reported and logged; an activated slot waits for the next power-on, or the hub restarts at once with no job loaded; the rollback
counter takes the larger floor; the self-test runs only with no job, and changes no byte outside tile memory.
Model's readings and choices: log 103, 104, 105 and 106. -/
def Obligations.Management : Prop :=
  ∀ s : State,
    let sound := fun (floor : Nat) (c : Component) => c.magic = 0x4345444E ∧ (c.comp = 1 ∨ c.comp = 2 ∨ c.comp = 3) ∧ floor ≤ c.svn ∧
      c.len = c.bytes.length ∧ sm3 (keyBytes c.signer) = s.rom.keyHash ∧ sm3 c.bytes = c.digest ∧ sm2Verify c.signer (signedPart c) c.sig = true
    let good := sound s.flash.counter
    let arrives := fun (cs : List Component) => s.host.trained = true ∧ s.package.1 + s.package.2 ≤ t2End ∧ packageHolds s.package.2 cs = cs
    let told := fun (x : Sent) => { s with out := s.out ++ [x] }
    let spdm' := fun (a : SpdmAnswer) => (.next (told (.spdm a)) : Host.Outcome State Fault Refusal)
    let lands := fun (c : Component) (d : Option Component) (u : State) =>
      (c.comp = 1 → s.flash.active = 0 → u.flash = { s.flash with firstB := d }) ∧
      (c.comp = 1 → s.flash.active = 1 → u.flash = { s.flash with firstA := d }) ∧
      (c.comp = 2 → s.flash.active = 0 → u.flash = { s.flash with mainB := d }) ∧
      (c.comp = 2 → s.flash.active = 1 → u.flash = { s.flash with mainA := d }) ∧
      (∀ a b, c.comp = 3 → s.flash.recA = some a → s.flash.recB = some b →
        u.flash = if a.body.seqNo < b.body.seqNo then { s.flash with recA := d } else { s.flash with recB := d }) ∧
      (c.comp = 0 ∨ 3 < c.comp → u.flash = s.flash)
    let verified := fun (iface : Nat) (c : Component) (u : State) =>
      (c.comp, c.version) ∈ u.mgmt.staged ∧ u.chgNext = (s.chgNext + 1) % 2 ^ 32 ∧
      u.chg.get (fun _ => none) (s.chgNext % 1024) = some ⟨s.chgNext, iface, 2, s.aon.toNat, c.comp, c.version, false⟩
    let firmware := ∃ e ∈ s.mgmt.staged, e.1 = 1 ∨ e.1 = 2
    let kept := s.sec.boot ≠ .recovery ∧ s.job.st ≠ .empty
    let restarted := { Security.reset with cfg := s.sec.cfg, repair := s.sec.repair, rowMap := s.sec.rowMap, tilesOn := s.sec.tilesOn }
    (s.sec.boot = .running → s.mgmt.service = true → s.host.trained = true → exec .rollbackFloorRaise s =
      .next { s with flash := { s.flash with counter := max s.flash.counter (max s.sec.floor1 s.sec.floor2) } }) ∧
    (¬ (s.sec.boot = .running ∧ s.mgmt.service = true ∧ s.host.trained = true) → exec .rollbackFloorRaise s = .next s) ∧
    (∀ e, s.sec.boot ≠ .none → s.hubUp = true → exec (.setEndpointId e) s = .next { s with mgmt := { s.mgmt with eid := some e } }) ∧
    (∀ e, s.sec.boot = .none ∨ s.hubUp = false → exec (.setEndpointId e) s = .next s) ∧
    (∀ (sign : Bool) (q : SpdmReq),
      (s.sec.boot ≠ .running ∨ s.hubUp = false → exec (.spdmRequest sign q) s = .next s) ∧
      (s.sec.boot = .running → s.hubUp = true →
        (sign = true ∨ (∃ k, q = .challenge k ∨ q = .keyExchange k) → s.sec.idok = false → exec (.spdmRequest sign q) s = spdm' (.error 5)) ∧
        (sign = false ∨ s.sec.idok = true →
          (∀ k, q = .certificate k → k ≠ 0 → exec (.spdmRequest sign q) s = spdm' (.error 1)) ∧
          (∀ c, q = .certificate 0 → s.sec.aliasCert = some c →
            exec (.spdmRequest sign q) s = spdm' (.chain s.flash.ident.vendorChain s.flash.ident.devCert c)) ∧
          (∀ i, q = .measurement i → (1 ≤ i → i ≤ 5 → exec (.spdmRequest sign q) s = spdm' (.measurement (s.sec.meas.toList.getD (i - 1) 0))) ∧
            (i = 0 ∨ 5 < i → exec (.spdmRequest sign q) s = spdm' (.error 1))) ∧
          (q = .pskExchange ∨ q = .setCertificate → exec (.spdmRequest sign q) s = spdm' (.error 7)) ∧
          (q = .endSession → Completes (.spdmRequest sign q) s (fun u => u.sec.sessions = s.sec.sessions - 1 ∧ u.out = s.out ++ [.spdm .done])) ∧
          (q = .other → exec (.spdmRequest sign q) s = spdm' .done)) ∧
        (s.sec.idok = true →
          (∀ k, q = .challenge k ∨ q = .keyExchange k → k ≠ 0 → exec (.spdmRequest sign q) s = spdm' (.error 1)) ∧
          (q = .challenge 0 → exec (.spdmRequest sign q) s = spdm' .done) ∧
          (q = .keyExchange 0 → s.sec.sessions < 4 → Completes (.spdmRequest sign q) s (fun u =>
            u.sec.sessions = s.sec.sessions + 1 ∧ u.out = s.out ++ [.spdm .done])) ∧
          (q = .keyExchange 0 → 4 ≤ s.sec.sessions → exec (.spdmRequest sign q) s = spdm' (.error 0xA))))) ∧
    (s.sec.boot = .none ∨ s.hubUp = false → exec .requestUpdate s = .next s) ∧
    (s.sec.boot ≠ .none → s.hubUp = true → s.mgmt.update ≠ none → exec .requestUpdate s = .next (told (.pldm 0x81))) ∧
    (s.sec.boot ≠ .none → s.hubUp = true → s.mgmt.update = none → Completes .requestUpdate s (fun u =>
      u.mgmt = { s.mgmt with update := some 1, staged := [] } ∧ u.out = s.out ++ [.pldm 0])) ∧
    (∀ c : Component,
      (s.mgmt.update ≠ some 1 ∨ s.hubUp = false → exec (.componentTransferEnd c) s = .next s) ∧
      (s.mgmt.update = some 1 → s.hubUp = true →
        (good c → Completes (.componentTransferEnd c) s (fun u => lands c (some c) u ∧ verified 3 c u ∧ u.out = s.out ++ [.pldm 0])) ∧
        (¬ good c → Completes (.componentTransferEnd c) s (fun u => lands c none u ∧ u.chgNext = s.chgNext ∧ u.out = s.out ++ [.pldm 1])))) ∧
    (∀ sc : Bool, s.sec.boot = .none ∨ s.hubUp = false → exec (.activateFirmware sc) s = .next s) ∧
    (∀ sc : Bool, s.sec.boot ≠ .none → s.hubUp = true →
      (s.mgmt.update ≠ some 1 → exec (.activateFirmware sc) s = .next (told (.pldm 0x80))) ∧
      (s.mgmt.update = some 1 → firmware →
        (sc = true → ¬ kept → Completes (.activateFirmware sc) s (fun u => u.flash = { s.flash with pend := true } ∧ u.sec = restarted ∧
          u.out = s.out ++ [.pldm 0] ∧ u.tiles = s.tiles ∧ SameBytes s u)) ∧
        (kept ∨ (sc = false ∧ s.sec.boot ≠ .recovery) → Completes (.activateFirmware sc) s (fun u => u.flash = { s.flash with pend := true } ∧
          u.sec = { s.sec with pendAct := true } ∧ u.mgmt.update = none ∧ u.mgmt.staged = [] ∧ u.out = s.out ++ [.pldm 0])))) ∧
    (∀ (i : Iface) (v : Word), s.serves (ifaceNo i) = true →
      (s.mgmt.update ≠ none → NoEventQueue s → LogRoom s → Completes (.fwLoadGo i v) s (Discarded 3 rFwCtl s)) ∧
      (s.mgmt.update = none → Completes (.fwLoadGo i v) s (fun u => u.mgmt = { s.mgmt with update := some 2, fwStatus := 1, staged := [] } ∧
        wfld (u.reg rFwCtl) 39 8 = wfld v 39 8 ∧ SameRegsBut [rFwCtl, rChgStat] s u ∧ Changed (ifaceNo i) rFwCtl (u.view rFwCtl) s u)) ∧
      (s.mgmt.staged = [] → Completes (.fwAct i v) s (fun u => u.mgmt = s.mgmt ∧ u.flash = s.flash ∧ u.sec = s.sec)) ∧
      (firmware → s.mgmt.update = none → ¬ kept → Completes (.fwAct i v) s (fun u => u.flash = { s.flash with pend := true } ∧ u.sec = restarted ∧ u.tiles = s.tiles ∧
        u.chgNext = ((s.chgNext + 1) % 2 ^ 32 + 1) % 2 ^ 32)) ∧
      (firmware → s.mgmt.update = none → kept → Completes (.fwAct i v) s (fun u => u.flash = { s.flash with pend := true } ∧ u.sec = { s.sec with pendAct := true }))) ∧
    (∀ o : FwOutcome, s.mgmt.update ≠ some 2 ∨ s.hubUp = false → exec (.fwLoadDone o) s = .next s) ∧
    (s.mgmt.update = some 2 → s.hubUp = true →
      (∀ o : FwOutcome, o = .readFailed ∨ s.host.trained = false ∨ t2End < s.package.1 + s.package.2 →
        Completes (.fwLoadDone o) s (fun u => u.mgmt.fwStatus = 5 ∧ u.mgmt.update = none ∧ ∃ comp < 4, u.flash = s.flash.write comp none)) ∧
      (∀ c : Component, good c → arrives [c] → Completes (.fwLoadDone (.components [c])) s (fun u => lands c (some c) u ∧ verified 4 c u)) ∧
      (∀ cs : List Component, (∀ c ∈ cs, good c) → arrives cs → Completes (.fwLoadDone (.components cs)) s (fun u =>
        u.mgmt.fwStatus = 2 ∧ u.mgmt.update = none)) ∧
      (∀ (pre post : List Component) (c : Component), (∀ x ∈ pre, good x) → ¬ good c → arrives (pre ++ c :: post) →
        Completes (.fwLoadDone (.components (pre ++ c :: post))) s (fun u => u.mgmt.update = none ∧
          (sound 0 c → u.mgmt.fwStatus = 4) ∧ (¬ sound 0 c → u.mgmt.fwStatus = 3)))) ∧
    (∀ i : Iface, s.serves (ifaceNo i) = true →
      (s.job.st ≠ .empty → NoEventQueue s → LogRoom s → Completes (.selftestGo i) s (Discarded 3 rSelfTest s)) ∧
      (s.job.st = .empty → Completes (.selftestGo i) s (fun u => u.mgmt = { s.mgmt with selfBusy := true, fail0 := 0, fail1 := 0 } ∧
        SameRegsBut [rChgStat] s u ∧ Changed (ifaceNo i) rSelfTest 2 s u ∧ ∀ x, 0x140000000 ≤ x → u.byte x = s.byte x))) ∧
    (∀ a b, s.mgmt.selfBusy = true → Completes (.selftestDone a b) s (fun u =>
      u.mgmt = { s.mgmt with selfBusy := false, fail0 := min a 320, fail1 := min b 320 } ∧ u.regs = s.regs ∧ u.tiles = s.tiles ∧
      u.log = s.log ∧ u.out = s.out ∧ ∀ x, 0x140000000 ≤ x → u.byte x = s.byte x)) ∧
    (∀ a b, s.mgmt.selfBusy = false → exec (.selftestDone a b) s = .next s)

/-! ### Host commands (R125, R210, R213, R335 to R338) -/

/-- The host commands (R125, R210 to R213, R335 to R338): nothing runs without an entry in turn; a reserved operation code or a nonzero unused bit
completes with status 0x09; a command outside its states, or one that its checks turn away, completes with its status and leaves the
job as it was; LOAD, START, STOP, UNLOAD, VBUILD, VREADY and VSWITCH take effect.
Model's readings and choices: log 12, 76, 79, 118, 121 and 142. -/
def Obligations.HostCommands : Prop :=
  ∀ (s : State) (img : ImageRead),
    let all : List Instr := [.load img, .start, .stop, .stopImmediate, .unload, .vbuild, .vready, .vswitch]
    (s.hostReady = false ∨ s.cmdQueue = none ∨ (∃ q, s.cmdQueue = some q ∧ s.farWaits ((s.desc q).entryAt (s.desc q).head) = true) →
      ∀ c ∈ all, exec c s = .next s) ∧
    (∀ (q tag opc : Nat) (ops : List Nat), HostTurn s q tag opc ops → opc < 256 → opc = 0 ∨ 7 < opc ∨ opc = 4 ∧ ops.getD 0 0 ≠ 0 →
      ∀ c ∈ all, Completes c s (fun u => HostTold q tag 9 0 s u ∧ u.job = s.job)) ∧
    (∀ (q tag addr len : Nat), HostTurn s q tag 1 [addr, len] →
      let r := entryTaken s q
      let refused := fun (k : Nat) => Completes (.load img) s (fun u => HostTold q tag k 0 s u ∧ u.job = s.job)
      (s.job.st = .running → refused 1) ∧
      (s.job.st ≠ .running → s.farWaits addr = true → exec (.load img) s = .next s) ∧
      (s.job.st ≠ .running → s.farWaits addr = false →
        (s.hostReadable addr len = false ∨ s.mgmt.base = true ∧ tierOf addr ≠ .t2 ∨ img = .malformed ∨ img = .unreadable → refused 3) ∧
        (s.hostReadable addr len = true → s.mgmt.base = false ∨ tierOf addr = .t2 → ∀ i, img = .image i →
          let after := r.configured i
          let bs := r.bytes addr len
          tierOf addr ≠ .t2 ∨ Config.farFails r.freeCtr addr = false →
          (imageDigest i bs ≠ imageCarried i bs → refused 3) ∧
          (r.imageBad after i bs = true → refused 3) ∧
          (r.imageBad after i bs = false →
            (after.tablesBad i = true → refused 4) ∧
            (after.tablesBad i = false →
              (buffersBad i = true → refused 5) ∧
              (buffersBad i = false →
                ((imageTiles i).any after.configMisfit = true → refused 7) ∧
                ((imageTiles i).any after.configMisfit = false → Completes (.load img) s (fun u =>
                  u.job.st = .loaded ∧ u.job.img = some i ∧ u.job.addr = addr ∧ u.job.len = len ∧ u.job.members = [] ∧
                  u.job.ident = imageDigest i bs ∧ u.vpins = [] ∧ u.sec.meas[4] = extendMeas 0 (imageDigest i bs) ∧
                  (SMap.wf (fun _ => Tile.reset) s.tiles = true →
                    ∀ t, u.tile t = { Tile.reset with scrub := (s.tile t).scrub }))))))))) ∧
    (∀ (q tag seed n addr k : Nat), HostTurn s q tag 2 [seed, n, addr, k] → k < 2 ^ 13 →
      let r := entryTaken s q
      let refused := fun (x : Nat) => Completes .start s (fun u => HostTold q tag x 0 s u ∧ u.job = s.job)
      (s.job.st ≠ .loaded → refused 2) ∧
      (s.job.st = .loaded → s.farWaits addr = true → exec .start s = .next s) ∧
      (∀ i, s.job.st = .loaded → s.job.img = some i → s.farWaits addr = false →
        (s.hostReadable addr (8 * k) = false ∨ tierOf addr = .t2 ∧ Config.farFails r.freeCtr addr = true → refused 6) ∧
        (s.hostReadable addr (8 * k) = true → (tierOf addr = .t2 → Config.farFails r.freeCtr addr = false) →
          (membersOf (bodyOf (r.bytes addr (8 * k))) = none → refused 6) ∧
          (∀ ms, membersOf (bodyOf (r.bytes addr (8 * k))) = some ms →
            (r.startStatus i ms ≠ 0 → refused (r.startStatus i ms)) ∧
            (r.startStatus i ms = 0 → wfld (s.reg (hubReg 9 0x030)) 1 0 = 0 → Completes .start s (fun u =>
              u.job.st = .running ∧ u.job.members = ms ∧ u.job.seed = seed ∧ u.job.baseRun = i.baseCamp ∧ u.step.no = n ∧ u.step.att = 0 ∧
              u.job.startReq = (if ∃ m ∈ ms, (m.id = s.devId ∧ m.partner ≠ none) ∨ (m.partner = some s.devId ∧ m.kind = 0)
                then some (q, tag) else none) ∧
              (SMap.wf (fun _ => Tile.reset) s.tiles = true → i.phase = none →
              ∀ x ∈ i.sections, (i.sections.map (·.tile)).Nodup → (x.entries.map (·.1)).Nodup → ∀ l : Loc, l.tile.val = x.tile →
                ((s.ctx l).mode = .parked → (u.ctx l).mode = .parked) ∧
                ((s.ctx l).mode ≠ .parked →
                (∀ e ∈ x.entries, e.1 = l.ctx.val → u.ctx l = { Ctx.reset with mode := .run, pc := BitVec.ofNat 24 e.2 }) ∧
                ((∀ e ∈ x.entries, e.1 ≠ l.ctx.val) → u.ctx l = Ctx.reset))))))))) ∧
    (∀ (q tag : Nat) (now : Bool), HostTurn s q tag 3 (if now then [1] else []) →
      let c : Instr := if now then .stopImmediate else .stop
      let ends := if now then s.pastCommit = false else s.step.halted ≠ none ∨ s.stepTiles = []
      (s.job.st ≠ .running → Completes c s (fun u => HostTold q tag 2 0 s u ∧ u.job = s.job)) ∧
      (s.job.st = .running → ends → Completes c s (fun u => HostTold q tag 0 0 s u ∧ u.job.st = .loaded ∧ u.job.img = s.job.img ∧
        ∀ l : Loc, (s.ctx l).alive = true → (s.ctx l).mode ≠ .idle → (u.ctx l).mode = .halted)) ∧
      (s.job.st = .running → ¬ ends → Completes c s (fun u => u.job = { s.job with stopReq := some (q, tag) } ∧ u.tiles = s.tiles))) ∧
    (∀ (q tag : Nat), HostTurn s q tag 4 [] →
      (s.job.st = .running → Completes .unload s (fun u => HostTold q tag 1 0 s u ∧ u.job = s.job)) ∧
      (s.job.st = .empty → Completes .unload s (fun u => HostTold q tag 2 0 s u ∧ u.job = s.job)) ∧
      (s.job.st = .loaded → Completes .unload s (fun u => HostTold q tag 0 0 s u ∧ u.job.st = .empty ∧ u.job.img = none ∧ u.sec.meas[4] = 0))) ∧
    (∀ (q tag t v n : Nat), t < 64 → v < 4 →
      let op := v * 2 ^ 8 + t
      let outside := fun (runs : Prop) => s.job.st = .empty ∨ (runs ∧ s.job.st = .loaded) ∨ s.slotExists t v = false
      let pinned := (∃ e ∈ s.vpins, e.2.2 = (t, v)) ∨ ∃ p ∈ s.emb.pins, p.table = t ∧ p.slot = v
      let refused := fun (c : Instr) (k : Nat) => Completes c s (fun u => HostTold q tag k 0 s u ∧ u.job = s.job ∧ u.emb = s.emb)
      (HostTurn s q tag 5 [op] →
        (outside False → refused .vbuild 2) ∧
        (¬ outside False →
          (s.slotState t v = 0 ∨ pinned → refused .vbuild 8) ∧
          (s.slotState t v ≠ 0 → ¬ pinned → (s.slotStates t).length = 4 → Completes .vbuild s (fun u =>
            HostTold q tag 0 0 s u ∧ u.slotState t v = 2)))) ∧
      (HostTurn s q tag 6 [op] →
        (s.streamWaits t = true → exec .vready s = .next s) ∧
        (s.streamWaits t = false → outside False → refused .vready 2) ∧
        (s.streamWaits t = false → ¬ outside False →
          (s.slotState t v ≠ 2 → refused .vready 2) ∧
          (s.slotState t v = 2 → (s.slotStates t).length = 4 →
            (s.job.st = .loaded ∨ s.partner = none → Completes .vready s (fun u => HostTold q tag 0 0 s u ∧ u.slotState t v = 1)) ∧
            (s.job.st = .running → s.partner ≠ none → Completes .vready s (fun u =>
              (∃ c k, u.job.readyReq = some (q, tag, c, k, t, v)) ∧ u.slotState t v = 2))))) ∧
      (HostTurn s q tag 7 [op, n] →
        (outside True ∨ s.slotState t v ≠ 1 ∨ n < s.step.no → refused .vswitch 2) ∧
        (¬ outside True → s.slotState t v = 1 → s.step.no ≤ n → Completes .vswitch s (fun u => HostTold q tag 0 0 s u ∧
          (t, v, n) ∈ u.emb.switches ∧ ∀ x ∈ u.emb.switches, x.1 = t → x.2.2 = n → x = (t, v, n)))))

/-! ### Power-on, and what every step keeps -/

/-- Power-on (R9, R172, R275, R277, R313, R341, R367, R370, R397, R423, R430, R440, R450, R451): the registers hold the reset values of their field maps, no
job is loaded, every context is IDLE, every link DISABLED and the host link down, both logs are empty, memory lists nothing, and the pins
MOD_PWRGD and MOD_FAULT# are high.
Model's readings and choices: log 7, 10, 32 and 38. -/
def Obligations.ResetValues : Prop :=
  let s := State.reset
  s.pending = [] ∧ s.mem = [] ∧ Memory.wf s = true ∧ (∀ a, s.reg a = regReset a) ∧
  (∀ p ∈ [(0x200030000, 0x1003), (0x200030008, 3200), (0x200030010, 0xFC00), (0x200040000, 250000), (0x200040008, 16), (0x200040010, 0),
      (0x200040018, 0), (0x200040028, 0), (0x200050008, 4), (0x200070000, 4), (0x200070008, 4096), (0x200080008, 1), (0x200080000, 0),
      (0x200080010, 0), (0x200080018, 0), (0x200080020, 0), (0x200080028, 0), (0x200090000, 0), (0x200060000, 0), (0x200010000, 1),
      (0x200010018, 0), (0x200010028, 0), (0x200020000, 0), (0x200020008, 0), (0x200000000, 0), (0x200100008, 0), (0x200100000, 0)],
    s.view p.1 = BitVec.ofNat 64 p.2) ∧
  s.job.st = .empty ∧ s.job.sizes = (16, 4, 4096) ∧ (∀ l : Loc, (s.ctx l).mode = .idle) ∧ (∀ l, (s.link l).state = 0) ∧
  s.host.trained = false ∧ s.log = ⟨[], 0⟩ ∧ s.chg = [] ∧ s.chgNext = 0 ∧ s.inbox = [] ∧ (∀ i : Fin 8, s.sec.meas[i] = 0) ∧
  s.modPwrgd = true ∧ s.modFaultN = true

/-- Every step keeps memory in its canonical form: addresses strictly rising, and no byte that an unlisted address reads as.
Model's readings and choices: log 2, 72 and 105. -/
def Obligations.MemoryFormKept : Prop :=
  ∀ s t : State, Memory.wf s = true → step s = .next t → Memory.wf t = true

/-- The rollback counter only rises (R431): no command lowers it, whatever the state. -/
def Obligations.RollbackCounterOnlyRises : Prop :=
  ∀ s t : State, step s = .next t → s.flash.counter ≤ t.flash.counter
end

