-- ==== Sys2Proof/Laws/Store.lean ====
section
/-! SUPPORT. What the operations on sparse maps do: a read after a write, and the canonical form that every write keeps. -/
namespace Sys2Proof.Laws

open Sys2Proof

variable {α : Type}

/-- Reading a key that was removed gives the default. -/
theorem smap_get_del_self (d : Nat → α) (m : SMap α) (k : Nat) : (m.del k).get d k = d k := by
  induction m with
  | nil => rfl
  | cons e r ih =>
    by_cases h : e.1 = k
    · simp only [SMap.del, List.filter_cons, h]; simpa [SMap.del] using ih
    · simp only [SMap.del, List.filter_cons, ne_eq, h, not_false_eq_true, decide_true, if_true, SMap.get, if_false]
      simpa [SMap.del] using ih

/-- Removing a key leaves the others. -/
theorem smap_get_del_ne (d : Nat → α) (m : SMap α) {k j : Nat} (h : j ≠ k) : (m.del k).get d j = m.get d j := by
  induction m with
  | nil => rfl
  | cons e r ih =>
    simp only [SMap.del, List.filter_cons] at ih ⊢
    by_cases hk : e.1 = k
    · have : e.1 ≠ j := fun x => h (x.symm.trans hk)
      simp [SMap.get, hk, h.symm] ; simpa [SMap.del] using ih
    · simp only [ne_eq, hk, not_false_eq_true, decide_true, if_true, SMap.get]
      split
      · rfl
      · simpa [SMap.del] using ih

/-- Reading the key that was inserted gives the value, when the map does not list the key. -/
theorem smap_get_ins_self (d : Nat → α) (m : SMap α) (k : Nat) (v : α) (h : ∀ e ∈ m, e.1 ≠ k) :
    (SMap.ins k v m).get d k = v := by
  induction m with
  | nil => simp [SMap.ins, SMap.get]
  | cons e r ih =>
    simp only [SMap.ins]
    split
    · simp [SMap.get]
    · have h1 : e.1 ≠ k := h e (by simp)
      simp only [SMap.get, if_neg h1]
      exact ih (fun x hx => h x (by simp [hx]))

/-- Inserting a key leaves the others. -/
theorem smap_get_ins_ne (d : Nat → α) (m : SMap α) {k j : Nat} (v : α) (h : j ≠ k) :
    (SMap.ins k v m).get d j = m.get d j := by
  induction m with
  | nil => simp [SMap.ins, SMap.get, h.symm]
  | cons e r ih =>
    simp only [SMap.ins]
    split
    · simp [SMap.get, h.symm]
    · simp only [SMap.get]
      split
      · rfl
      · exact ih

/-- A removed key is not listed. -/
theorem smap_del_not_mem (m : SMap α) (k : Nat) : ∀ e ∈ m.del k, e.1 ≠ k := by
  intro e he
  simp only [SMap.del, List.mem_filter, decide_eq_true_eq] at he
  exact he.2

variable [DecidableEq α]

/-- A read of the written key gives the value written. -/
@[simp] theorem smap_get_put_self (d : Nat → α) (m : SMap α) (k : Nat) (v : α) : (m.put d k v).get d k = v := by
  unfold SMap.put
  split
  · next h => rw [smap_get_del_self, h]
  · exact smap_get_ins_self d _ k v (smap_del_not_mem m k)

/-- A read of another key gives what it gave. -/
theorem smap_get_put_ne (d : Nat → α) (m : SMap α) {k j : Nat} (v : α) (h : j ≠ k) :
    (m.put d k v).get d j = m.get d j := by
  unfold SMap.put
  split
  · exact smap_get_del_ne d m h
  · rw [smap_get_ins_ne d _ v h, smap_get_del_ne d m h]

/-- A read of any key after a write. -/
theorem smap_get_put (d : Nat → α) (m : SMap α) (k j : Nat) (v : α) :
    (m.put d k v).get d j = if j = k then v else m.get d j := by
  split
  · next h => rw [h]; exact smap_get_put_self d m k v
  · next h => exact smap_get_put_ne d m v h

omit [DecidableEq α] in
/-- Removing a key that was just inserted. -/
theorem smap_del_ins (m : SMap α) (k : Nat) (v : α) : (SMap.ins k v m).del k = m.del k := by
  induction m with
  | nil => simp [SMap.ins, SMap.del]
  | cons e r ih =>
    simp only [SMap.ins]
    split
    · simp [SMap.del, List.filter_cons]
    · simp only [SMap.del, List.filter_cons] at ih ⊢
      rw [ih]

omit [DecidableEq α] in
/-- Removing a key twice. -/
theorem smap_del_del (m : SMap α) (k : Nat) : (m.del k).del k = m.del k := by
  simp [SMap.del, List.filter_filter]

/-- Of two writes of a key the second stands. -/
@[simp] theorem smap_put_put (d : Nat → α) (m : SMap α) (k : Nat) (v w : α) : (m.put d k v).put d k w = m.put d k w := by
  have h : (m.put d k v).del k = m.del k := by
    unfold SMap.put
    split
    · exact smap_del_del m k
    · rw [smap_del_ins, smap_del_del]
  unfold SMap.put at h ⊢
  rw [h]

omit [DecidableEq α] in
/-- The keys of a rising map rise from its head. -/
theorem smap_rising_cons {e : Nat × α} {r : SMap α} :
    SMap.Rising (e :: r) = true ↔ (∀ x ∈ r, e.1 < x.1) ∧ SMap.Rising r = true := by
  simp [SMap.Rising, List.all_eq_true]

omit [DecidableEq α] in
/-- Removing entries keeps the keys rising. -/
theorem smap_rising_filter {m : SMap α} (p : Nat × α → Bool) (h : SMap.Rising m = true) :
    SMap.Rising (m.filter p) = true := by
  induction m with
  | nil => rfl
  | cons e r ih =>
    rw [smap_rising_cons] at h
    simp only [List.filter_cons]
    split
    · rw [smap_rising_cons]
      exact ⟨fun x hx => h.1 x (List.mem_filter.mp hx).1, ih h.2⟩
    · exact ih h.2

omit [DecidableEq α] in
/-- The members of a map with an insertion. -/
theorem smap_mem_ins {k : Nat} {v : α} {m : SMap α} {x : Nat × α} : x ∈ SMap.ins k v m ↔ x = (k, v) ∨ x ∈ m := by
  induction m with
  | nil => simp [SMap.ins]
  | cons e r ih =>
    simp only [SMap.ins]
    split
    · simp
    · simp only [List.mem_cons, ih]; tauto

omit [DecidableEq α] in
/-- Inserting a key that is not listed keeps the keys rising. -/
theorem smap_rising_ins {m : SMap α} (k : Nat) (v : α) (h : SMap.Rising m = true) (hk : ∀ e ∈ m, e.1 ≠ k) :
    SMap.Rising (SMap.ins k v m) = true := by
  induction m with
  | nil => rfl
  | cons e r ih =>
    have h' := smap_rising_cons.mp h
    have he : e.1 ≠ k := hk e (by simp)
    simp only [SMap.ins]
    split
    · next hlt =>
      rw [smap_rising_cons]
      refine ⟨?_, h⟩
      intro x hx
      rcases List.mem_cons.mp hx with rfl | hx
      · exact hlt
      · exact lt_trans hlt (h'.1 x hx)
    · next hlt =>
      rw [smap_rising_cons]
      refine ⟨?_, ih h'.2 (fun x hx => hk x (by simp [hx]))⟩
      intro x hx
      rcases smap_mem_ins.mp hx with rfl | hx
      · show e.1 < k; omega
      · exact h'.1 x hx

/-- The canonical form, as a proposition. -/
theorem smap_wf_iff {d : Nat → α} {m : SMap α} :
    SMap.wf d m = true ↔ SMap.Rising m = true ∧ ∀ e ∈ m, e.2 ≠ d e.1 := by
  simp [SMap.wf, List.all_eq_true]

/-- The empty map is canonical. -/
@[simp] theorem smap_wf_nil (d : Nat → α) : SMap.wf d ([] : SMap α) = true := rfl

/-- Removing entries keeps the canonical form. -/
theorem smap_wf_filter {d : Nat → α} {m : SMap α} (p : Nat × α → Bool) (h : SMap.wf d m = true) :
    SMap.wf d (m.filter p) = true := by
  rw [smap_wf_iff] at h ⊢
  exact ⟨smap_rising_filter p h.1, fun e he => h.2 e (List.mem_filter.mp he).1⟩

/-- A write keeps the canonical form. -/
theorem smap_wf_put {d : Nat → α} {m : SMap α} (k : Nat) (v : α) (h : SMap.wf d m = true) :
    SMap.wf d (m.put d k v) = true := by
  have hd : SMap.wf d (m.del k) = true := smap_wf_filter _ h
  unfold SMap.put
  split
  · exact hd
  · next hv =>
    rw [smap_wf_iff] at hd ⊢
    refine ⟨smap_rising_ins k v hd.1 (smap_del_not_mem m k), ?_⟩
    intro e he
    rcases smap_mem_ins.mp he with rfl | he
    · exact hv
    · exact hd.2 e he

end Sys2Proof.Laws
end

