-- ==== Sys2Proof/Laws/State.lean ====
section
/-! SUPPORT. What each update of State leaves: one lemma for each field and update, and the reads of registers, tiles, contexts and
memory after a write. -/
namespace Sys2Proof.Laws

open Sys2Proof Sys2Proof.Machine

variable (s : State)

/-! ### `setReg` -/

@[simp] theorem setReg_pending (a : Nat) (v : Word) : (s.setReg a v).pending = s.pending := rfl
@[simp] theorem setReg_freeCtr (a : Nat) (v : Word) : (s.setReg a v).freeCtr = s.freeCtr := rfl
@[simp] theorem setReg_mem (a : Nat) (v : Word) : (s.setReg a v).mem = s.mem := rfl
@[simp] theorem setReg_undef (a : Nat) (v : Word) : (s.setReg a v).undef = s.undef := rfl
@[simp] theorem setReg_upset (a : Nat) (v : Word) : (s.setReg a v).upset = s.upset := rfl
@[simp] theorem setReg_poison (a : Nat) (v : Word) : (s.setReg a v).poison = s.poison := rfl
@[simp] theorem setReg_tiles (a : Nat) (v : Word) : (s.setReg a v).tiles = s.tiles := rfl
@[simp] theorem setReg_signals (a : Nat) (v : Word) : (s.setReg a v).signals = s.signals := rfl
@[simp] theorem setReg_vpins (a : Nat) (v : Word) : (s.setReg a v).vpins = s.vpins := rfl
@[simp] theorem setReg_aon (a : Nat) (v : Word) : (s.setReg a v).aon = s.aon := rfl
@[simp] theorem setReg_log (a : Nat) (v : Word) : (s.setReg a v).log = s.log := rfl
@[simp] theorem setReg_chg (a : Nat) (v : Word) : (s.setReg a v).chg = s.chg := rfl
@[simp] theorem setReg_chgNext (a : Nat) (v : Word) : (s.setReg a v).chgNext = s.chgNext := rfl
@[simp] theorem setReg_inbox (a : Nat) (v : Word) : (s.setReg a v).inbox = s.inbox := rfl
@[simp] theorem setReg_netWait (a : Nat) (v : Word) : (s.setReg a v).netWait = s.netWait := rfl
@[simp] theorem setReg_links (a : Nat) (v : Word) : (s.setReg a v).links = s.links := rfl
@[simp] theorem setReg_out (a : Nat) (v : Word) : (s.setReg a v).out = s.out := rfl
@[simp] theorem setReg_qm (a : Nat) (v : Word) : (s.setReg a v).qm = s.qm := rfl
@[simp] theorem setReg_job (a : Nat) (v : Word) : (s.setReg a v).job = s.job := rfl
@[simp] theorem setReg_step (a : Nat) (v : Word) : (s.setReg a v).step = s.step := rfl
@[simp] theorem setReg_bufs (a : Nat) (v : Word) : (s.setReg a v).bufs = s.bufs := rfl
@[simp] theorem setReg_emb (a : Nat) (v : Word) : (s.setReg a v).emb = s.emb := rfl
@[simp] theorem setReg_cairn (a : Nat) (v : Word) : (s.setReg a v).cairn = s.cairn := rfl
@[simp] theorem setReg_belay (a : Nat) (v : Word) : (s.setReg a v).belay = s.belay := rfl
@[simp] theorem setReg_book (a : Nat) (v : Word) : (s.setReg a v).book = s.book := rfl
@[simp] theorem setReg_host (a : Nat) (v : Word) : (s.setReg a v).host = s.host := rfl
@[simp] theorem setReg_power (a : Nat) (v : Word) : (s.setReg a v).power = s.power := rfl
@[simp] theorem setReg_sluice (a : Nat) (v : Word) : (s.setReg a v).sluice = s.sluice := rfl
@[simp] theorem setReg_flash (a : Nat) (v : Word) : (s.setReg a v).flash = s.flash := rfl
@[simp] theorem setReg_sec (a : Nat) (v : Word) : (s.setReg a v).sec = s.sec := rfl
@[simp] theorem setReg_mgmt (a : Nat) (v : Word) : (s.setReg a v).mgmt = s.mgmt := rfl
@[simp] theorem setReg_rst (a : Nat) (v : Word) : (s.setReg a v).rst = s.rst := rfl
@[simp] theorem setReg_hostRd (a : Nat) (v : Word) : (s.setReg a v).hostRd = s.hostRd := rfl
@[simp] theorem setReg_rdBytes (a : Nat) (v : Word) : (s.setReg a v).rdBytes = s.rdBytes := rfl
@[simp] theorem setReg_rom (a : Nat) (v : Word) : (s.setReg a v).rom = s.rom := rfl

/-! ### `count` -/

@[simp] theorem count_pending (a n : Nat) : (s.count a n).pending = s.pending := rfl
@[simp] theorem count_freeCtr (a n : Nat) : (s.count a n).freeCtr = s.freeCtr := rfl
@[simp] theorem count_mem (a n : Nat) : (s.count a n).mem = s.mem := rfl
@[simp] theorem count_undef (a n : Nat) : (s.count a n).undef = s.undef := rfl
@[simp] theorem count_upset (a n : Nat) : (s.count a n).upset = s.upset := rfl
@[simp] theorem count_poison (a n : Nat) : (s.count a n).poison = s.poison := rfl
@[simp] theorem count_tiles (a n : Nat) : (s.count a n).tiles = s.tiles := rfl
@[simp] theorem count_signals (a n : Nat) : (s.count a n).signals = s.signals := rfl
@[simp] theorem count_vpins (a n : Nat) : (s.count a n).vpins = s.vpins := rfl
@[simp] theorem count_aon (a n : Nat) : (s.count a n).aon = s.aon := rfl
@[simp] theorem count_log (a n : Nat) : (s.count a n).log = s.log := rfl
@[simp] theorem count_chg (a n : Nat) : (s.count a n).chg = s.chg := rfl
@[simp] theorem count_chgNext (a n : Nat) : (s.count a n).chgNext = s.chgNext := rfl
@[simp] theorem count_inbox (a n : Nat) : (s.count a n).inbox = s.inbox := rfl
@[simp] theorem count_netWait (a n : Nat) : (s.count a n).netWait = s.netWait := rfl
@[simp] theorem count_links (a n : Nat) : (s.count a n).links = s.links := rfl
@[simp] theorem count_out (a n : Nat) : (s.count a n).out = s.out := rfl
@[simp] theorem count_qm (a n : Nat) : (s.count a n).qm = s.qm := rfl
@[simp] theorem count_job (a n : Nat) : (s.count a n).job = s.job := rfl
@[simp] theorem count_step (a n : Nat) : (s.count a n).step = s.step := rfl
@[simp] theorem count_bufs (a n : Nat) : (s.count a n).bufs = s.bufs := rfl
@[simp] theorem count_emb (a n : Nat) : (s.count a n).emb = s.emb := rfl
@[simp] theorem count_cairn (a n : Nat) : (s.count a n).cairn = s.cairn := rfl
@[simp] theorem count_belay (a n : Nat) : (s.count a n).belay = s.belay := rfl
@[simp] theorem count_book (a n : Nat) : (s.count a n).book = s.book := rfl
@[simp] theorem count_host (a n : Nat) : (s.count a n).host = s.host := rfl
@[simp] theorem count_power (a n : Nat) : (s.count a n).power = s.power := rfl
@[simp] theorem count_sluice (a n : Nat) : (s.count a n).sluice = s.sluice := rfl
@[simp] theorem count_flash (a n : Nat) : (s.count a n).flash = s.flash := rfl
@[simp] theorem count_sec (a n : Nat) : (s.count a n).sec = s.sec := rfl
@[simp] theorem count_mgmt (a n : Nat) : (s.count a n).mgmt = s.mgmt := rfl
@[simp] theorem count_rst (a n : Nat) : (s.count a n).rst = s.rst := rfl
@[simp] theorem count_hostRd (a n : Nat) : (s.count a n).hostRd = s.hostRd := rfl
@[simp] theorem count_rdBytes (a n : Nat) : (s.count a n).rdBytes = s.rdBytes := rfl
@[simp] theorem count_rom (a n : Nat) : (s.count a n).rom = s.rom := rfl

/-! ### `setTile` -/

@[simp] theorem setTile_pending (t : Nat) (x : Tile) : (s.setTile t x).pending = s.pending := rfl
@[simp] theorem setTile_freeCtr (t : Nat) (x : Tile) : (s.setTile t x).freeCtr = s.freeCtr := rfl
@[simp] theorem setTile_mem (t : Nat) (x : Tile) : (s.setTile t x).mem = s.mem := rfl
@[simp] theorem setTile_undef (t : Nat) (x : Tile) : (s.setTile t x).undef = s.undef := rfl
@[simp] theorem setTile_upset (t : Nat) (x : Tile) : (s.setTile t x).upset = s.upset := rfl
@[simp] theorem setTile_poison (t : Nat) (x : Tile) : (s.setTile t x).poison = s.poison := rfl
@[simp] theorem setTile_regs (t : Nat) (x : Tile) : (s.setTile t x).regs = s.regs := rfl
@[simp] theorem setTile_signals (t : Nat) (x : Tile) : (s.setTile t x).signals = s.signals := rfl
@[simp] theorem setTile_vpins (t : Nat) (x : Tile) : (s.setTile t x).vpins = s.vpins := rfl
@[simp] theorem setTile_aon (t : Nat) (x : Tile) : (s.setTile t x).aon = s.aon := rfl
@[simp] theorem setTile_log (t : Nat) (x : Tile) : (s.setTile t x).log = s.log := rfl
@[simp] theorem setTile_chg (t : Nat) (x : Tile) : (s.setTile t x).chg = s.chg := rfl
@[simp] theorem setTile_chgNext (t : Nat) (x : Tile) : (s.setTile t x).chgNext = s.chgNext := rfl
@[simp] theorem setTile_inbox (t : Nat) (x : Tile) : (s.setTile t x).inbox = s.inbox := rfl
@[simp] theorem setTile_netWait (t : Nat) (x : Tile) : (s.setTile t x).netWait = s.netWait := rfl
@[simp] theorem setTile_links (t : Nat) (x : Tile) : (s.setTile t x).links = s.links := rfl
@[simp] theorem setTile_out (t : Nat) (x : Tile) : (s.setTile t x).out = s.out := rfl
@[simp] theorem setTile_qm (t : Nat) (x : Tile) : (s.setTile t x).qm = s.qm := rfl
@[simp] theorem setTile_job (t : Nat) (x : Tile) : (s.setTile t x).job = s.job := rfl
@[simp] theorem setTile_step (t : Nat) (x : Tile) : (s.setTile t x).step = s.step := rfl
@[simp] theorem setTile_bufs (t : Nat) (x : Tile) : (s.setTile t x).bufs = s.bufs := rfl
@[simp] theorem setTile_emb (t : Nat) (x : Tile) : (s.setTile t x).emb = s.emb := rfl
@[simp] theorem setTile_cairn (t : Nat) (x : Tile) : (s.setTile t x).cairn = s.cairn := rfl
@[simp] theorem setTile_belay (t : Nat) (x : Tile) : (s.setTile t x).belay = s.belay := rfl
@[simp] theorem setTile_book (t : Nat) (x : Tile) : (s.setTile t x).book = s.book := rfl
@[simp] theorem setTile_host (t : Nat) (x : Tile) : (s.setTile t x).host = s.host := rfl
@[simp] theorem setTile_power (t : Nat) (x : Tile) : (s.setTile t x).power = s.power := rfl
@[simp] theorem setTile_sluice (t : Nat) (x : Tile) : (s.setTile t x).sluice = s.sluice := rfl
@[simp] theorem setTile_flash (t : Nat) (x : Tile) : (s.setTile t x).flash = s.flash := rfl
@[simp] theorem setTile_sec (t : Nat) (x : Tile) : (s.setTile t x).sec = s.sec := rfl
@[simp] theorem setTile_mgmt (t : Nat) (x : Tile) : (s.setTile t x).mgmt = s.mgmt := rfl
@[simp] theorem setTile_rst (t : Nat) (x : Tile) : (s.setTile t x).rst = s.rst := rfl
@[simp] theorem setTile_hostRd (t : Nat) (x : Tile) : (s.setTile t x).hostRd = s.hostRd := rfl
@[simp] theorem setTile_rdBytes (t : Nat) (x : Tile) : (s.setTile t x).rdBytes = s.rdBytes := rfl
@[simp] theorem setTile_rom (t : Nat) (x : Tile) : (s.setTile t x).rom = s.rom := rfl

/-! ### `updTile` -/

@[simp] theorem updTile_pending (t : Nat) (f : Tile → Tile) : (s.updTile t f).pending = s.pending := rfl
@[simp] theorem updTile_freeCtr (t : Nat) (f : Tile → Tile) : (s.updTile t f).freeCtr = s.freeCtr := rfl
@[simp] theorem updTile_mem (t : Nat) (f : Tile → Tile) : (s.updTile t f).mem = s.mem := rfl
@[simp] theorem updTile_undef (t : Nat) (f : Tile → Tile) : (s.updTile t f).undef = s.undef := rfl
@[simp] theorem updTile_upset (t : Nat) (f : Tile → Tile) : (s.updTile t f).upset = s.upset := rfl
@[simp] theorem updTile_poison (t : Nat) (f : Tile → Tile) : (s.updTile t f).poison = s.poison := rfl
@[simp] theorem updTile_regs (t : Nat) (f : Tile → Tile) : (s.updTile t f).regs = s.regs := rfl
@[simp] theorem updTile_signals (t : Nat) (f : Tile → Tile) : (s.updTile t f).signals = s.signals := rfl
@[simp] theorem updTile_vpins (t : Nat) (f : Tile → Tile) : (s.updTile t f).vpins = s.vpins := rfl
@[simp] theorem updTile_aon (t : Nat) (f : Tile → Tile) : (s.updTile t f).aon = s.aon := rfl
@[simp] theorem updTile_log (t : Nat) (f : Tile → Tile) : (s.updTile t f).log = s.log := rfl
@[simp] theorem updTile_chg (t : Nat) (f : Tile → Tile) : (s.updTile t f).chg = s.chg := rfl
@[simp] theorem updTile_chgNext (t : Nat) (f : Tile → Tile) : (s.updTile t f).chgNext = s.chgNext := rfl
@[simp] theorem updTile_inbox (t : Nat) (f : Tile → Tile) : (s.updTile t f).inbox = s.inbox := rfl
@[simp] theorem updTile_netWait (t : Nat) (f : Tile → Tile) : (s.updTile t f).netWait = s.netWait := rfl
@[simp] theorem updTile_links (t : Nat) (f : Tile → Tile) : (s.updTile t f).links = s.links := rfl
@[simp] theorem updTile_out (t : Nat) (f : Tile → Tile) : (s.updTile t f).out = s.out := rfl
@[simp] theorem updTile_qm (t : Nat) (f : Tile → Tile) : (s.updTile t f).qm = s.qm := rfl
@[simp] theorem updTile_job (t : Nat) (f : Tile → Tile) : (s.updTile t f).job = s.job := rfl
@[simp] theorem updTile_step (t : Nat) (f : Tile → Tile) : (s.updTile t f).step = s.step := rfl
@[simp] theorem updTile_bufs (t : Nat) (f : Tile → Tile) : (s.updTile t f).bufs = s.bufs := rfl
@[simp] theorem updTile_emb (t : Nat) (f : Tile → Tile) : (s.updTile t f).emb = s.emb := rfl
@[simp] theorem updTile_cairn (t : Nat) (f : Tile → Tile) : (s.updTile t f).cairn = s.cairn := rfl
@[simp] theorem updTile_belay (t : Nat) (f : Tile → Tile) : (s.updTile t f).belay = s.belay := rfl
@[simp] theorem updTile_book (t : Nat) (f : Tile → Tile) : (s.updTile t f).book = s.book := rfl
@[simp] theorem updTile_host (t : Nat) (f : Tile → Tile) : (s.updTile t f).host = s.host := rfl
@[simp] theorem updTile_power (t : Nat) (f : Tile → Tile) : (s.updTile t f).power = s.power := rfl
@[simp] theorem updTile_sluice (t : Nat) (f : Tile → Tile) : (s.updTile t f).sluice = s.sluice := rfl
@[simp] theorem updTile_flash (t : Nat) (f : Tile → Tile) : (s.updTile t f).flash = s.flash := rfl
@[simp] theorem updTile_sec (t : Nat) (f : Tile → Tile) : (s.updTile t f).sec = s.sec := rfl
@[simp] theorem updTile_mgmt (t : Nat) (f : Tile → Tile) : (s.updTile t f).mgmt = s.mgmt := rfl
@[simp] theorem updTile_rst (t : Nat) (f : Tile → Tile) : (s.updTile t f).rst = s.rst := rfl
@[simp] theorem updTile_hostRd (t : Nat) (f : Tile → Tile) : (s.updTile t f).hostRd = s.hostRd := rfl
@[simp] theorem updTile_rdBytes (t : Nat) (f : Tile → Tile) : (s.updTile t f).rdBytes = s.rdBytes := rfl
@[simp] theorem updTile_rom (t : Nat) (f : Tile → Tile) : (s.updTile t f).rom = s.rom := rfl

/-! ### `setCtx` -/

@[simp] theorem setCtx_pending (l : Loc) (c : Ctx) : (s.setCtx l c).pending = s.pending := rfl
@[simp] theorem setCtx_freeCtr (l : Loc) (c : Ctx) : (s.setCtx l c).freeCtr = s.freeCtr := rfl
@[simp] theorem setCtx_mem (l : Loc) (c : Ctx) : (s.setCtx l c).mem = s.mem := rfl
@[simp] theorem setCtx_undef (l : Loc) (c : Ctx) : (s.setCtx l c).undef = s.undef := rfl
@[simp] theorem setCtx_upset (l : Loc) (c : Ctx) : (s.setCtx l c).upset = s.upset := rfl
@[simp] theorem setCtx_poison (l : Loc) (c : Ctx) : (s.setCtx l c).poison = s.poison := rfl
@[simp] theorem setCtx_regs (l : Loc) (c : Ctx) : (s.setCtx l c).regs = s.regs := rfl
@[simp] theorem setCtx_signals (l : Loc) (c : Ctx) : (s.setCtx l c).signals = s.signals := rfl
@[simp] theorem setCtx_vpins (l : Loc) (c : Ctx) : (s.setCtx l c).vpins = s.vpins := rfl
@[simp] theorem setCtx_aon (l : Loc) (c : Ctx) : (s.setCtx l c).aon = s.aon := rfl
@[simp] theorem setCtx_log (l : Loc) (c : Ctx) : (s.setCtx l c).log = s.log := rfl
@[simp] theorem setCtx_chg (l : Loc) (c : Ctx) : (s.setCtx l c).chg = s.chg := rfl
@[simp] theorem setCtx_chgNext (l : Loc) (c : Ctx) : (s.setCtx l c).chgNext = s.chgNext := rfl
@[simp] theorem setCtx_inbox (l : Loc) (c : Ctx) : (s.setCtx l c).inbox = s.inbox := rfl
@[simp] theorem setCtx_netWait (l : Loc) (c : Ctx) : (s.setCtx l c).netWait = s.netWait := rfl
@[simp] theorem setCtx_links (l : Loc) (c : Ctx) : (s.setCtx l c).links = s.links := rfl
@[simp] theorem setCtx_out (l : Loc) (c : Ctx) : (s.setCtx l c).out = s.out := rfl
@[simp] theorem setCtx_qm (l : Loc) (c : Ctx) : (s.setCtx l c).qm = s.qm := rfl
@[simp] theorem setCtx_job (l : Loc) (c : Ctx) : (s.setCtx l c).job = s.job := rfl
@[simp] theorem setCtx_step (l : Loc) (c : Ctx) : (s.setCtx l c).step = s.step := rfl
@[simp] theorem setCtx_bufs (l : Loc) (c : Ctx) : (s.setCtx l c).bufs = s.bufs := rfl
@[simp] theorem setCtx_emb (l : Loc) (c : Ctx) : (s.setCtx l c).emb = s.emb := rfl
@[simp] theorem setCtx_cairn (l : Loc) (c : Ctx) : (s.setCtx l c).cairn = s.cairn := rfl
@[simp] theorem setCtx_belay (l : Loc) (c : Ctx) : (s.setCtx l c).belay = s.belay := rfl
@[simp] theorem setCtx_book (l : Loc) (c : Ctx) : (s.setCtx l c).book = s.book := rfl
@[simp] theorem setCtx_host (l : Loc) (c : Ctx) : (s.setCtx l c).host = s.host := rfl
@[simp] theorem setCtx_power (l : Loc) (c : Ctx) : (s.setCtx l c).power = s.power := rfl
@[simp] theorem setCtx_sluice (l : Loc) (c : Ctx) : (s.setCtx l c).sluice = s.sluice := rfl
@[simp] theorem setCtx_flash (l : Loc) (c : Ctx) : (s.setCtx l c).flash = s.flash := rfl
@[simp] theorem setCtx_sec (l : Loc) (c : Ctx) : (s.setCtx l c).sec = s.sec := rfl
@[simp] theorem setCtx_mgmt (l : Loc) (c : Ctx) : (s.setCtx l c).mgmt = s.mgmt := rfl
@[simp] theorem setCtx_rst (l : Loc) (c : Ctx) : (s.setCtx l c).rst = s.rst := rfl
@[simp] theorem setCtx_hostRd (l : Loc) (c : Ctx) : (s.setCtx l c).hostRd = s.hostRd := rfl
@[simp] theorem setCtx_rdBytes (l : Loc) (c : Ctx) : (s.setCtx l c).rdBytes = s.rdBytes := rfl
@[simp] theorem setCtx_rom (l : Loc) (c : Ctx) : (s.setCtx l c).rom = s.rom := rfl

/-! ### `updCtx` -/

@[simp] theorem updCtx_pending (l : Loc) (f : Ctx → Ctx) : (s.updCtx l f).pending = s.pending := rfl
@[simp] theorem updCtx_freeCtr (l : Loc) (f : Ctx → Ctx) : (s.updCtx l f).freeCtr = s.freeCtr := rfl
@[simp] theorem updCtx_mem (l : Loc) (f : Ctx → Ctx) : (s.updCtx l f).mem = s.mem := rfl
@[simp] theorem updCtx_undef (l : Loc) (f : Ctx → Ctx) : (s.updCtx l f).undef = s.undef := rfl
@[simp] theorem updCtx_upset (l : Loc) (f : Ctx → Ctx) : (s.updCtx l f).upset = s.upset := rfl
@[simp] theorem updCtx_poison (l : Loc) (f : Ctx → Ctx) : (s.updCtx l f).poison = s.poison := rfl
@[simp] theorem updCtx_regs (l : Loc) (f : Ctx → Ctx) : (s.updCtx l f).regs = s.regs := rfl
@[simp] theorem updCtx_signals (l : Loc) (f : Ctx → Ctx) : (s.updCtx l f).signals = s.signals := rfl
@[simp] theorem updCtx_vpins (l : Loc) (f : Ctx → Ctx) : (s.updCtx l f).vpins = s.vpins := rfl
@[simp] theorem updCtx_aon (l : Loc) (f : Ctx → Ctx) : (s.updCtx l f).aon = s.aon := rfl
@[simp] theorem updCtx_log (l : Loc) (f : Ctx → Ctx) : (s.updCtx l f).log = s.log := rfl
@[simp] theorem updCtx_chg (l : Loc) (f : Ctx → Ctx) : (s.updCtx l f).chg = s.chg := rfl
@[simp] theorem updCtx_chgNext (l : Loc) (f : Ctx → Ctx) : (s.updCtx l f).chgNext = s.chgNext := rfl
@[simp] theorem updCtx_inbox (l : Loc) (f : Ctx → Ctx) : (s.updCtx l f).inbox = s.inbox := rfl
@[simp] theorem updCtx_netWait (l : Loc) (f : Ctx → Ctx) : (s.updCtx l f).netWait = s.netWait := rfl
@[simp] theorem updCtx_links (l : Loc) (f : Ctx → Ctx) : (s.updCtx l f).links = s.links := rfl
@[simp] theorem updCtx_out (l : Loc) (f : Ctx → Ctx) : (s.updCtx l f).out = s.out := rfl
@[simp] theorem updCtx_qm (l : Loc) (f : Ctx → Ctx) : (s.updCtx l f).qm = s.qm := rfl
@[simp] theorem updCtx_job (l : Loc) (f : Ctx → Ctx) : (s.updCtx l f).job = s.job := rfl
@[simp] theorem updCtx_step (l : Loc) (f : Ctx → Ctx) : (s.updCtx l f).step = s.step := rfl
@[simp] theorem updCtx_bufs (l : Loc) (f : Ctx → Ctx) : (s.updCtx l f).bufs = s.bufs := rfl
@[simp] theorem updCtx_emb (l : Loc) (f : Ctx → Ctx) : (s.updCtx l f).emb = s.emb := rfl
@[simp] theorem updCtx_cairn (l : Loc) (f : Ctx → Ctx) : (s.updCtx l f).cairn = s.cairn := rfl
@[simp] theorem updCtx_belay (l : Loc) (f : Ctx → Ctx) : (s.updCtx l f).belay = s.belay := rfl
@[simp] theorem updCtx_book (l : Loc) (f : Ctx → Ctx) : (s.updCtx l f).book = s.book := rfl
@[simp] theorem updCtx_host (l : Loc) (f : Ctx → Ctx) : (s.updCtx l f).host = s.host := rfl
@[simp] theorem updCtx_power (l : Loc) (f : Ctx → Ctx) : (s.updCtx l f).power = s.power := rfl
@[simp] theorem updCtx_sluice (l : Loc) (f : Ctx → Ctx) : (s.updCtx l f).sluice = s.sluice := rfl
@[simp] theorem updCtx_flash (l : Loc) (f : Ctx → Ctx) : (s.updCtx l f).flash = s.flash := rfl
@[simp] theorem updCtx_sec (l : Loc) (f : Ctx → Ctx) : (s.updCtx l f).sec = s.sec := rfl
@[simp] theorem updCtx_mgmt (l : Loc) (f : Ctx → Ctx) : (s.updCtx l f).mgmt = s.mgmt := rfl
@[simp] theorem updCtx_rst (l : Loc) (f : Ctx → Ctx) : (s.updCtx l f).rst = s.rst := rfl
@[simp] theorem updCtx_hostRd (l : Loc) (f : Ctx → Ctx) : (s.updCtx l f).hostRd = s.hostRd := rfl
@[simp] theorem updCtx_rdBytes (l : Loc) (f : Ctx → Ctx) : (s.updCtx l f).rdBytes = s.rdBytes := rfl
@[simp] theorem updCtx_rom (l : Loc) (f : Ctx → Ctx) : (s.updCtx l f).rom = s.rom := rfl

/-! ### `advance` -/

@[simp] theorem advance_pending (l : Loc) : (s.advance l).pending = s.pending := rfl
@[simp] theorem advance_freeCtr (l : Loc) : (s.advance l).freeCtr = s.freeCtr := rfl
@[simp] theorem advance_mem (l : Loc) : (s.advance l).mem = s.mem := rfl
@[simp] theorem advance_undef (l : Loc) : (s.advance l).undef = s.undef := rfl
@[simp] theorem advance_upset (l : Loc) : (s.advance l).upset = s.upset := rfl
@[simp] theorem advance_poison (l : Loc) : (s.advance l).poison = s.poison := rfl
@[simp] theorem advance_regs (l : Loc) : (s.advance l).regs = s.regs := rfl
@[simp] theorem advance_signals (l : Loc) : (s.advance l).signals = s.signals := rfl
@[simp] theorem advance_vpins (l : Loc) : (s.advance l).vpins = s.vpins := rfl
@[simp] theorem advance_aon (l : Loc) : (s.advance l).aon = s.aon := rfl
@[simp] theorem advance_log (l : Loc) : (s.advance l).log = s.log := rfl
@[simp] theorem advance_chg (l : Loc) : (s.advance l).chg = s.chg := rfl
@[simp] theorem advance_chgNext (l : Loc) : (s.advance l).chgNext = s.chgNext := rfl
@[simp] theorem advance_inbox (l : Loc) : (s.advance l).inbox = s.inbox := rfl
@[simp] theorem advance_netWait (l : Loc) : (s.advance l).netWait = s.netWait := rfl
@[simp] theorem advance_links (l : Loc) : (s.advance l).links = s.links := rfl
@[simp] theorem advance_out (l : Loc) : (s.advance l).out = s.out := rfl
@[simp] theorem advance_qm (l : Loc) : (s.advance l).qm = s.qm := rfl
@[simp] theorem advance_job (l : Loc) : (s.advance l).job = s.job := rfl
@[simp] theorem advance_step (l : Loc) : (s.advance l).step = s.step := rfl
@[simp] theorem advance_bufs (l : Loc) : (s.advance l).bufs = s.bufs := rfl
@[simp] theorem advance_emb (l : Loc) : (s.advance l).emb = s.emb := rfl
@[simp] theorem advance_cairn (l : Loc) : (s.advance l).cairn = s.cairn := rfl
@[simp] theorem advance_belay (l : Loc) : (s.advance l).belay = s.belay := rfl
@[simp] theorem advance_book (l : Loc) : (s.advance l).book = s.book := rfl
@[simp] theorem advance_host (l : Loc) : (s.advance l).host = s.host := rfl
@[simp] theorem advance_power (l : Loc) : (s.advance l).power = s.power := rfl
@[simp] theorem advance_sluice (l : Loc) : (s.advance l).sluice = s.sluice := rfl
@[simp] theorem advance_flash (l : Loc) : (s.advance l).flash = s.flash := rfl
@[simp] theorem advance_sec (l : Loc) : (s.advance l).sec = s.sec := rfl
@[simp] theorem advance_mgmt (l : Loc) : (s.advance l).mgmt = s.mgmt := rfl
@[simp] theorem advance_rst (l : Loc) : (s.advance l).rst = s.rst := rfl
@[simp] theorem advance_hostRd (l : Loc) : (s.advance l).hostRd = s.hostRd := rfl
@[simp] theorem advance_rdBytes (l : Loc) : (s.advance l).rdBytes = s.rdBytes := rfl
@[simp] theorem advance_rom (l : Loc) : (s.advance l).rom = s.rom := rfl

/-! ### `poke` -/

@[simp] theorem poke_pending (a : Nat) (bs : List Byte) : (s.poke a bs).pending = s.pending := rfl
@[simp] theorem poke_freeCtr (a : Nat) (bs : List Byte) : (s.poke a bs).freeCtr = s.freeCtr := rfl
@[simp] theorem poke_undef (a : Nat) (bs : List Byte) : (s.poke a bs).undef = s.undef := rfl
@[simp] theorem poke_upset (a : Nat) (bs : List Byte) : (s.poke a bs).upset = s.upset := rfl
@[simp] theorem poke_poison (a : Nat) (bs : List Byte) : (s.poke a bs).poison = s.poison := rfl
@[simp] theorem poke_regs (a : Nat) (bs : List Byte) : (s.poke a bs).regs = s.regs := rfl
@[simp] theorem poke_tiles (a : Nat) (bs : List Byte) : (s.poke a bs).tiles = s.tiles := rfl
@[simp] theorem poke_signals (a : Nat) (bs : List Byte) : (s.poke a bs).signals = s.signals := rfl
@[simp] theorem poke_vpins (a : Nat) (bs : List Byte) : (s.poke a bs).vpins = s.vpins := rfl
@[simp] theorem poke_aon (a : Nat) (bs : List Byte) : (s.poke a bs).aon = s.aon := rfl
@[simp] theorem poke_log (a : Nat) (bs : List Byte) : (s.poke a bs).log = s.log := rfl
@[simp] theorem poke_chg (a : Nat) (bs : List Byte) : (s.poke a bs).chg = s.chg := rfl
@[simp] theorem poke_chgNext (a : Nat) (bs : List Byte) : (s.poke a bs).chgNext = s.chgNext := rfl
@[simp] theorem poke_inbox (a : Nat) (bs : List Byte) : (s.poke a bs).inbox = s.inbox := rfl
@[simp] theorem poke_netWait (a : Nat) (bs : List Byte) : (s.poke a bs).netWait = s.netWait := rfl
@[simp] theorem poke_links (a : Nat) (bs : List Byte) : (s.poke a bs).links = s.links := rfl
@[simp] theorem poke_out (a : Nat) (bs : List Byte) : (s.poke a bs).out = s.out := rfl
@[simp] theorem poke_qm (a : Nat) (bs : List Byte) : (s.poke a bs).qm = s.qm := rfl
@[simp] theorem poke_job (a : Nat) (bs : List Byte) : (s.poke a bs).job = s.job := rfl
@[simp] theorem poke_step (a : Nat) (bs : List Byte) : (s.poke a bs).step = s.step := rfl
@[simp] theorem poke_bufs (a : Nat) (bs : List Byte) : (s.poke a bs).bufs = s.bufs := rfl
@[simp] theorem poke_emb (a : Nat) (bs : List Byte) : (s.poke a bs).emb = s.emb := rfl
@[simp] theorem poke_cairn (a : Nat) (bs : List Byte) : (s.poke a bs).cairn = s.cairn := rfl
@[simp] theorem poke_belay (a : Nat) (bs : List Byte) : (s.poke a bs).belay = s.belay := rfl
@[simp] theorem poke_book (a : Nat) (bs : List Byte) : (s.poke a bs).book = s.book := rfl
@[simp] theorem poke_host (a : Nat) (bs : List Byte) : (s.poke a bs).host = s.host := rfl
@[simp] theorem poke_power (a : Nat) (bs : List Byte) : (s.poke a bs).power = s.power := rfl
@[simp] theorem poke_sluice (a : Nat) (bs : List Byte) : (s.poke a bs).sluice = s.sluice := rfl
@[simp] theorem poke_flash (a : Nat) (bs : List Byte) : (s.poke a bs).flash = s.flash := rfl
@[simp] theorem poke_sec (a : Nat) (bs : List Byte) : (s.poke a bs).sec = s.sec := rfl
@[simp] theorem poke_mgmt (a : Nat) (bs : List Byte) : (s.poke a bs).mgmt = s.mgmt := rfl
@[simp] theorem poke_rst (a : Nat) (bs : List Byte) : (s.poke a bs).rst = s.rst := rfl
@[simp] theorem poke_hostRd (a : Nat) (bs : List Byte) : (s.poke a bs).hostRd = s.hostRd := rfl
@[simp] theorem poke_rdBytes (a : Nat) (bs : List Byte) : (s.poke a bs).rdBytes = s.rdBytes := rfl
@[simp] theorem poke_rom (a : Nat) (bs : List Byte) : (s.poke a bs).rom = s.rom := rfl

/-! ### `pokeBurst` -/

@[simp] theorem pokeBurst_pending (a : Nat) (bs : List Byte) : (s.pokeBurst a bs).pending = s.pending := rfl
@[simp] theorem pokeBurst_freeCtr (a : Nat) (bs : List Byte) : (s.pokeBurst a bs).freeCtr = s.freeCtr := rfl
@[simp] theorem pokeBurst_undef (a : Nat) (bs : List Byte) : (s.pokeBurst a bs).undef = s.undef := rfl
@[simp] theorem pokeBurst_poison (a : Nat) (bs : List Byte) : (s.pokeBurst a bs).poison = s.poison := rfl
@[simp] theorem pokeBurst_regs (a : Nat) (bs : List Byte) : (s.pokeBurst a bs).regs = s.regs := rfl
@[simp] theorem pokeBurst_tiles (a : Nat) (bs : List Byte) : (s.pokeBurst a bs).tiles = s.tiles := rfl
@[simp] theorem pokeBurst_signals (a : Nat) (bs : List Byte) : (s.pokeBurst a bs).signals = s.signals := rfl
@[simp] theorem pokeBurst_vpins (a : Nat) (bs : List Byte) : (s.pokeBurst a bs).vpins = s.vpins := rfl
@[simp] theorem pokeBurst_aon (a : Nat) (bs : List Byte) : (s.pokeBurst a bs).aon = s.aon := rfl
@[simp] theorem pokeBurst_log (a : Nat) (bs : List Byte) : (s.pokeBurst a bs).log = s.log := rfl
@[simp] theorem pokeBurst_chg (a : Nat) (bs : List Byte) : (s.pokeBurst a bs).chg = s.chg := rfl
@[simp] theorem pokeBurst_chgNext (a : Nat) (bs : List Byte) : (s.pokeBurst a bs).chgNext = s.chgNext := rfl
@[simp] theorem pokeBurst_inbox (a : Nat) (bs : List Byte) : (s.pokeBurst a bs).inbox = s.inbox := rfl
@[simp] theorem pokeBurst_netWait (a : Nat) (bs : List Byte) : (s.pokeBurst a bs).netWait = s.netWait := rfl
@[simp] theorem pokeBurst_links (a : Nat) (bs : List Byte) : (s.pokeBurst a bs).links = s.links := rfl
@[simp] theorem pokeBurst_out (a : Nat) (bs : List Byte) : (s.pokeBurst a bs).out = s.out := rfl
@[simp] theorem pokeBurst_qm (a : Nat) (bs : List Byte) : (s.pokeBurst a bs).qm = s.qm := rfl
@[simp] theorem pokeBurst_job (a : Nat) (bs : List Byte) : (s.pokeBurst a bs).job = s.job := rfl
@[simp] theorem pokeBurst_step (a : Nat) (bs : List Byte) : (s.pokeBurst a bs).step = s.step := rfl
@[simp] theorem pokeBurst_bufs (a : Nat) (bs : List Byte) : (s.pokeBurst a bs).bufs = s.bufs := rfl
@[simp] theorem pokeBurst_emb (a : Nat) (bs : List Byte) : (s.pokeBurst a bs).emb = s.emb := rfl
@[simp] theorem pokeBurst_cairn (a : Nat) (bs : List Byte) : (s.pokeBurst a bs).cairn = s.cairn := rfl
@[simp] theorem pokeBurst_belay (a : Nat) (bs : List Byte) : (s.pokeBurst a bs).belay = s.belay := rfl
@[simp] theorem pokeBurst_book (a : Nat) (bs : List Byte) : (s.pokeBurst a bs).book = s.book := rfl
@[simp] theorem pokeBurst_host (a : Nat) (bs : List Byte) : (s.pokeBurst a bs).host = s.host := rfl
@[simp] theorem pokeBurst_power (a : Nat) (bs : List Byte) : (s.pokeBurst a bs).power = s.power := rfl
@[simp] theorem pokeBurst_sluice (a : Nat) (bs : List Byte) : (s.pokeBurst a bs).sluice = s.sluice := rfl
@[simp] theorem pokeBurst_flash (a : Nat) (bs : List Byte) : (s.pokeBurst a bs).flash = s.flash := rfl
@[simp] theorem pokeBurst_sec (a : Nat) (bs : List Byte) : (s.pokeBurst a bs).sec = s.sec := rfl
@[simp] theorem pokeBurst_mgmt (a : Nat) (bs : List Byte) : (s.pokeBurst a bs).mgmt = s.mgmt := rfl
@[simp] theorem pokeBurst_rst (a : Nat) (bs : List Byte) : (s.pokeBurst a bs).rst = s.rst := rfl
@[simp] theorem pokeBurst_hostRd (a : Nat) (bs : List Byte) : (s.pokeBurst a bs).hostRd = s.hostRd := rfl
@[simp] theorem pokeBurst_rdBytes (a : Nat) (bs : List Byte) : (s.pokeBurst a bs).rdBytes = s.rdBytes := rfl
@[simp] theorem pokeBurst_rom (a : Nat) (bs : List Byte) : (s.pokeBurst a bs).rom = s.rom := rfl

/-! ### `setDesc` -/

@[simp] theorem setDesc_pending (q off v : Nat) : (s.setDesc q off v).pending = s.pending := by unfold State.setDesc; split <;> rfl
@[simp] theorem setDesc_freeCtr (q off v : Nat) : (s.setDesc q off v).freeCtr = s.freeCtr := by unfold State.setDesc; split <;> rfl
@[simp] theorem setDesc_undef (q off v : Nat) : (s.setDesc q off v).undef = s.undef := by unfold State.setDesc; split <;> rfl
@[simp] theorem setDesc_poison (q off v : Nat) : (s.setDesc q off v).poison = s.poison := by unfold State.setDesc; split <;> rfl
@[simp] theorem setDesc_regs (q off v : Nat) : (s.setDesc q off v).regs = s.regs := by unfold State.setDesc; split <;> rfl
@[simp] theorem setDesc_tiles (q off v : Nat) : (s.setDesc q off v).tiles = s.tiles := by unfold State.setDesc; split <;> rfl
@[simp] theorem setDesc_signals (q off v : Nat) : (s.setDesc q off v).signals = s.signals := by unfold State.setDesc; split <;> rfl
@[simp] theorem setDesc_vpins (q off v : Nat) : (s.setDesc q off v).vpins = s.vpins := by unfold State.setDesc; split <;> rfl
@[simp] theorem setDesc_aon (q off v : Nat) : (s.setDesc q off v).aon = s.aon := by unfold State.setDesc; split <;> rfl
@[simp] theorem setDesc_log (q off v : Nat) : (s.setDesc q off v).log = s.log := by unfold State.setDesc; split <;> rfl
@[simp] theorem setDesc_chg (q off v : Nat) : (s.setDesc q off v).chg = s.chg := by unfold State.setDesc; split <;> rfl
@[simp] theorem setDesc_chgNext (q off v : Nat) : (s.setDesc q off v).chgNext = s.chgNext := by unfold State.setDesc; split <;> rfl
@[simp] theorem setDesc_inbox (q off v : Nat) : (s.setDesc q off v).inbox = s.inbox := by unfold State.setDesc; split <;> rfl
@[simp] theorem setDesc_netWait (q off v : Nat) : (s.setDesc q off v).netWait = s.netWait := by unfold State.setDesc; split <;> rfl
@[simp] theorem setDesc_links (q off v : Nat) : (s.setDesc q off v).links = s.links := by unfold State.setDesc; split <;> rfl
@[simp] theorem setDesc_out (q off v : Nat) : (s.setDesc q off v).out = s.out := by unfold State.setDesc; split <;> rfl
@[simp] theorem setDesc_qm (q off v : Nat) : (s.setDesc q off v).qm = s.qm := by unfold State.setDesc; split <;> rfl
@[simp] theorem setDesc_job (q off v : Nat) : (s.setDesc q off v).job = s.job := by unfold State.setDesc; split <;> rfl
@[simp] theorem setDesc_step (q off v : Nat) : (s.setDesc q off v).step = s.step := by unfold State.setDesc; split <;> rfl
@[simp] theorem setDesc_bufs (q off v : Nat) : (s.setDesc q off v).bufs = s.bufs := by unfold State.setDesc; split <;> rfl
@[simp] theorem setDesc_emb (q off v : Nat) : (s.setDesc q off v).emb = s.emb := by unfold State.setDesc; split <;> rfl
@[simp] theorem setDesc_cairn (q off v : Nat) : (s.setDesc q off v).cairn = s.cairn := by unfold State.setDesc; split <;> rfl
@[simp] theorem setDesc_belay (q off v : Nat) : (s.setDesc q off v).belay = s.belay := by unfold State.setDesc; split <;> rfl
@[simp] theorem setDesc_book (q off v : Nat) : (s.setDesc q off v).book = s.book := by unfold State.setDesc; split <;> rfl
@[simp] theorem setDesc_host (q off v : Nat) : (s.setDesc q off v).host = s.host := by unfold State.setDesc; split <;> rfl
@[simp] theorem setDesc_power (q off v : Nat) : (s.setDesc q off v).power = s.power := by unfold State.setDesc; split <;> rfl
@[simp] theorem setDesc_sluice (q off v : Nat) : (s.setDesc q off v).sluice = s.sluice := by unfold State.setDesc; split <;> rfl
@[simp] theorem setDesc_flash (q off v : Nat) : (s.setDesc q off v).flash = s.flash := by unfold State.setDesc; split <;> rfl
@[simp] theorem setDesc_sec (q off v : Nat) : (s.setDesc q off v).sec = s.sec := by unfold State.setDesc; split <;> rfl
@[simp] theorem setDesc_mgmt (q off v : Nat) : (s.setDesc q off v).mgmt = s.mgmt := by unfold State.setDesc; split <;> rfl
@[simp] theorem setDesc_rst (q off v : Nat) : (s.setDesc q off v).rst = s.rst := by unfold State.setDesc; split <;> rfl
@[simp] theorem setDesc_hostRd (q off v : Nat) : (s.setDesc q off v).hostRd = s.hostRd := by unfold State.setDesc; split <;> rfl
@[simp] theorem setDesc_rdBytes (q off v : Nat) : (s.setDesc q off v).rdBytes = s.rdBytes := by unfold State.setDesc; split <;> rfl
@[simp] theorem setDesc_rom (q off v : Nat) : (s.setDesc q off v).rom = s.rom := by unfold State.setDesc; split <;> rfl

/-! ### `setTail` -/

@[simp] theorem setTail_pending (q v : Nat) : (s.setTail q v).pending = s.pending := setDesc_pending s q 16 v
@[simp] theorem setTail_freeCtr (q v : Nat) : (s.setTail q v).freeCtr = s.freeCtr := setDesc_freeCtr s q 16 v
@[simp] theorem setTail_undef (q v : Nat) : (s.setTail q v).undef = s.undef := setDesc_undef s q 16 v
@[simp] theorem setTail_poison (q v : Nat) : (s.setTail q v).poison = s.poison := setDesc_poison s q 16 v
@[simp] theorem setTail_regs (q v : Nat) : (s.setTail q v).regs = s.regs := setDesc_regs s q 16 v
@[simp] theorem setTail_tiles (q v : Nat) : (s.setTail q v).tiles = s.tiles := setDesc_tiles s q 16 v
@[simp] theorem setTail_signals (q v : Nat) : (s.setTail q v).signals = s.signals := setDesc_signals s q 16 v
@[simp] theorem setTail_vpins (q v : Nat) : (s.setTail q v).vpins = s.vpins := setDesc_vpins s q 16 v
@[simp] theorem setTail_aon (q v : Nat) : (s.setTail q v).aon = s.aon := setDesc_aon s q 16 v
@[simp] theorem setTail_log (q v : Nat) : (s.setTail q v).log = s.log := setDesc_log s q 16 v
@[simp] theorem setTail_chg (q v : Nat) : (s.setTail q v).chg = s.chg := setDesc_chg s q 16 v
@[simp] theorem setTail_chgNext (q v : Nat) : (s.setTail q v).chgNext = s.chgNext := setDesc_chgNext s q 16 v
@[simp] theorem setTail_inbox (q v : Nat) : (s.setTail q v).inbox = s.inbox := setDesc_inbox s q 16 v
@[simp] theorem setTail_netWait (q v : Nat) : (s.setTail q v).netWait = s.netWait := setDesc_netWait s q 16 v
@[simp] theorem setTail_links (q v : Nat) : (s.setTail q v).links = s.links := setDesc_links s q 16 v
@[simp] theorem setTail_out (q v : Nat) : (s.setTail q v).out = s.out := setDesc_out s q 16 v
@[simp] theorem setTail_qm (q v : Nat) : (s.setTail q v).qm = s.qm := setDesc_qm s q 16 v
@[simp] theorem setTail_job (q v : Nat) : (s.setTail q v).job = s.job := setDesc_job s q 16 v
@[simp] theorem setTail_step (q v : Nat) : (s.setTail q v).step = s.step := setDesc_step s q 16 v
@[simp] theorem setTail_bufs (q v : Nat) : (s.setTail q v).bufs = s.bufs := setDesc_bufs s q 16 v
@[simp] theorem setTail_emb (q v : Nat) : (s.setTail q v).emb = s.emb := setDesc_emb s q 16 v
@[simp] theorem setTail_cairn (q v : Nat) : (s.setTail q v).cairn = s.cairn := setDesc_cairn s q 16 v
@[simp] theorem setTail_belay (q v : Nat) : (s.setTail q v).belay = s.belay := setDesc_belay s q 16 v
@[simp] theorem setTail_book (q v : Nat) : (s.setTail q v).book = s.book := setDesc_book s q 16 v
@[simp] theorem setTail_host (q v : Nat) : (s.setTail q v).host = s.host := setDesc_host s q 16 v
@[simp] theorem setTail_power (q v : Nat) : (s.setTail q v).power = s.power := setDesc_power s q 16 v
@[simp] theorem setTail_sluice (q v : Nat) : (s.setTail q v).sluice = s.sluice := setDesc_sluice s q 16 v
@[simp] theorem setTail_flash (q v : Nat) : (s.setTail q v).flash = s.flash := setDesc_flash s q 16 v
@[simp] theorem setTail_sec (q v : Nat) : (s.setTail q v).sec = s.sec := setDesc_sec s q 16 v
@[simp] theorem setTail_mgmt (q v : Nat) : (s.setTail q v).mgmt = s.mgmt := setDesc_mgmt s q 16 v
@[simp] theorem setTail_rst (q v : Nat) : (s.setTail q v).rst = s.rst := setDesc_rst s q 16 v
@[simp] theorem setTail_hostRd (q v : Nat) : (s.setTail q v).hostRd = s.hostRd := setDesc_hostRd s q 16 v
@[simp] theorem setTail_rdBytes (q v : Nat) : (s.setTail q v).rdBytes = s.rdBytes := setDesc_rdBytes s q 16 v
@[simp] theorem setTail_rom (q v : Nat) : (s.setTail q v).rom = s.rom := setDesc_rom s q 16 v

/-! ### `setHead` -/

@[simp] theorem setHead_pending (q v : Nat) : (s.setHead q v).pending = s.pending := setDesc_pending s q 20 v
@[simp] theorem setHead_freeCtr (q v : Nat) : (s.setHead q v).freeCtr = s.freeCtr := setDesc_freeCtr s q 20 v
@[simp] theorem setHead_undef (q v : Nat) : (s.setHead q v).undef = s.undef := setDesc_undef s q 20 v
@[simp] theorem setHead_poison (q v : Nat) : (s.setHead q v).poison = s.poison := setDesc_poison s q 20 v
@[simp] theorem setHead_regs (q v : Nat) : (s.setHead q v).regs = s.regs := setDesc_regs s q 20 v
@[simp] theorem setHead_tiles (q v : Nat) : (s.setHead q v).tiles = s.tiles := setDesc_tiles s q 20 v
@[simp] theorem setHead_signals (q v : Nat) : (s.setHead q v).signals = s.signals := setDesc_signals s q 20 v
@[simp] theorem setHead_vpins (q v : Nat) : (s.setHead q v).vpins = s.vpins := setDesc_vpins s q 20 v
@[simp] theorem setHead_aon (q v : Nat) : (s.setHead q v).aon = s.aon := setDesc_aon s q 20 v
@[simp] theorem setHead_log (q v : Nat) : (s.setHead q v).log = s.log := setDesc_log s q 20 v
@[simp] theorem setHead_chg (q v : Nat) : (s.setHead q v).chg = s.chg := setDesc_chg s q 20 v
@[simp] theorem setHead_chgNext (q v : Nat) : (s.setHead q v).chgNext = s.chgNext := setDesc_chgNext s q 20 v
@[simp] theorem setHead_inbox (q v : Nat) : (s.setHead q v).inbox = s.inbox := setDesc_inbox s q 20 v
@[simp] theorem setHead_netWait (q v : Nat) : (s.setHead q v).netWait = s.netWait := setDesc_netWait s q 20 v
@[simp] theorem setHead_links (q v : Nat) : (s.setHead q v).links = s.links := setDesc_links s q 20 v
@[simp] theorem setHead_out (q v : Nat) : (s.setHead q v).out = s.out := setDesc_out s q 20 v
@[simp] theorem setHead_qm (q v : Nat) : (s.setHead q v).qm = s.qm := setDesc_qm s q 20 v
@[simp] theorem setHead_job (q v : Nat) : (s.setHead q v).job = s.job := setDesc_job s q 20 v
@[simp] theorem setHead_step (q v : Nat) : (s.setHead q v).step = s.step := setDesc_step s q 20 v
@[simp] theorem setHead_bufs (q v : Nat) : (s.setHead q v).bufs = s.bufs := setDesc_bufs s q 20 v
@[simp] theorem setHead_emb (q v : Nat) : (s.setHead q v).emb = s.emb := setDesc_emb s q 20 v
@[simp] theorem setHead_cairn (q v : Nat) : (s.setHead q v).cairn = s.cairn := setDesc_cairn s q 20 v
@[simp] theorem setHead_belay (q v : Nat) : (s.setHead q v).belay = s.belay := setDesc_belay s q 20 v
@[simp] theorem setHead_book (q v : Nat) : (s.setHead q v).book = s.book := setDesc_book s q 20 v
@[simp] theorem setHead_host (q v : Nat) : (s.setHead q v).host = s.host := setDesc_host s q 20 v
@[simp] theorem setHead_power (q v : Nat) : (s.setHead q v).power = s.power := setDesc_power s q 20 v
@[simp] theorem setHead_sluice (q v : Nat) : (s.setHead q v).sluice = s.sluice := setDesc_sluice s q 20 v
@[simp] theorem setHead_flash (q v : Nat) : (s.setHead q v).flash = s.flash := setDesc_flash s q 20 v
@[simp] theorem setHead_sec (q v : Nat) : (s.setHead q v).sec = s.sec := setDesc_sec s q 20 v
@[simp] theorem setHead_mgmt (q v : Nat) : (s.setHead q v).mgmt = s.mgmt := setDesc_mgmt s q 20 v
@[simp] theorem setHead_rst (q v : Nat) : (s.setHead q v).rst = s.rst := setDesc_rst s q 20 v
@[simp] theorem setHead_hostRd (q v : Nat) : (s.setHead q v).hostRd = s.hostRd := setDesc_hostRd s q 20 v
@[simp] theorem setHead_rdBytes (q v : Nat) : (s.setHead q v).rdBytes = s.rdBytes := setDesc_rdBytes s q 20 v
@[simp] theorem setHead_rom (q v : Nat) : (s.setHead q v).rom = s.rom := setDesc_rom s q 20 v

/-! ### `setSeq` -/

@[simp] theorem setSeq_pending (q v : Nat) : (s.setSeq q v).pending = s.pending := setDesc_pending s q 24 v
@[simp] theorem setSeq_freeCtr (q v : Nat) : (s.setSeq q v).freeCtr = s.freeCtr := setDesc_freeCtr s q 24 v
@[simp] theorem setSeq_undef (q v : Nat) : (s.setSeq q v).undef = s.undef := setDesc_undef s q 24 v
@[simp] theorem setSeq_poison (q v : Nat) : (s.setSeq q v).poison = s.poison := setDesc_poison s q 24 v
@[simp] theorem setSeq_regs (q v : Nat) : (s.setSeq q v).regs = s.regs := setDesc_regs s q 24 v
@[simp] theorem setSeq_tiles (q v : Nat) : (s.setSeq q v).tiles = s.tiles := setDesc_tiles s q 24 v
@[simp] theorem setSeq_signals (q v : Nat) : (s.setSeq q v).signals = s.signals := setDesc_signals s q 24 v
@[simp] theorem setSeq_vpins (q v : Nat) : (s.setSeq q v).vpins = s.vpins := setDesc_vpins s q 24 v
@[simp] theorem setSeq_aon (q v : Nat) : (s.setSeq q v).aon = s.aon := setDesc_aon s q 24 v
@[simp] theorem setSeq_log (q v : Nat) : (s.setSeq q v).log = s.log := setDesc_log s q 24 v
@[simp] theorem setSeq_chg (q v : Nat) : (s.setSeq q v).chg = s.chg := setDesc_chg s q 24 v
@[simp] theorem setSeq_chgNext (q v : Nat) : (s.setSeq q v).chgNext = s.chgNext := setDesc_chgNext s q 24 v
@[simp] theorem setSeq_inbox (q v : Nat) : (s.setSeq q v).inbox = s.inbox := setDesc_inbox s q 24 v
@[simp] theorem setSeq_netWait (q v : Nat) : (s.setSeq q v).netWait = s.netWait := setDesc_netWait s q 24 v
@[simp] theorem setSeq_links (q v : Nat) : (s.setSeq q v).links = s.links := setDesc_links s q 24 v
@[simp] theorem setSeq_out (q v : Nat) : (s.setSeq q v).out = s.out := setDesc_out s q 24 v
@[simp] theorem setSeq_qm (q v : Nat) : (s.setSeq q v).qm = s.qm := setDesc_qm s q 24 v
@[simp] theorem setSeq_job (q v : Nat) : (s.setSeq q v).job = s.job := setDesc_job s q 24 v
@[simp] theorem setSeq_step (q v : Nat) : (s.setSeq q v).step = s.step := setDesc_step s q 24 v
@[simp] theorem setSeq_bufs (q v : Nat) : (s.setSeq q v).bufs = s.bufs := setDesc_bufs s q 24 v
@[simp] theorem setSeq_emb (q v : Nat) : (s.setSeq q v).emb = s.emb := setDesc_emb s q 24 v
@[simp] theorem setSeq_cairn (q v : Nat) : (s.setSeq q v).cairn = s.cairn := setDesc_cairn s q 24 v
@[simp] theorem setSeq_belay (q v : Nat) : (s.setSeq q v).belay = s.belay := setDesc_belay s q 24 v
@[simp] theorem setSeq_book (q v : Nat) : (s.setSeq q v).book = s.book := setDesc_book s q 24 v
@[simp] theorem setSeq_host (q v : Nat) : (s.setSeq q v).host = s.host := setDesc_host s q 24 v
@[simp] theorem setSeq_power (q v : Nat) : (s.setSeq q v).power = s.power := setDesc_power s q 24 v
@[simp] theorem setSeq_sluice (q v : Nat) : (s.setSeq q v).sluice = s.sluice := setDesc_sluice s q 24 v
@[simp] theorem setSeq_flash (q v : Nat) : (s.setSeq q v).flash = s.flash := setDesc_flash s q 24 v
@[simp] theorem setSeq_sec (q v : Nat) : (s.setSeq q v).sec = s.sec := setDesc_sec s q 24 v
@[simp] theorem setSeq_mgmt (q v : Nat) : (s.setSeq q v).mgmt = s.mgmt := setDesc_mgmt s q 24 v
@[simp] theorem setSeq_rst (q v : Nat) : (s.setSeq q v).rst = s.rst := setDesc_rst s q 24 v
@[simp] theorem setSeq_hostRd (q v : Nat) : (s.setSeq q v).hostRd = s.hostRd := setDesc_hostRd s q 24 v
@[simp] theorem setSeq_rdBytes (q v : Nat) : (s.setSeq q v).rdBytes = s.rdBytes := setDesc_rdBytes s q 24 v
@[simp] theorem setSeq_rom (q v : Nat) : (s.setSeq q v).rom = s.rom := setDesc_rom s q 24 v

/-! ### `setHeld` -/

@[simp] theorem setHeld_pending (q : Nat) (l : List (List Byte)) : (s.setHeld q l).pending = s.pending := rfl
@[simp] theorem setHeld_freeCtr (q : Nat) (l : List (List Byte)) : (s.setHeld q l).freeCtr = s.freeCtr := rfl
@[simp] theorem setHeld_mem (q : Nat) (l : List (List Byte)) : (s.setHeld q l).mem = s.mem := rfl
@[simp] theorem setHeld_undef (q : Nat) (l : List (List Byte)) : (s.setHeld q l).undef = s.undef := rfl
@[simp] theorem setHeld_upset (q : Nat) (l : List (List Byte)) : (s.setHeld q l).upset = s.upset := rfl
@[simp] theorem setHeld_poison (q : Nat) (l : List (List Byte)) : (s.setHeld q l).poison = s.poison := rfl
@[simp] theorem setHeld_regs (q : Nat) (l : List (List Byte)) : (s.setHeld q l).regs = s.regs := rfl
@[simp] theorem setHeld_tiles (q : Nat) (l : List (List Byte)) : (s.setHeld q l).tiles = s.tiles := rfl
@[simp] theorem setHeld_signals (q : Nat) (l : List (List Byte)) : (s.setHeld q l).signals = s.signals := rfl
@[simp] theorem setHeld_vpins (q : Nat) (l : List (List Byte)) : (s.setHeld q l).vpins = s.vpins := rfl
@[simp] theorem setHeld_aon (q : Nat) (l : List (List Byte)) : (s.setHeld q l).aon = s.aon := rfl
@[simp] theorem setHeld_log (q : Nat) (l : List (List Byte)) : (s.setHeld q l).log = s.log := rfl
@[simp] theorem setHeld_chg (q : Nat) (l : List (List Byte)) : (s.setHeld q l).chg = s.chg := rfl
@[simp] theorem setHeld_chgNext (q : Nat) (l : List (List Byte)) : (s.setHeld q l).chgNext = s.chgNext := rfl
@[simp] theorem setHeld_inbox (q : Nat) (l : List (List Byte)) : (s.setHeld q l).inbox = s.inbox := rfl
@[simp] theorem setHeld_netWait (q : Nat) (l : List (List Byte)) : (s.setHeld q l).netWait = s.netWait := rfl
@[simp] theorem setHeld_links (q : Nat) (l : List (List Byte)) : (s.setHeld q l).links = s.links := rfl
@[simp] theorem setHeld_out (q : Nat) (l : List (List Byte)) : (s.setHeld q l).out = s.out := rfl
@[simp] theorem setHeld_job (q : Nat) (l : List (List Byte)) : (s.setHeld q l).job = s.job := rfl
@[simp] theorem setHeld_step (q : Nat) (l : List (List Byte)) : (s.setHeld q l).step = s.step := rfl
@[simp] theorem setHeld_bufs (q : Nat) (l : List (List Byte)) : (s.setHeld q l).bufs = s.bufs := rfl
@[simp] theorem setHeld_emb (q : Nat) (l : List (List Byte)) : (s.setHeld q l).emb = s.emb := rfl
@[simp] theorem setHeld_cairn (q : Nat) (l : List (List Byte)) : (s.setHeld q l).cairn = s.cairn := rfl
@[simp] theorem setHeld_belay (q : Nat) (l : List (List Byte)) : (s.setHeld q l).belay = s.belay := rfl
@[simp] theorem setHeld_book (q : Nat) (l : List (List Byte)) : (s.setHeld q l).book = s.book := rfl
@[simp] theorem setHeld_host (q : Nat) (l : List (List Byte)) : (s.setHeld q l).host = s.host := rfl
@[simp] theorem setHeld_power (q : Nat) (l : List (List Byte)) : (s.setHeld q l).power = s.power := rfl
@[simp] theorem setHeld_sluice (q : Nat) (l : List (List Byte)) : (s.setHeld q l).sluice = s.sluice := rfl
@[simp] theorem setHeld_flash (q : Nat) (l : List (List Byte)) : (s.setHeld q l).flash = s.flash := rfl
@[simp] theorem setHeld_sec (q : Nat) (l : List (List Byte)) : (s.setHeld q l).sec = s.sec := rfl
@[simp] theorem setHeld_mgmt (q : Nat) (l : List (List Byte)) : (s.setHeld q l).mgmt = s.mgmt := rfl
@[simp] theorem setHeld_rst (q : Nat) (l : List (List Byte)) : (s.setHeld q l).rst = s.rst := rfl
@[simp] theorem setHeld_hostRd (q : Nat) (l : List (List Byte)) : (s.setHeld q l).hostRd = s.hostRd := rfl
@[simp] theorem setHeld_rdBytes (q : Nat) (l : List (List Byte)) : (s.setHeld q l).rdBytes = s.rdBytes := rfl
@[simp] theorem setHeld_rom (q : Nat) (l : List (List Byte)) : (s.setHeld q l).rom = s.rom := rfl

/-! ### `dropPins` -/

@[simp] theorem dropPins_pending (l : Loc) : (s.dropPins l).pending = s.pending := rfl
@[simp] theorem dropPins_freeCtr (l : Loc) : (s.dropPins l).freeCtr = s.freeCtr := rfl
@[simp] theorem dropPins_mem (l : Loc) : (s.dropPins l).mem = s.mem := rfl
@[simp] theorem dropPins_undef (l : Loc) : (s.dropPins l).undef = s.undef := rfl
@[simp] theorem dropPins_upset (l : Loc) : (s.dropPins l).upset = s.upset := rfl
@[simp] theorem dropPins_poison (l : Loc) : (s.dropPins l).poison = s.poison := rfl
@[simp] theorem dropPins_regs (l : Loc) : (s.dropPins l).regs = s.regs := rfl
@[simp] theorem dropPins_tiles (l : Loc) : (s.dropPins l).tiles = s.tiles := rfl
@[simp] theorem dropPins_signals (l : Loc) : (s.dropPins l).signals = s.signals := rfl
@[simp] theorem dropPins_aon (l : Loc) : (s.dropPins l).aon = s.aon := rfl
@[simp] theorem dropPins_log (l : Loc) : (s.dropPins l).log = s.log := rfl
@[simp] theorem dropPins_chg (l : Loc) : (s.dropPins l).chg = s.chg := rfl
@[simp] theorem dropPins_chgNext (l : Loc) : (s.dropPins l).chgNext = s.chgNext := rfl
@[simp] theorem dropPins_inbox (l : Loc) : (s.dropPins l).inbox = s.inbox := rfl
@[simp] theorem dropPins_netWait (l : Loc) : (s.dropPins l).netWait = s.netWait := rfl
@[simp] theorem dropPins_links (l : Loc) : (s.dropPins l).links = s.links := rfl
@[simp] theorem dropPins_out (l : Loc) : (s.dropPins l).out = s.out := rfl
@[simp] theorem dropPins_qm (l : Loc) : (s.dropPins l).qm = s.qm := rfl
@[simp] theorem dropPins_job (l : Loc) : (s.dropPins l).job = s.job := rfl
@[simp] theorem dropPins_step (l : Loc) : (s.dropPins l).step = s.step := rfl
@[simp] theorem dropPins_bufs (l : Loc) : (s.dropPins l).bufs = s.bufs := rfl
@[simp] theorem dropPins_emb (l : Loc) : (s.dropPins l).emb = s.emb := rfl
@[simp] theorem dropPins_cairn (l : Loc) : (s.dropPins l).cairn = s.cairn := rfl
@[simp] theorem dropPins_belay (l : Loc) : (s.dropPins l).belay = s.belay := rfl
@[simp] theorem dropPins_book (l : Loc) : (s.dropPins l).book = s.book := rfl
@[simp] theorem dropPins_host (l : Loc) : (s.dropPins l).host = s.host := rfl
@[simp] theorem dropPins_power (l : Loc) : (s.dropPins l).power = s.power := rfl
@[simp] theorem dropPins_sluice (l : Loc) : (s.dropPins l).sluice = s.sluice := rfl
@[simp] theorem dropPins_flash (l : Loc) : (s.dropPins l).flash = s.flash := rfl
@[simp] theorem dropPins_sec (l : Loc) : (s.dropPins l).sec = s.sec := rfl
@[simp] theorem dropPins_mgmt (l : Loc) : (s.dropPins l).mgmt = s.mgmt := rfl
@[simp] theorem dropPins_rst (l : Loc) : (s.dropPins l).rst = s.rst := rfl
@[simp] theorem dropPins_hostRd (l : Loc) : (s.dropPins l).hostRd = s.hostRd := rfl
@[simp] theorem dropPins_rdBytes (l : Loc) : (s.dropPins l).rdBytes = s.rdBytes := rfl
@[simp] theorem dropPins_rom (l : Loc) : (s.dropPins l).rom = s.rom := rfl

/-! ### `updCairn` -/

@[simp] theorem updCairn_pending (g : CairnState → CairnState) : (s.updCairn g).pending = s.pending := rfl
@[simp] theorem updCairn_freeCtr (g : CairnState → CairnState) : (s.updCairn g).freeCtr = s.freeCtr := rfl
@[simp] theorem updCairn_mem (g : CairnState → CairnState) : (s.updCairn g).mem = s.mem := rfl
@[simp] theorem updCairn_undef (g : CairnState → CairnState) : (s.updCairn g).undef = s.undef := rfl
@[simp] theorem updCairn_upset (g : CairnState → CairnState) : (s.updCairn g).upset = s.upset := rfl
@[simp] theorem updCairn_poison (g : CairnState → CairnState) : (s.updCairn g).poison = s.poison := rfl
@[simp] theorem updCairn_regs (g : CairnState → CairnState) : (s.updCairn g).regs = s.regs := rfl
@[simp] theorem updCairn_tiles (g : CairnState → CairnState) : (s.updCairn g).tiles = s.tiles := rfl
@[simp] theorem updCairn_signals (g : CairnState → CairnState) : (s.updCairn g).signals = s.signals := rfl
@[simp] theorem updCairn_vpins (g : CairnState → CairnState) : (s.updCairn g).vpins = s.vpins := rfl
@[simp] theorem updCairn_aon (g : CairnState → CairnState) : (s.updCairn g).aon = s.aon := rfl
@[simp] theorem updCairn_log (g : CairnState → CairnState) : (s.updCairn g).log = s.log := rfl
@[simp] theorem updCairn_chg (g : CairnState → CairnState) : (s.updCairn g).chg = s.chg := rfl
@[simp] theorem updCairn_chgNext (g : CairnState → CairnState) : (s.updCairn g).chgNext = s.chgNext := rfl
@[simp] theorem updCairn_inbox (g : CairnState → CairnState) : (s.updCairn g).inbox = s.inbox := rfl
@[simp] theorem updCairn_netWait (g : CairnState → CairnState) : (s.updCairn g).netWait = s.netWait := rfl
@[simp] theorem updCairn_links (g : CairnState → CairnState) : (s.updCairn g).links = s.links := rfl
@[simp] theorem updCairn_out (g : CairnState → CairnState) : (s.updCairn g).out = s.out := rfl
@[simp] theorem updCairn_qm (g : CairnState → CairnState) : (s.updCairn g).qm = s.qm := rfl
@[simp] theorem updCairn_job (g : CairnState → CairnState) : (s.updCairn g).job = s.job := rfl
@[simp] theorem updCairn_step (g : CairnState → CairnState) : (s.updCairn g).step = s.step := rfl
@[simp] theorem updCairn_bufs (g : CairnState → CairnState) : (s.updCairn g).bufs = s.bufs := rfl
@[simp] theorem updCairn_emb (g : CairnState → CairnState) : (s.updCairn g).emb = s.emb := rfl
@[simp] theorem updCairn_cairn (g : CairnState → CairnState) : (s.updCairn g).cairn = g s.cairn := rfl
@[simp] theorem updCairn_belay (g : CairnState → CairnState) : (s.updCairn g).belay = s.belay := rfl
@[simp] theorem updCairn_book (g : CairnState → CairnState) : (s.updCairn g).book = s.book := rfl
@[simp] theorem updCairn_host (g : CairnState → CairnState) : (s.updCairn g).host = s.host := rfl
@[simp] theorem updCairn_power (g : CairnState → CairnState) : (s.updCairn g).power = s.power := rfl
@[simp] theorem updCairn_sluice (g : CairnState → CairnState) : (s.updCairn g).sluice = s.sluice := rfl
@[simp] theorem updCairn_flash (g : CairnState → CairnState) : (s.updCairn g).flash = s.flash := rfl
@[simp] theorem updCairn_sec (g : CairnState → CairnState) : (s.updCairn g).sec = s.sec := rfl
@[simp] theorem updCairn_mgmt (g : CairnState → CairnState) : (s.updCairn g).mgmt = s.mgmt := rfl
@[simp] theorem updCairn_rst (g : CairnState → CairnState) : (s.updCairn g).rst = s.rst := rfl
@[simp] theorem updCairn_hostRd (g : CairnState → CairnState) : (s.updCairn g).hostRd = s.hostRd := rfl
@[simp] theorem updCairn_rdBytes (g : CairnState → CairnState) : (s.updCairn g).rdBytes = s.rdBytes := rfl
@[simp] theorem updCairn_rom (g : CairnState → CairnState) : (s.updCairn g).rom = s.rom := rfl

/-! ### `updBelay` -/

@[simp] theorem updBelay_pending (g : BelayState → BelayState) : (s.updBelay g).pending = s.pending := rfl
@[simp] theorem updBelay_freeCtr (g : BelayState → BelayState) : (s.updBelay g).freeCtr = s.freeCtr := rfl
@[simp] theorem updBelay_mem (g : BelayState → BelayState) : (s.updBelay g).mem = s.mem := rfl
@[simp] theorem updBelay_undef (g : BelayState → BelayState) : (s.updBelay g).undef = s.undef := rfl
@[simp] theorem updBelay_upset (g : BelayState → BelayState) : (s.updBelay g).upset = s.upset := rfl
@[simp] theorem updBelay_poison (g : BelayState → BelayState) : (s.updBelay g).poison = s.poison := rfl
@[simp] theorem updBelay_regs (g : BelayState → BelayState) : (s.updBelay g).regs = s.regs := rfl
@[simp] theorem updBelay_tiles (g : BelayState → BelayState) : (s.updBelay g).tiles = s.tiles := rfl
@[simp] theorem updBelay_signals (g : BelayState → BelayState) : (s.updBelay g).signals = s.signals := rfl
@[simp] theorem updBelay_vpins (g : BelayState → BelayState) : (s.updBelay g).vpins = s.vpins := rfl
@[simp] theorem updBelay_aon (g : BelayState → BelayState) : (s.updBelay g).aon = s.aon := rfl
@[simp] theorem updBelay_log (g : BelayState → BelayState) : (s.updBelay g).log = s.log := rfl
@[simp] theorem updBelay_chg (g : BelayState → BelayState) : (s.updBelay g).chg = s.chg := rfl
@[simp] theorem updBelay_chgNext (g : BelayState → BelayState) : (s.updBelay g).chgNext = s.chgNext := rfl
@[simp] theorem updBelay_inbox (g : BelayState → BelayState) : (s.updBelay g).inbox = s.inbox := rfl
@[simp] theorem updBelay_netWait (g : BelayState → BelayState) : (s.updBelay g).netWait = s.netWait := rfl
@[simp] theorem updBelay_links (g : BelayState → BelayState) : (s.updBelay g).links = s.links := rfl
@[simp] theorem updBelay_out (g : BelayState → BelayState) : (s.updBelay g).out = s.out := rfl
@[simp] theorem updBelay_qm (g : BelayState → BelayState) : (s.updBelay g).qm = s.qm := rfl
@[simp] theorem updBelay_job (g : BelayState → BelayState) : (s.updBelay g).job = s.job := rfl
@[simp] theorem updBelay_step (g : BelayState → BelayState) : (s.updBelay g).step = s.step := rfl
@[simp] theorem updBelay_bufs (g : BelayState → BelayState) : (s.updBelay g).bufs = s.bufs := rfl
@[simp] theorem updBelay_emb (g : BelayState → BelayState) : (s.updBelay g).emb = s.emb := rfl
@[simp] theorem updBelay_cairn (g : BelayState → BelayState) : (s.updBelay g).cairn = s.cairn := rfl
@[simp] theorem updBelay_belay (g : BelayState → BelayState) : (s.updBelay g).belay = g s.belay := rfl
@[simp] theorem updBelay_book (g : BelayState → BelayState) : (s.updBelay g).book = s.book := rfl
@[simp] theorem updBelay_host (g : BelayState → BelayState) : (s.updBelay g).host = s.host := rfl
@[simp] theorem updBelay_power (g : BelayState → BelayState) : (s.updBelay g).power = s.power := rfl
@[simp] theorem updBelay_sluice (g : BelayState → BelayState) : (s.updBelay g).sluice = s.sluice := rfl
@[simp] theorem updBelay_flash (g : BelayState → BelayState) : (s.updBelay g).flash = s.flash := rfl
@[simp] theorem updBelay_sec (g : BelayState → BelayState) : (s.updBelay g).sec = s.sec := rfl
@[simp] theorem updBelay_mgmt (g : BelayState → BelayState) : (s.updBelay g).mgmt = s.mgmt := rfl
@[simp] theorem updBelay_rst (g : BelayState → BelayState) : (s.updBelay g).rst = s.rst := rfl
@[simp] theorem updBelay_hostRd (g : BelayState → BelayState) : (s.updBelay g).hostRd = s.hostRd := rfl
@[simp] theorem updBelay_rdBytes (g : BelayState → BelayState) : (s.updBelay g).rdBytes = s.rdBytes := rfl
@[simp] theorem updBelay_rom (g : BelayState → BelayState) : (s.updBelay g).rom = s.rom := rfl

/-! ### `updSec` -/

@[simp] theorem updSec_pending (g : Security → Security) : (s.updSec g).pending = s.pending := rfl
@[simp] theorem updSec_freeCtr (g : Security → Security) : (s.updSec g).freeCtr = s.freeCtr := rfl
@[simp] theorem updSec_mem (g : Security → Security) : (s.updSec g).mem = s.mem := rfl
@[simp] theorem updSec_undef (g : Security → Security) : (s.updSec g).undef = s.undef := rfl
@[simp] theorem updSec_upset (g : Security → Security) : (s.updSec g).upset = s.upset := rfl
@[simp] theorem updSec_poison (g : Security → Security) : (s.updSec g).poison = s.poison := rfl
@[simp] theorem updSec_regs (g : Security → Security) : (s.updSec g).regs = s.regs := rfl
@[simp] theorem updSec_tiles (g : Security → Security) : (s.updSec g).tiles = s.tiles := rfl
@[simp] theorem updSec_signals (g : Security → Security) : (s.updSec g).signals = s.signals := rfl
@[simp] theorem updSec_vpins (g : Security → Security) : (s.updSec g).vpins = s.vpins := rfl
@[simp] theorem updSec_aon (g : Security → Security) : (s.updSec g).aon = s.aon := rfl
@[simp] theorem updSec_log (g : Security → Security) : (s.updSec g).log = s.log := rfl
@[simp] theorem updSec_chg (g : Security → Security) : (s.updSec g).chg = s.chg := rfl
@[simp] theorem updSec_chgNext (g : Security → Security) : (s.updSec g).chgNext = s.chgNext := rfl
@[simp] theorem updSec_inbox (g : Security → Security) : (s.updSec g).inbox = s.inbox := rfl
@[simp] theorem updSec_netWait (g : Security → Security) : (s.updSec g).netWait = s.netWait := rfl
@[simp] theorem updSec_links (g : Security → Security) : (s.updSec g).links = s.links := rfl
@[simp] theorem updSec_out (g : Security → Security) : (s.updSec g).out = s.out := rfl
@[simp] theorem updSec_qm (g : Security → Security) : (s.updSec g).qm = s.qm := rfl
@[simp] theorem updSec_job (g : Security → Security) : (s.updSec g).job = s.job := rfl
@[simp] theorem updSec_step (g : Security → Security) : (s.updSec g).step = s.step := rfl
@[simp] theorem updSec_bufs (g : Security → Security) : (s.updSec g).bufs = s.bufs := rfl
@[simp] theorem updSec_emb (g : Security → Security) : (s.updSec g).emb = s.emb := rfl
@[simp] theorem updSec_cairn (g : Security → Security) : (s.updSec g).cairn = s.cairn := rfl
@[simp] theorem updSec_belay (g : Security → Security) : (s.updSec g).belay = s.belay := rfl
@[simp] theorem updSec_book (g : Security → Security) : (s.updSec g).book = s.book := rfl
@[simp] theorem updSec_host (g : Security → Security) : (s.updSec g).host = s.host := rfl
@[simp] theorem updSec_power (g : Security → Security) : (s.updSec g).power = s.power := rfl
@[simp] theorem updSec_sluice (g : Security → Security) : (s.updSec g).sluice = s.sluice := rfl
@[simp] theorem updSec_flash (g : Security → Security) : (s.updSec g).flash = s.flash := rfl
@[simp] theorem updSec_sec (g : Security → Security) : (s.updSec g).sec = g s.sec := rfl
@[simp] theorem updSec_mgmt (g : Security → Security) : (s.updSec g).mgmt = s.mgmt := rfl
@[simp] theorem updSec_rst (g : Security → Security) : (s.updSec g).rst = s.rst := rfl
@[simp] theorem updSec_hostRd (g : Security → Security) : (s.updSec g).hostRd = s.hostRd := rfl
@[simp] theorem updSec_rdBytes (g : Security → Security) : (s.updSec g).rdBytes = s.rdBytes := rfl
@[simp] theorem updSec_rom (g : Security → Security) : (s.updSec g).rom = s.rom := rfl

/-! ### `updFlash` -/

@[simp] theorem updFlash_pending (g : Flash → Flash) : (s.updFlash g).pending = s.pending := rfl
@[simp] theorem updFlash_freeCtr (g : Flash → Flash) : (s.updFlash g).freeCtr = s.freeCtr := rfl
@[simp] theorem updFlash_mem (g : Flash → Flash) : (s.updFlash g).mem = s.mem := rfl
@[simp] theorem updFlash_undef (g : Flash → Flash) : (s.updFlash g).undef = s.undef := rfl
@[simp] theorem updFlash_upset (g : Flash → Flash) : (s.updFlash g).upset = s.upset := rfl
@[simp] theorem updFlash_poison (g : Flash → Flash) : (s.updFlash g).poison = s.poison := rfl
@[simp] theorem updFlash_regs (g : Flash → Flash) : (s.updFlash g).regs = s.regs := rfl
@[simp] theorem updFlash_tiles (g : Flash → Flash) : (s.updFlash g).tiles = s.tiles := rfl
@[simp] theorem updFlash_signals (g : Flash → Flash) : (s.updFlash g).signals = s.signals := rfl
@[simp] theorem updFlash_vpins (g : Flash → Flash) : (s.updFlash g).vpins = s.vpins := rfl
@[simp] theorem updFlash_aon (g : Flash → Flash) : (s.updFlash g).aon = s.aon := rfl
@[simp] theorem updFlash_log (g : Flash → Flash) : (s.updFlash g).log = s.log := rfl
@[simp] theorem updFlash_chg (g : Flash → Flash) : (s.updFlash g).chg = s.chg := rfl
@[simp] theorem updFlash_chgNext (g : Flash → Flash) : (s.updFlash g).chgNext = s.chgNext := rfl
@[simp] theorem updFlash_inbox (g : Flash → Flash) : (s.updFlash g).inbox = s.inbox := rfl
@[simp] theorem updFlash_netWait (g : Flash → Flash) : (s.updFlash g).netWait = s.netWait := rfl
@[simp] theorem updFlash_links (g : Flash → Flash) : (s.updFlash g).links = s.links := rfl
@[simp] theorem updFlash_out (g : Flash → Flash) : (s.updFlash g).out = s.out := rfl
@[simp] theorem updFlash_qm (g : Flash → Flash) : (s.updFlash g).qm = s.qm := rfl
@[simp] theorem updFlash_job (g : Flash → Flash) : (s.updFlash g).job = s.job := rfl
@[simp] theorem updFlash_step (g : Flash → Flash) : (s.updFlash g).step = s.step := rfl
@[simp] theorem updFlash_bufs (g : Flash → Flash) : (s.updFlash g).bufs = s.bufs := rfl
@[simp] theorem updFlash_emb (g : Flash → Flash) : (s.updFlash g).emb = s.emb := rfl
@[simp] theorem updFlash_cairn (g : Flash → Flash) : (s.updFlash g).cairn = s.cairn := rfl
@[simp] theorem updFlash_belay (g : Flash → Flash) : (s.updFlash g).belay = s.belay := rfl
@[simp] theorem updFlash_book (g : Flash → Flash) : (s.updFlash g).book = s.book := rfl
@[simp] theorem updFlash_host (g : Flash → Flash) : (s.updFlash g).host = s.host := rfl
@[simp] theorem updFlash_power (g : Flash → Flash) : (s.updFlash g).power = s.power := rfl
@[simp] theorem updFlash_sluice (g : Flash → Flash) : (s.updFlash g).sluice = s.sluice := rfl
@[simp] theorem updFlash_flash (g : Flash → Flash) : (s.updFlash g).flash = g s.flash := rfl
@[simp] theorem updFlash_sec (g : Flash → Flash) : (s.updFlash g).sec = s.sec := rfl
@[simp] theorem updFlash_mgmt (g : Flash → Flash) : (s.updFlash g).mgmt = s.mgmt := rfl
@[simp] theorem updFlash_rst (g : Flash → Flash) : (s.updFlash g).rst = s.rst := rfl
@[simp] theorem updFlash_hostRd (g : Flash → Flash) : (s.updFlash g).hostRd = s.hostRd := rfl
@[simp] theorem updFlash_rdBytes (g : Flash → Flash) : (s.updFlash g).rdBytes = s.rdBytes := rfl
@[simp] theorem updFlash_rom (g : Flash → Flash) : (s.updFlash g).rom = s.rom := rfl

/-! ### `updEmb` -/

@[simp] theorem updEmb_pending (g : EmbState → EmbState) : (s.updEmb g).pending = s.pending := rfl
@[simp] theorem updEmb_freeCtr (g : EmbState → EmbState) : (s.updEmb g).freeCtr = s.freeCtr := rfl
@[simp] theorem updEmb_mem (g : EmbState → EmbState) : (s.updEmb g).mem = s.mem := rfl
@[simp] theorem updEmb_undef (g : EmbState → EmbState) : (s.updEmb g).undef = s.undef := rfl
@[simp] theorem updEmb_upset (g : EmbState → EmbState) : (s.updEmb g).upset = s.upset := rfl
@[simp] theorem updEmb_poison (g : EmbState → EmbState) : (s.updEmb g).poison = s.poison := rfl
@[simp] theorem updEmb_regs (g : EmbState → EmbState) : (s.updEmb g).regs = s.regs := rfl
@[simp] theorem updEmb_tiles (g : EmbState → EmbState) : (s.updEmb g).tiles = s.tiles := rfl
@[simp] theorem updEmb_signals (g : EmbState → EmbState) : (s.updEmb g).signals = s.signals := rfl
@[simp] theorem updEmb_vpins (g : EmbState → EmbState) : (s.updEmb g).vpins = s.vpins := rfl
@[simp] theorem updEmb_aon (g : EmbState → EmbState) : (s.updEmb g).aon = s.aon := rfl
@[simp] theorem updEmb_log (g : EmbState → EmbState) : (s.updEmb g).log = s.log := rfl
@[simp] theorem updEmb_chg (g : EmbState → EmbState) : (s.updEmb g).chg = s.chg := rfl
@[simp] theorem updEmb_chgNext (g : EmbState → EmbState) : (s.updEmb g).chgNext = s.chgNext := rfl
@[simp] theorem updEmb_inbox (g : EmbState → EmbState) : (s.updEmb g).inbox = s.inbox := rfl
@[simp] theorem updEmb_netWait (g : EmbState → EmbState) : (s.updEmb g).netWait = s.netWait := rfl
@[simp] theorem updEmb_links (g : EmbState → EmbState) : (s.updEmb g).links = s.links := rfl
@[simp] theorem updEmb_out (g : EmbState → EmbState) : (s.updEmb g).out = s.out := rfl
@[simp] theorem updEmb_qm (g : EmbState → EmbState) : (s.updEmb g).qm = s.qm := rfl
@[simp] theorem updEmb_job (g : EmbState → EmbState) : (s.updEmb g).job = s.job := rfl
@[simp] theorem updEmb_step (g : EmbState → EmbState) : (s.updEmb g).step = s.step := rfl
@[simp] theorem updEmb_bufs (g : EmbState → EmbState) : (s.updEmb g).bufs = s.bufs := rfl
@[simp] theorem updEmb_emb (g : EmbState → EmbState) : (s.updEmb g).emb = g s.emb := rfl
@[simp] theorem updEmb_cairn (g : EmbState → EmbState) : (s.updEmb g).cairn = s.cairn := rfl
@[simp] theorem updEmb_belay (g : EmbState → EmbState) : (s.updEmb g).belay = s.belay := rfl
@[simp] theorem updEmb_book (g : EmbState → EmbState) : (s.updEmb g).book = s.book := rfl
@[simp] theorem updEmb_host (g : EmbState → EmbState) : (s.updEmb g).host = s.host := rfl
@[simp] theorem updEmb_power (g : EmbState → EmbState) : (s.updEmb g).power = s.power := rfl
@[simp] theorem updEmb_sluice (g : EmbState → EmbState) : (s.updEmb g).sluice = s.sluice := rfl
@[simp] theorem updEmb_flash (g : EmbState → EmbState) : (s.updEmb g).flash = s.flash := rfl
@[simp] theorem updEmb_sec (g : EmbState → EmbState) : (s.updEmb g).sec = s.sec := rfl
@[simp] theorem updEmb_mgmt (g : EmbState → EmbState) : (s.updEmb g).mgmt = s.mgmt := rfl
@[simp] theorem updEmb_rst (g : EmbState → EmbState) : (s.updEmb g).rst = s.rst := rfl
@[simp] theorem updEmb_hostRd (g : EmbState → EmbState) : (s.updEmb g).hostRd = s.hostRd := rfl
@[simp] theorem updEmb_rdBytes (g : EmbState → EmbState) : (s.updEmb g).rdBytes = s.rdBytes := rfl
@[simp] theorem updEmb_rom (g : EmbState → EmbState) : (s.updEmb g).rom = s.rom := rfl

/-! ### `updPower` -/

@[simp] theorem updPower_pending (g : Power → Power) : (s.updPower g).pending = s.pending := rfl
@[simp] theorem updPower_freeCtr (g : Power → Power) : (s.updPower g).freeCtr = s.freeCtr := rfl
@[simp] theorem updPower_mem (g : Power → Power) : (s.updPower g).mem = s.mem := rfl
@[simp] theorem updPower_undef (g : Power → Power) : (s.updPower g).undef = s.undef := rfl
@[simp] theorem updPower_upset (g : Power → Power) : (s.updPower g).upset = s.upset := rfl
@[simp] theorem updPower_poison (g : Power → Power) : (s.updPower g).poison = s.poison := rfl
@[simp] theorem updPower_regs (g : Power → Power) : (s.updPower g).regs = s.regs := rfl
@[simp] theorem updPower_tiles (g : Power → Power) : (s.updPower g).tiles = s.tiles := rfl
@[simp] theorem updPower_signals (g : Power → Power) : (s.updPower g).signals = s.signals := rfl
@[simp] theorem updPower_vpins (g : Power → Power) : (s.updPower g).vpins = s.vpins := rfl
@[simp] theorem updPower_aon (g : Power → Power) : (s.updPower g).aon = s.aon := rfl
@[simp] theorem updPower_log (g : Power → Power) : (s.updPower g).log = s.log := rfl
@[simp] theorem updPower_chg (g : Power → Power) : (s.updPower g).chg = s.chg := rfl
@[simp] theorem updPower_chgNext (g : Power → Power) : (s.updPower g).chgNext = s.chgNext := rfl
@[simp] theorem updPower_inbox (g : Power → Power) : (s.updPower g).inbox = s.inbox := rfl
@[simp] theorem updPower_netWait (g : Power → Power) : (s.updPower g).netWait = s.netWait := rfl
@[simp] theorem updPower_links (g : Power → Power) : (s.updPower g).links = s.links := rfl
@[simp] theorem updPower_out (g : Power → Power) : (s.updPower g).out = s.out := rfl
@[simp] theorem updPower_qm (g : Power → Power) : (s.updPower g).qm = s.qm := rfl
@[simp] theorem updPower_job (g : Power → Power) : (s.updPower g).job = s.job := rfl
@[simp] theorem updPower_step (g : Power → Power) : (s.updPower g).step = s.step := rfl
@[simp] theorem updPower_bufs (g : Power → Power) : (s.updPower g).bufs = s.bufs := rfl
@[simp] theorem updPower_emb (g : Power → Power) : (s.updPower g).emb = s.emb := rfl
@[simp] theorem updPower_cairn (g : Power → Power) : (s.updPower g).cairn = s.cairn := rfl
@[simp] theorem updPower_belay (g : Power → Power) : (s.updPower g).belay = s.belay := rfl
@[simp] theorem updPower_book (g : Power → Power) : (s.updPower g).book = s.book := rfl
@[simp] theorem updPower_host (g : Power → Power) : (s.updPower g).host = s.host := rfl
@[simp] theorem updPower_power (g : Power → Power) : (s.updPower g).power = g s.power := rfl
@[simp] theorem updPower_sluice (g : Power → Power) : (s.updPower g).sluice = s.sluice := rfl
@[simp] theorem updPower_flash (g : Power → Power) : (s.updPower g).flash = s.flash := rfl
@[simp] theorem updPower_sec (g : Power → Power) : (s.updPower g).sec = s.sec := rfl
@[simp] theorem updPower_mgmt (g : Power → Power) : (s.updPower g).mgmt = s.mgmt := rfl
@[simp] theorem updPower_rst (g : Power → Power) : (s.updPower g).rst = s.rst := rfl
@[simp] theorem updPower_hostRd (g : Power → Power) : (s.updPower g).hostRd = s.hostRd := rfl
@[simp] theorem updPower_rdBytes (g : Power → Power) : (s.updPower g).rdBytes = s.rdBytes := rfl
@[simp] theorem updPower_rom (g : Power → Power) : (s.updPower g).rom = s.rom := rfl

/-! ### `updHost` -/

@[simp] theorem updHost_pending (g : HostPort → HostPort) : (s.updHost g).pending = s.pending := rfl
@[simp] theorem updHost_freeCtr (g : HostPort → HostPort) : (s.updHost g).freeCtr = s.freeCtr := rfl
@[simp] theorem updHost_mem (g : HostPort → HostPort) : (s.updHost g).mem = s.mem := rfl
@[simp] theorem updHost_undef (g : HostPort → HostPort) : (s.updHost g).undef = s.undef := rfl
@[simp] theorem updHost_upset (g : HostPort → HostPort) : (s.updHost g).upset = s.upset := rfl
@[simp] theorem updHost_poison (g : HostPort → HostPort) : (s.updHost g).poison = s.poison := rfl
@[simp] theorem updHost_regs (g : HostPort → HostPort) : (s.updHost g).regs = s.regs := rfl
@[simp] theorem updHost_tiles (g : HostPort → HostPort) : (s.updHost g).tiles = s.tiles := rfl
@[simp] theorem updHost_signals (g : HostPort → HostPort) : (s.updHost g).signals = s.signals := rfl
@[simp] theorem updHost_vpins (g : HostPort → HostPort) : (s.updHost g).vpins = s.vpins := rfl
@[simp] theorem updHost_aon (g : HostPort → HostPort) : (s.updHost g).aon = s.aon := rfl
@[simp] theorem updHost_log (g : HostPort → HostPort) : (s.updHost g).log = s.log := rfl
@[simp] theorem updHost_chg (g : HostPort → HostPort) : (s.updHost g).chg = s.chg := rfl
@[simp] theorem updHost_chgNext (g : HostPort → HostPort) : (s.updHost g).chgNext = s.chgNext := rfl
@[simp] theorem updHost_inbox (g : HostPort → HostPort) : (s.updHost g).inbox = s.inbox := rfl
@[simp] theorem updHost_netWait (g : HostPort → HostPort) : (s.updHost g).netWait = s.netWait := rfl
@[simp] theorem updHost_links (g : HostPort → HostPort) : (s.updHost g).links = s.links := rfl
@[simp] theorem updHost_out (g : HostPort → HostPort) : (s.updHost g).out = s.out := rfl
@[simp] theorem updHost_qm (g : HostPort → HostPort) : (s.updHost g).qm = s.qm := rfl
@[simp] theorem updHost_job (g : HostPort → HostPort) : (s.updHost g).job = s.job := rfl
@[simp] theorem updHost_step (g : HostPort → HostPort) : (s.updHost g).step = s.step := rfl
@[simp] theorem updHost_bufs (g : HostPort → HostPort) : (s.updHost g).bufs = s.bufs := rfl
@[simp] theorem updHost_emb (g : HostPort → HostPort) : (s.updHost g).emb = s.emb := rfl
@[simp] theorem updHost_cairn (g : HostPort → HostPort) : (s.updHost g).cairn = s.cairn := rfl
@[simp] theorem updHost_belay (g : HostPort → HostPort) : (s.updHost g).belay = s.belay := rfl
@[simp] theorem updHost_book (g : HostPort → HostPort) : (s.updHost g).book = s.book := rfl
@[simp] theorem updHost_host (g : HostPort → HostPort) : (s.updHost g).host = g s.host := rfl
@[simp] theorem updHost_power (g : HostPort → HostPort) : (s.updHost g).power = s.power := rfl
@[simp] theorem updHost_sluice (g : HostPort → HostPort) : (s.updHost g).sluice = s.sluice := rfl
@[simp] theorem updHost_flash (g : HostPort → HostPort) : (s.updHost g).flash = s.flash := rfl
@[simp] theorem updHost_sec (g : HostPort → HostPort) : (s.updHost g).sec = s.sec := rfl
@[simp] theorem updHost_mgmt (g : HostPort → HostPort) : (s.updHost g).mgmt = s.mgmt := rfl
@[simp] theorem updHost_rst (g : HostPort → HostPort) : (s.updHost g).rst = s.rst := rfl
@[simp] theorem updHost_hostRd (g : HostPort → HostPort) : (s.updHost g).hostRd = s.hostRd := rfl
@[simp] theorem updHost_rdBytes (g : HostPort → HostPort) : (s.updHost g).rdBytes = s.rdBytes := rfl
@[simp] theorem updHost_rom (g : HostPort → HostPort) : (s.updHost g).rom = s.rom := rfl

/-! ### `updMgmt` -/

@[simp] theorem updMgmt_pending (g : Mgmt → Mgmt) : (s.updMgmt g).pending = s.pending := rfl
@[simp] theorem updMgmt_freeCtr (g : Mgmt → Mgmt) : (s.updMgmt g).freeCtr = s.freeCtr := rfl
@[simp] theorem updMgmt_mem (g : Mgmt → Mgmt) : (s.updMgmt g).mem = s.mem := rfl
@[simp] theorem updMgmt_undef (g : Mgmt → Mgmt) : (s.updMgmt g).undef = s.undef := rfl
@[simp] theorem updMgmt_upset (g : Mgmt → Mgmt) : (s.updMgmt g).upset = s.upset := rfl
@[simp] theorem updMgmt_poison (g : Mgmt → Mgmt) : (s.updMgmt g).poison = s.poison := rfl
@[simp] theorem updMgmt_regs (g : Mgmt → Mgmt) : (s.updMgmt g).regs = s.regs := rfl
@[simp] theorem updMgmt_tiles (g : Mgmt → Mgmt) : (s.updMgmt g).tiles = s.tiles := rfl
@[simp] theorem updMgmt_signals (g : Mgmt → Mgmt) : (s.updMgmt g).signals = s.signals := rfl
@[simp] theorem updMgmt_vpins (g : Mgmt → Mgmt) : (s.updMgmt g).vpins = s.vpins := rfl
@[simp] theorem updMgmt_aon (g : Mgmt → Mgmt) : (s.updMgmt g).aon = s.aon := rfl
@[simp] theorem updMgmt_log (g : Mgmt → Mgmt) : (s.updMgmt g).log = s.log := rfl
@[simp] theorem updMgmt_chg (g : Mgmt → Mgmt) : (s.updMgmt g).chg = s.chg := rfl
@[simp] theorem updMgmt_chgNext (g : Mgmt → Mgmt) : (s.updMgmt g).chgNext = s.chgNext := rfl
@[simp] theorem updMgmt_inbox (g : Mgmt → Mgmt) : (s.updMgmt g).inbox = s.inbox := rfl
@[simp] theorem updMgmt_netWait (g : Mgmt → Mgmt) : (s.updMgmt g).netWait = s.netWait := rfl
@[simp] theorem updMgmt_links (g : Mgmt → Mgmt) : (s.updMgmt g).links = s.links := rfl
@[simp] theorem updMgmt_out (g : Mgmt → Mgmt) : (s.updMgmt g).out = s.out := rfl
@[simp] theorem updMgmt_qm (g : Mgmt → Mgmt) : (s.updMgmt g).qm = s.qm := rfl
@[simp] theorem updMgmt_job (g : Mgmt → Mgmt) : (s.updMgmt g).job = s.job := rfl
@[simp] theorem updMgmt_step (g : Mgmt → Mgmt) : (s.updMgmt g).step = s.step := rfl
@[simp] theorem updMgmt_bufs (g : Mgmt → Mgmt) : (s.updMgmt g).bufs = s.bufs := rfl
@[simp] theorem updMgmt_emb (g : Mgmt → Mgmt) : (s.updMgmt g).emb = s.emb := rfl
@[simp] theorem updMgmt_cairn (g : Mgmt → Mgmt) : (s.updMgmt g).cairn = s.cairn := rfl
@[simp] theorem updMgmt_belay (g : Mgmt → Mgmt) : (s.updMgmt g).belay = s.belay := rfl
@[simp] theorem updMgmt_book (g : Mgmt → Mgmt) : (s.updMgmt g).book = s.book := rfl
@[simp] theorem updMgmt_host (g : Mgmt → Mgmt) : (s.updMgmt g).host = s.host := rfl
@[simp] theorem updMgmt_power (g : Mgmt → Mgmt) : (s.updMgmt g).power = s.power := rfl
@[simp] theorem updMgmt_sluice (g : Mgmt → Mgmt) : (s.updMgmt g).sluice = s.sluice := rfl
@[simp] theorem updMgmt_flash (g : Mgmt → Mgmt) : (s.updMgmt g).flash = s.flash := rfl
@[simp] theorem updMgmt_sec (g : Mgmt → Mgmt) : (s.updMgmt g).sec = s.sec := rfl
@[simp] theorem updMgmt_mgmt (g : Mgmt → Mgmt) : (s.updMgmt g).mgmt = g s.mgmt := rfl
@[simp] theorem updMgmt_rst (g : Mgmt → Mgmt) : (s.updMgmt g).rst = s.rst := rfl
@[simp] theorem updMgmt_hostRd (g : Mgmt → Mgmt) : (s.updMgmt g).hostRd = s.hostRd := rfl
@[simp] theorem updMgmt_rdBytes (g : Mgmt → Mgmt) : (s.updMgmt g).rdBytes = s.rdBytes := rfl
@[simp] theorem updMgmt_rom (g : Mgmt → Mgmt) : (s.updMgmt g).rom = s.rom := rfl

/-! ### `updRst` -/

@[simp] theorem updRst_pending (g : Recovery → Recovery) : (s.updRst g).pending = s.pending := rfl
@[simp] theorem updRst_freeCtr (g : Recovery → Recovery) : (s.updRst g).freeCtr = s.freeCtr := rfl
@[simp] theorem updRst_mem (g : Recovery → Recovery) : (s.updRst g).mem = s.mem := rfl
@[simp] theorem updRst_undef (g : Recovery → Recovery) : (s.updRst g).undef = s.undef := rfl
@[simp] theorem updRst_upset (g : Recovery → Recovery) : (s.updRst g).upset = s.upset := rfl
@[simp] theorem updRst_poison (g : Recovery → Recovery) : (s.updRst g).poison = s.poison := rfl
@[simp] theorem updRst_regs (g : Recovery → Recovery) : (s.updRst g).regs = s.regs := rfl
@[simp] theorem updRst_tiles (g : Recovery → Recovery) : (s.updRst g).tiles = s.tiles := rfl
@[simp] theorem updRst_signals (g : Recovery → Recovery) : (s.updRst g).signals = s.signals := rfl
@[simp] theorem updRst_vpins (g : Recovery → Recovery) : (s.updRst g).vpins = s.vpins := rfl
@[simp] theorem updRst_aon (g : Recovery → Recovery) : (s.updRst g).aon = s.aon := rfl
@[simp] theorem updRst_log (g : Recovery → Recovery) : (s.updRst g).log = s.log := rfl
@[simp] theorem updRst_chg (g : Recovery → Recovery) : (s.updRst g).chg = s.chg := rfl
@[simp] theorem updRst_chgNext (g : Recovery → Recovery) : (s.updRst g).chgNext = s.chgNext := rfl
@[simp] theorem updRst_inbox (g : Recovery → Recovery) : (s.updRst g).inbox = s.inbox := rfl
@[simp] theorem updRst_netWait (g : Recovery → Recovery) : (s.updRst g).netWait = s.netWait := rfl
@[simp] theorem updRst_links (g : Recovery → Recovery) : (s.updRst g).links = s.links := rfl
@[simp] theorem updRst_out (g : Recovery → Recovery) : (s.updRst g).out = s.out := rfl
@[simp] theorem updRst_qm (g : Recovery → Recovery) : (s.updRst g).qm = s.qm := rfl
@[simp] theorem updRst_job (g : Recovery → Recovery) : (s.updRst g).job = s.job := rfl
@[simp] theorem updRst_step (g : Recovery → Recovery) : (s.updRst g).step = s.step := rfl
@[simp] theorem updRst_bufs (g : Recovery → Recovery) : (s.updRst g).bufs = s.bufs := rfl
@[simp] theorem updRst_emb (g : Recovery → Recovery) : (s.updRst g).emb = s.emb := rfl
@[simp] theorem updRst_cairn (g : Recovery → Recovery) : (s.updRst g).cairn = s.cairn := rfl
@[simp] theorem updRst_belay (g : Recovery → Recovery) : (s.updRst g).belay = s.belay := rfl
@[simp] theorem updRst_book (g : Recovery → Recovery) : (s.updRst g).book = s.book := rfl
@[simp] theorem updRst_host (g : Recovery → Recovery) : (s.updRst g).host = s.host := rfl
@[simp] theorem updRst_power (g : Recovery → Recovery) : (s.updRst g).power = s.power := rfl
@[simp] theorem updRst_sluice (g : Recovery → Recovery) : (s.updRst g).sluice = s.sluice := rfl
@[simp] theorem updRst_flash (g : Recovery → Recovery) : (s.updRst g).flash = s.flash := rfl
@[simp] theorem updRst_sec (g : Recovery → Recovery) : (s.updRst g).sec = s.sec := rfl
@[simp] theorem updRst_mgmt (g : Recovery → Recovery) : (s.updRst g).mgmt = s.mgmt := rfl
@[simp] theorem updRst_rst (g : Recovery → Recovery) : (s.updRst g).rst = g s.rst := rfl
@[simp] theorem updRst_hostRd (g : Recovery → Recovery) : (s.updRst g).hostRd = s.hostRd := rfl
@[simp] theorem updRst_rdBytes (g : Recovery → Recovery) : (s.updRst g).rdBytes = s.rdBytes := rfl
@[simp] theorem updRst_rom (g : Recovery → Recovery) : (s.updRst g).rom = s.rom := rfl

/-! ### `updStep` -/

@[simp] theorem updStep_pending (g : StepState → StepState) : (s.updStep g).pending = s.pending := rfl
@[simp] theorem updStep_freeCtr (g : StepState → StepState) : (s.updStep g).freeCtr = s.freeCtr := rfl
@[simp] theorem updStep_mem (g : StepState → StepState) : (s.updStep g).mem = s.mem := rfl
@[simp] theorem updStep_undef (g : StepState → StepState) : (s.updStep g).undef = s.undef := rfl
@[simp] theorem updStep_upset (g : StepState → StepState) : (s.updStep g).upset = s.upset := rfl
@[simp] theorem updStep_poison (g : StepState → StepState) : (s.updStep g).poison = s.poison := rfl
@[simp] theorem updStep_regs (g : StepState → StepState) : (s.updStep g).regs = s.regs := rfl
@[simp] theorem updStep_tiles (g : StepState → StepState) : (s.updStep g).tiles = s.tiles := rfl
@[simp] theorem updStep_signals (g : StepState → StepState) : (s.updStep g).signals = s.signals := rfl
@[simp] theorem updStep_vpins (g : StepState → StepState) : (s.updStep g).vpins = s.vpins := rfl
@[simp] theorem updStep_aon (g : StepState → StepState) : (s.updStep g).aon = s.aon := rfl
@[simp] theorem updStep_log (g : StepState → StepState) : (s.updStep g).log = s.log := rfl
@[simp] theorem updStep_chg (g : StepState → StepState) : (s.updStep g).chg = s.chg := rfl
@[simp] theorem updStep_chgNext (g : StepState → StepState) : (s.updStep g).chgNext = s.chgNext := rfl
@[simp] theorem updStep_inbox (g : StepState → StepState) : (s.updStep g).inbox = s.inbox := rfl
@[simp] theorem updStep_netWait (g : StepState → StepState) : (s.updStep g).netWait = s.netWait := rfl
@[simp] theorem updStep_links (g : StepState → StepState) : (s.updStep g).links = s.links := rfl
@[simp] theorem updStep_out (g : StepState → StepState) : (s.updStep g).out = s.out := rfl
@[simp] theorem updStep_qm (g : StepState → StepState) : (s.updStep g).qm = s.qm := rfl
@[simp] theorem updStep_job (g : StepState → StepState) : (s.updStep g).job = s.job := rfl
@[simp] theorem updStep_step (g : StepState → StepState) : (s.updStep g).step = g s.step := rfl
@[simp] theorem updStep_bufs (g : StepState → StepState) : (s.updStep g).bufs = s.bufs := rfl
@[simp] theorem updStep_emb (g : StepState → StepState) : (s.updStep g).emb = s.emb := rfl
@[simp] theorem updStep_cairn (g : StepState → StepState) : (s.updStep g).cairn = s.cairn := rfl
@[simp] theorem updStep_belay (g : StepState → StepState) : (s.updStep g).belay = s.belay := rfl
@[simp] theorem updStep_book (g : StepState → StepState) : (s.updStep g).book = s.book := rfl
@[simp] theorem updStep_host (g : StepState → StepState) : (s.updStep g).host = s.host := rfl
@[simp] theorem updStep_power (g : StepState → StepState) : (s.updStep g).power = s.power := rfl
@[simp] theorem updStep_sluice (g : StepState → StepState) : (s.updStep g).sluice = s.sluice := rfl
@[simp] theorem updStep_flash (g : StepState → StepState) : (s.updStep g).flash = s.flash := rfl
@[simp] theorem updStep_sec (g : StepState → StepState) : (s.updStep g).sec = s.sec := rfl
@[simp] theorem updStep_mgmt (g : StepState → StepState) : (s.updStep g).mgmt = s.mgmt := rfl
@[simp] theorem updStep_rst (g : StepState → StepState) : (s.updStep g).rst = s.rst := rfl
@[simp] theorem updStep_hostRd (g : StepState → StepState) : (s.updStep g).hostRd = s.hostRd := rfl
@[simp] theorem updStep_rdBytes (g : StepState → StepState) : (s.updStep g).rdBytes = s.rdBytes := rfl
@[simp] theorem updStep_rom (g : StepState → StepState) : (s.updStep g).rom = s.rom := rfl

/-! ### `updSluice` -/

@[simp] theorem updSluice_pending (g : Sluice → Sluice) : (s.updSluice g).pending = s.pending := rfl
@[simp] theorem updSluice_freeCtr (g : Sluice → Sluice) : (s.updSluice g).freeCtr = s.freeCtr := rfl
@[simp] theorem updSluice_mem (g : Sluice → Sluice) : (s.updSluice g).mem = s.mem := rfl
@[simp] theorem updSluice_undef (g : Sluice → Sluice) : (s.updSluice g).undef = s.undef := rfl
@[simp] theorem updSluice_upset (g : Sluice → Sluice) : (s.updSluice g).upset = s.upset := rfl
@[simp] theorem updSluice_poison (g : Sluice → Sluice) : (s.updSluice g).poison = s.poison := rfl
@[simp] theorem updSluice_regs (g : Sluice → Sluice) : (s.updSluice g).regs = s.regs := rfl
@[simp] theorem updSluice_tiles (g : Sluice → Sluice) : (s.updSluice g).tiles = s.tiles := rfl
@[simp] theorem updSluice_signals (g : Sluice → Sluice) : (s.updSluice g).signals = s.signals := rfl
@[simp] theorem updSluice_vpins (g : Sluice → Sluice) : (s.updSluice g).vpins = s.vpins := rfl
@[simp] theorem updSluice_aon (g : Sluice → Sluice) : (s.updSluice g).aon = s.aon := rfl
@[simp] theorem updSluice_log (g : Sluice → Sluice) : (s.updSluice g).log = s.log := rfl
@[simp] theorem updSluice_chg (g : Sluice → Sluice) : (s.updSluice g).chg = s.chg := rfl
@[simp] theorem updSluice_chgNext (g : Sluice → Sluice) : (s.updSluice g).chgNext = s.chgNext := rfl
@[simp] theorem updSluice_inbox (g : Sluice → Sluice) : (s.updSluice g).inbox = s.inbox := rfl
@[simp] theorem updSluice_netWait (g : Sluice → Sluice) : (s.updSluice g).netWait = s.netWait := rfl
@[simp] theorem updSluice_links (g : Sluice → Sluice) : (s.updSluice g).links = s.links := rfl
@[simp] theorem updSluice_out (g : Sluice → Sluice) : (s.updSluice g).out = s.out := rfl
@[simp] theorem updSluice_qm (g : Sluice → Sluice) : (s.updSluice g).qm = s.qm := rfl
@[simp] theorem updSluice_job (g : Sluice → Sluice) : (s.updSluice g).job = s.job := rfl
@[simp] theorem updSluice_step (g : Sluice → Sluice) : (s.updSluice g).step = s.step := rfl
@[simp] theorem updSluice_bufs (g : Sluice → Sluice) : (s.updSluice g).bufs = s.bufs := rfl
@[simp] theorem updSluice_emb (g : Sluice → Sluice) : (s.updSluice g).emb = s.emb := rfl
@[simp] theorem updSluice_cairn (g : Sluice → Sluice) : (s.updSluice g).cairn = s.cairn := rfl
@[simp] theorem updSluice_belay (g : Sluice → Sluice) : (s.updSluice g).belay = s.belay := rfl
@[simp] theorem updSluice_book (g : Sluice → Sluice) : (s.updSluice g).book = s.book := rfl
@[simp] theorem updSluice_host (g : Sluice → Sluice) : (s.updSluice g).host = s.host := rfl
@[simp] theorem updSluice_power (g : Sluice → Sluice) : (s.updSluice g).power = s.power := rfl
@[simp] theorem updSluice_sluice (g : Sluice → Sluice) : (s.updSluice g).sluice = g s.sluice := rfl
@[simp] theorem updSluice_flash (g : Sluice → Sluice) : (s.updSluice g).flash = s.flash := rfl
@[simp] theorem updSluice_sec (g : Sluice → Sluice) : (s.updSluice g).sec = s.sec := rfl
@[simp] theorem updSluice_mgmt (g : Sluice → Sluice) : (s.updSluice g).mgmt = s.mgmt := rfl
@[simp] theorem updSluice_rst (g : Sluice → Sluice) : (s.updSluice g).rst = s.rst := rfl
@[simp] theorem updSluice_hostRd (g : Sluice → Sluice) : (s.updSluice g).hostRd = s.hostRd := rfl
@[simp] theorem updSluice_rdBytes (g : Sluice → Sluice) : (s.updSluice g).rdBytes = s.rdBytes := rfl
@[simp] theorem updSluice_rom (g : Sluice → Sluice) : (s.updSluice g).rom = s.rom := rfl

/-! ### `draw` -/

@[simp] theorem draw_pending : (s.draw).2.pending = s.pending := rfl
@[simp] theorem draw_mem : (s.draw).2.mem = s.mem := rfl
@[simp] theorem draw_undef : (s.draw).2.undef = s.undef := rfl
@[simp] theorem draw_upset : (s.draw).2.upset = s.upset := rfl
@[simp] theorem draw_poison : (s.draw).2.poison = s.poison := rfl
@[simp] theorem draw_regs : (s.draw).2.regs = s.regs := rfl
@[simp] theorem draw_tiles : (s.draw).2.tiles = s.tiles := rfl
@[simp] theorem draw_signals : (s.draw).2.signals = s.signals := rfl
@[simp] theorem draw_vpins : (s.draw).2.vpins = s.vpins := rfl
@[simp] theorem draw_aon : (s.draw).2.aon = s.aon := rfl
@[simp] theorem draw_log : (s.draw).2.log = s.log := rfl
@[simp] theorem draw_chg : (s.draw).2.chg = s.chg := rfl
@[simp] theorem draw_chgNext : (s.draw).2.chgNext = s.chgNext := rfl
@[simp] theorem draw_inbox : (s.draw).2.inbox = s.inbox := rfl
@[simp] theorem draw_netWait : (s.draw).2.netWait = s.netWait := rfl
@[simp] theorem draw_links : (s.draw).2.links = s.links := rfl
@[simp] theorem draw_out : (s.draw).2.out = s.out := rfl
@[simp] theorem draw_qm : (s.draw).2.qm = s.qm := rfl
@[simp] theorem draw_job : (s.draw).2.job = s.job := rfl
@[simp] theorem draw_step : (s.draw).2.step = s.step := rfl
@[simp] theorem draw_bufs : (s.draw).2.bufs = s.bufs := rfl
@[simp] theorem draw_emb : (s.draw).2.emb = s.emb := rfl
@[simp] theorem draw_cairn : (s.draw).2.cairn = s.cairn := rfl
@[simp] theorem draw_belay : (s.draw).2.belay = s.belay := rfl
@[simp] theorem draw_book : (s.draw).2.book = s.book := rfl
@[simp] theorem draw_host : (s.draw).2.host = s.host := rfl
@[simp] theorem draw_power : (s.draw).2.power = s.power := rfl
@[simp] theorem draw_sluice : (s.draw).2.sluice = s.sluice := rfl
@[simp] theorem draw_flash : (s.draw).2.flash = s.flash := rfl
@[simp] theorem draw_sec : (s.draw).2.sec = s.sec := rfl
@[simp] theorem draw_mgmt : (s.draw).2.mgmt = s.mgmt := rfl
@[simp] theorem draw_rst : (s.draw).2.rst = s.rst := rfl
@[simp] theorem draw_hostRd : (s.draw).2.hostRd = s.hostRd := rfl
@[simp] theorem draw_rdBytes : (s.draw).2.rdBytes = s.rdBytes := rfl
@[simp] theorem draw_rom : (s.draw).2.rom = s.rom := rfl
@[simp] theorem draw_freeCtr : (s.draw).2.freeCtr = s.freeCtr + 1 := rfl
@[simp] theorem draw_value : (s.draw).1 = Config.freeWord s.freeCtr := rfl

/-! ### Reads after writes -/

/-- A register after a write of a register. -/
theorem reg_setReg (a b : Nat) (v : Word) : (s.setReg a v).reg b = if b = a then v else s.reg b :=
  smap_get_put regReset s.regs a b v

@[simp] theorem reg_setReg_self (a : Nat) (v : Word) : (s.setReg a v).reg a = v := by rw [reg_setReg, if_pos rfl]

/-- A register after a count. -/
theorem reg_count (a b n : Nat) : (s.count a n).reg b = if b = a then countUp (s.reg a) n else s.reg b :=
  reg_setReg s a b _

@[simp] theorem reg_setTile (t a : Nat) (x : Tile) : (s.setTile t x).reg a = s.reg a := rfl
@[simp] theorem reg_updTile (t a : Nat) (f : Tile → Tile) : (s.updTile t f).reg a = s.reg a := rfl
@[simp] theorem reg_setCtx (l : Loc) (c : Ctx) (a : Nat) : (s.setCtx l c).reg a = s.reg a := rfl
@[simp] theorem reg_updCtx (l : Loc) (f : Ctx → Ctx) (a : Nat) : (s.updCtx l f).reg a = s.reg a := rfl
@[simp] theorem reg_advance (l : Loc) (a : Nat) : (s.advance l).reg a = s.reg a := rfl
@[simp] theorem reg_poke (p a : Nat) (bs : List Byte) : (s.poke p bs).reg a = s.reg a := rfl

/-- A tile after a write of a tile. -/
theorem tile_setTile (t n : Nat) (x : Tile) : (s.setTile t x).tile n = if n = t then x else s.tile n :=
  smap_get_put (fun _ => Tile.reset) s.tiles t n x

@[simp] theorem tile_setTile_self (t : Nat) (x : Tile) : (s.setTile t x).tile t = x := by rw [tile_setTile, if_pos rfl]

/-- A tile after a change of a tile. -/
theorem tile_updTile (t n : Nat) (f : Tile → Tile) : (s.updTile t f).tile n = if n = t then f (s.tile t) else s.tile n :=
  tile_setTile s t n _

@[simp] theorem tile_updTile_self (t : Nat) (f : Tile → Tile) : (s.updTile t f).tile t = f (s.tile t) := by
  rw [tile_updTile, if_pos rfl]

@[simp] theorem tile_setReg (a n : Nat) (v : Word) : (s.setReg a v).tile n = s.tile n := rfl
@[simp] theorem tile_count (a k n : Nat) : (s.count a k).tile n = s.tile n := rfl
@[simp] theorem tile_poke (p n : Nat) (bs : List Byte) : (s.poke p bs).tile n = s.tile n := rfl
@[simp] theorem ctx_setReg (a : Nat) (v : Word) (l : Loc) : (s.setReg a v).ctx l = s.ctx l := rfl
@[simp] theorem ctx_count (a k : Nat) (l : Loc) : (s.count a k).ctx l = s.ctx l := rfl
@[simp] theorem ctx_poke (p : Nat) (bs : List Byte) (l : Loc) : (s.poke p bs).ctx l = s.ctx l := rfl

/-- A tile after a write of a context. -/
theorem tile_setCtx (l : Loc) (c : Ctx) (n : Nat) :
    (s.setCtx l c).tile n = if n = l.tile.val then (s.tile l.tile).setCtx l.ctx c else s.tile n :=
  tile_updTile s l.tile n _

/-- A context after a write of a context. -/
theorem ctx_setCtx (l k : Loc) (c : Ctx) : (s.setCtx l c).ctx k = if k = l then c else s.ctx k := by
  obtain ⟨lt, lc⟩ := l
  obtain ⟨kt, kc⟩ := k
  simp only [State.ctx, tile_setCtx, Loc.mk.injEq]
  by_cases ht : kt = lt
  · subst ht
    simp only [if_true, true_and, Tile.setCtx]
    by_cases hc : kc = lc
    · subst hc; simp
    · have : lc.val ≠ kc.val := fun h => hc (Fin.ext h).symm
      simp [hc, this]
  · have : kt.val ≠ lt.val := fun h => ht (Fin.ext h)
    simp [ht, this]

@[simp] theorem ctx_setCtx_self (l : Loc) (c : Ctx) : (s.setCtx l c).ctx l = c := by rw [ctx_setCtx, if_pos rfl]

/-- Of two writes of a tile the second stands. -/
@[simp] theorem setTile_setTile (t : Nat) (x y : Tile) : (s.setTile t x).setTile t y = s.setTile t y := by
  simp [State.setTile]

/-- Of two writes of a context the second stands. -/
@[simp] theorem setCtx_setCtx (l : Loc) (c d : Ctx) : (s.setCtx l c).setCtx l d = s.setCtx l d := by
  show (s.setCtx l c).setTile l.tile (((s.setCtx l c).tile l.tile).setCtx l.ctx d) = _
  rw [tile_setCtx, if_pos rfl]
  show (s.setTile l.tile _).setTile l.tile _ = s.setTile l.tile _
  rw [setTile_setTile]
  simp [Tile.setCtx]

/-- A context after a change of a context. -/
theorem ctx_updCtx (l k : Loc) (f : Ctx → Ctx) : (s.updCtx l f).ctx k = if k = l then f (s.ctx l) else s.ctx k :=
  ctx_setCtx s l k _

@[simp] theorem ctx_updCtx_self (l : Loc) (f : Ctx → Ctx) : (s.updCtx l f).ctx l = f (s.ctx l) := by
  rw [ctx_updCtx, if_pos rfl]

/-- A change of a tile that leaves its contexts leaves every context. -/
theorem ctx_updTile (t : Nat) (f : Tile → Tile) (h : ∀ x, (f x).ctxs = x.ctxs) (l : Loc) :
    (s.updTile t f).ctx l = s.ctx l := by
  have e : ((s.updTile t f).tile l.tile).ctxs = (s.tile l.tile).ctxs := by
    rw [tile_updTile]
    split
    · next e => rw [h, e]
    · rfl
  simp only [State.ctx, e]

@[simp] theorem byte_setReg (a b : Nat) (v : Word) : (s.setReg a v).byte b = s.byte b := rfl
@[simp] theorem byte_count (a n b : Nat) : (s.count a n).byte b = s.byte b := rfl
@[simp] theorem byte_updTile (t b : Nat) (f : Tile → Tile) : (s.updTile t f).byte b = s.byte b := rfl
@[simp] theorem byte_updCtx (l : Loc) (f : Ctx → Ctx) (b : Nat) : (s.updCtx l f).byte b = s.byte b := rfl

/-- A byte of memory after a write of bytes. -/
theorem get_putBytes (d : Nat → Byte) (m : List Host.Cell) (a b : Nat) (bs : List Byte) :
    SMap.get d (putBytes d m a bs) b = if h : a ≤ b ∧ b < a + bs.length then bs[b - a]'(by omega) else SMap.get d m b := by
  induction bs generalizing m a with
  | nil => simp [putBytes]
  | cons x r ih =>
    rw [putBytes, ih]
    by_cases hab : b = a
    · subst hab
      have h1 : ¬ (b + 1 ≤ b ∧ b < b + 1 + r.length) := by omega
      have h2 : b ≤ b ∧ b < b + (x :: r).length := by simp
      rw [dif_neg h1, dif_pos h2]
      simp
    · by_cases hin : a ≤ b ∧ b < a + (x :: r).length
      · have h1 : a + 1 ≤ b ∧ b < a + 1 + r.length := by simp at hin; omega
        rw [dif_pos h1, dif_pos hin]
        have : b - a = (b - (a + 1)) + 1 := by omega
        simp [this]
      · have h1 : ¬ (a + 1 ≤ b ∧ b < a + 1 + r.length) := by simp at hin; omega
        rw [dif_neg h1, dif_neg hin]
        exact smap_get_put_ne d m x hab

/-- A byte after a write of bytes. -/
theorem byte_poke (a b : Nat) (bs : List Byte) :
    (s.poke a bs).byte b = if h : a ≤ b ∧ b < a + bs.length then bs[b - a]'(by omega) else s.byte b :=
  get_putBytes (unlisted s.undef) s.mem a b bs

/-- A byte outside the bytes written. -/
theorem byte_poke_out (a b : Nat) (bs : List Byte) (h : b < a ∨ a + bs.length ≤ b) : (s.poke a bs).byte b = s.byte b := by
  rw [byte_poke, dif_neg (by omega)]

/-- A write of bytes keeps the canonical form of memory. -/
theorem wf_putBytes (d : Nat → Byte) (m : List Host.Cell) (a : Nat) (bs : List Byte) (h : SMap.wf d m = true) :
    SMap.wf d (putBytes d m a bs) = true := by
  induction bs generalizing m a with
  | nil => exact h
  | cons x r ih => exact ih _ _ (smap_wf_put a x h)

/-! ### Registers of a context (R124) -/

@[simp] theorem rg_zero (c : Ctx) : c.rg 0 = 0 := rfl
@[simp] theorem wg_zero (c : Ctx) (v : Word) : c.wg 0 v = c := rfl

/-- A general register after a write of one. -/
theorem rg_wg (c : Ctx) (n k : BitVec 5) (v : Word) : (c.wg n v).rg k = if k = n ∧ n ≠ 0 then v else c.rg k := by
  by_cases hn : n = 0
  · rw [hn, wg_zero, if_neg (fun h => h.2 rfl)]
  · by_cases hk : k = 0
    · rw [hk, if_neg (fun h => hn h.1.symm)]; rfl
    · have hw : (c.wg n v).rg k = (c.g.set n.toFin v)[k.toFin] := by simp only [Ctx.wg, Ctx.rg, if_neg hn, if_neg hk]
      rw [hw]
      by_cases h : k = n
      · subst h; rw [if_pos ⟨rfl, hn⟩]; exact Vector.getElem_set_self ..
      · rw [if_neg (fun e => h e.1)]
        have : n.toFin.val ≠ k.toFin.val := fun e => h (BitVec.eq_of_toNat_eq e.symm)
        simp only [Ctx.rg, if_neg hk]
        exact Vector.getElem_set_ne (h := this) ..

end Sys2Proof.Laws
end

