-- ==== Sys2Proof/Laws/Control.lean ====
section
/-! SUPPORT. What the shared operations of the control core do: one lemma for each. -/
namespace Sys2Proof.Laws

open Sys2Proof Sys2Proof.Machine

variable (s : State)

theorem regsTiles_refl : RegsTilesOnly s s := ⟨s.regs, s.tiles, rfl⟩
theorem regsTiles_setReg (a : Nat) (v : Word) : RegsTilesOnly s (s.setReg a v) := ⟨_, s.tiles, rfl⟩
theorem regsTiles_count (a n : Nat) : RegsTilesOnly s (s.count a n) := regsTiles_setReg s a _
theorem regsTiles_setTile (t : Nat) (x : Tile) : RegsTilesOnly s (s.setTile t x) := ⟨s.regs, _, rfl⟩
theorem regsTiles_setCtx (l : Loc) (c : Ctx) : RegsTilesOnly s (s.setCtx l c) := regsTiles_setTile s l.tile _

theorem regsTiles_trans {s t u : State} (h : RegsTilesOnly s t) (k : RegsTilesOnly t u) : RegsTilesOnly s u := by
  obtain ⟨r, x, rfl⟩ := h
  obtain ⟨r', x', rfl⟩ := k
  exact ⟨r', x', rfl⟩

theorem issued_eq (l : Loc) :
    s.issued l = (s.count (rCntInsn l.tile) 1).updTile l.tile (fun x => { x with rr := l.ctx }) := by
  rw [State.issued]

@[simp] theorem ctx_issued (l k : Loc) : (s.issued l).ctx k = s.ctx k := by
  rw [issued_eq, ctx_updTile (h := fun _ => by rfl), ctx_count]

theorem regsTiles_issued (l : Loc) : RegsTilesOnly s (s.issued l) := by
  rw [issued_eq]
  exact regsTiles_trans (regsTiles_count s _ _) (regsTiles_setTile _ _ _)

/-- The issue turn of an instruction that changes its own context only. -/
theorem turn_issued (l : Loc) (c : Ctx) : Turn l c s ((s.issued l).setCtx l c) := by
  refine ⟨ctx_setCtx_self _ l c, fun k hk => by rw [ctx_setCtx, if_neg hk, ctx_issued], fun n => ?_, fun a => ?_, ?_⟩
  · by_cases h : n = l.tile.val
    · rw [tile_setCtx, if_pos h, if_pos h, issued_eq, tile_updTile_self, tile_count, h, Tile.setCtx]
    · rw [tile_setCtx, if_neg h, if_neg h, issued_eq, tile_updTile, if_neg h, tile_count]
  · rw [reg_setCtx, issued_eq, reg_updTile, reg_count]
    by_cases h : a = rCntInsn l.tile
    · rw [if_pos h, if_pos h, h]
    · rw [if_neg h, if_neg h]
  · exact regsTiles_trans (regsTiles_issued s l) (regsTiles_setCtx _ _ _)

/-- An instruction in its slot whose guard holds acts (R127). -/
theorem slot_acts (l : Loc) (g : Guard) (act : State → State) (hc : s.canIssue l = true) (hg : (s.ctx l).passes g = true) :
    s.slot l g true act = act (s.issued l) := by
  simp [State.slot, State.slotRaw, hc, hg]

/-- An instruction whose only effect is on its own context (R127). -/
theorem slotCtx_acts (l : Loc) (g : Guard) (f : Ctx → Ctx) (hc : s.canIssue l = true) (hg : (s.ctx l).passes g = true) :
    Turn l (f (s.ctx l)).next s (s.slotCtx l g true f) := by
  have : s.slotCtx l g true f = (s.issued l).setCtx l (f (s.ctx l)).next := by
    rw [State.slotCtx, slot_acts s l g _ hc hg, State.advance, State.updCtx, State.updCtx, ctx_setCtx_self, ctx_issued,
      setCtx_setCtx]
  rw [this]
  exact turn_issued s l _

end Sys2Proof.Laws
end

