-- ==== Sys2Proof/Laws/Log.lean ====
section
/-! SUPPORT. What writing an error log entry leaves: the entry in its slot and, with no EVENT queue to tell, nothing else. -/
namespace Sys2Proof.Laws

open Sys2Proof Sys2Proof.Machine

/-- The log with one more entry (R370, R372). -/
def logWith (s : State) (e : LogEntry) : ErrLog :=
  { slots := s.log.slots.put (fun _ => none) (s.log.next % 64)
      (some { e with seq := s.log.next, tstart := s.aon.toNat, tend := if e.state = 2 then s.aon.toNat else 0, step := s.step.no, att := s.step.att }),
    next := (s.log.next + 1) % 2 ^ 32 }

theorem logWith_get (s : State) (e : LogEntry) (i : Nat) : (logWith s e).slots.get (fun _ => none) i =
    if i = s.log.next % 64 then some { e with seq := s.log.next, tstart := s.aon.toNat, tend := if e.state = 2 then s.aon.toNat else 0, step := s.step.no, att := s.step.att }
    else s.log.slots.get (fun _ => none) i := by
  dsimp only [logWith]
  rw [smap_get_put]

/-- With no EVENT queue that takes them, the events of the device go nowhere (log 15). -/
theorem post_none (s : State) (h : NoEventQueue s) (type status tag queue d3 : Nat) :
    s.post none type status tag queue d3 = s := by
  have k : (s.desc s.evq).valid = false := h
  unfold State.post State.postTo
  rw [if_pos (by simp [k])]

/-- An event that crosses into the hub changes registers alone (R363). -/
theorem crossEvent_eq (s : State) (e : LogEntry) : s.crossEvent e = { s with regs := (s.crossEvent e).regs } := by
  unfold State.crossEvent
  split
  · rfl
  · dsimp only
    split <;> rfl

/-- An entry for which there is room (R370). -/
theorem writeLog_eq (s : State) (e : LogEntry) (r : LogRoom s) : s.writeLog e = { s.crossEvent e with log := logWith s e } := by
  have b : ¬ s.logFull = true := by
    unfold State.logFull State.nextSlot
    split
    · next old ho => simp [r.1 old ho]
    · exact Bool.false_ne_true
  unfold State.writeLog
  rw [crossEvent_eq s e]
  exact if_neg b

/-- An entry whose event crosses no clock domain, and whose slot can be taken (R364, R370, R371). -/
theorem logEntry_eq (s : State) (e : LogEntry) (c : crossingOf e.cls e.cause = none) (h : NoEventQueue s) (r : LogRoom s) :
    s.logEntry e = { s with log := logWith s e } := by
  have k : NoEventQueue { s with log := logWith s e } := h
  have x : s.crossEvent e = s := by
    unfold State.crossEvent
    rw [c]
  have b := writeLog_eq s e r
  rw [x] at b
  unfold State.logEntry
  rw [b, post_none _ k 3 0 0 0 _]
  exact ite_self _

/-- The log after an entry. -/
theorem logEntry_logged (s : State) (e : LogEntry) (c : crossingOf e.cls e.cause = none) (h : NoEventQueue s) (r : LogRoom s) :
    Logged e s (s.logEntry e) := by
  rw [logEntry_eq s e c h r]
  refine ⟨rfl, (logWith_get s e _).trans (if_pos rfl), fun i hi => (logWith_get s e i).trans (if_neg hi)⟩

/-- A discarded access (R8): its ACCESS entry, and nothing else. -/
theorem accessError_discarded (s : State) (cause addr : Nat) (h : NoEventQueue s) (r : LogRoom s) :
    Discarded cause addr s (s.accessError cause addr) := by
  have l := logEntry_logged s (accessEntry cause addr) (by simp [accessEntry, crossingOf]) h r
  have e := logEntry_eq s (accessEntry cause addr) (by simp [accessEntry, crossingOf]) h r
  have a : s.accessError cause addr = s.logEntry (accessEntry cause addr) := rfl
  rw [a]
  refine ⟨?_, ?_, ?_, ?_, ?_, ?_, l⟩
  all_goals rw [e]
  · exact fun _ => rfl
  · exact fun _ _ => rfl

end Sys2Proof.Laws
end

