-- ==== Sys2Proof/Laws/Memory.lean ====
section
/-! SUPPORT. The canonical form of memory, which every operation on memory keeps, and what a write of bytes leaves. -/
namespace Sys2Proof.Laws

open Sys2Proof Sys2Proof.Machine

/-- An operation from s to t keeps memory's canonical form. -/
def Kept (s t : State) : Prop := Memory.wf s = true → Memory.wf t = true

theorem kept_refl (s : State) : Kept s s := id

theorem kept_trans {s t u : State} (h : Kept s t) (k : Kept t u) : Kept s u := fun w => k (h w)

/-- An operation that leaves the bytes and what unlisted addresses read as keeps the form. -/
theorem kept_of_same {s t : State} (h : t.mem = s.mem) (k : t.undef = s.undef) : Kept s t := by
  intro w
  rw [Memory.wf, h, k]
  exact w

/-- An operation that chooses keeps the form when both its choices do. -/
theorem kept_ite {s t u : State} {c : Prop} [Decidable c] (h : Kept s t) (k : Kept s u) : Kept s (if c then t else u) := by
  split
  · exact h
  · exact k

/-! ### Bytes -/

/-- Storing bytes keeps the form. -/
theorem putBytes_wf {d : Nat → Byte} (bs : List Byte) : ∀ {m : List Host.Cell} (a : Nat), SMap.wf d m = true →
    SMap.wf d (putBytes d m a bs) = true := by
  induction bs with
  | nil => exact fun _ h => h
  | cons b r ih => exact fun a h => ih (a + 1) (smap_wf_put a b h)

theorem poke_kept (s : State) (a : Nat) (bs : List Byte) : Kept s (s.poke a bs) := putBytes_wf bs a

/-! ### Descriptors, rings and events -/

theorem pokeBurst_kept (s : State) (a : Nat) (bs : List Byte) : Kept s (s.pokeBurst a bs) := putBytes_wf bs a
theorem setDesc_kept (s : State) (q off v : Nat) : Kept s (s.setDesc q off v) := kept_ite (kept_refl s) (putBytes_wf _ _)
theorem setTail_kept (s : State) (q v : Nat) : Kept s (s.setTail q v) := setDesc_kept s q 16 v
theorem setHead_kept (s : State) (q v : Nat) : Kept s (s.setHead q v) := setDesc_kept s q 20 v
theorem setSeq_kept (s : State) (q v : Nat) : Kept s (s.setSeq q v) := setDesc_kept s q 24 v

theorem setReg_kept (s : State) (a : Nat) (v : Word) : Kept s (s.setReg a v) := kept_of_same rfl rfl
theorem count_kept (s : State) (a n : Nat) : Kept s (s.count a n) := kept_of_same rfl rfl
theorem setTile_kept (s : State) (t : Nat) (x : Tile) : Kept s (s.setTile t x) := kept_of_same rfl rfl

theorem cacheUse_kept (s : State) (q : Nat) : Kept s (s.cacheUse q) := by
  refine kept_ite (kept_of_same rfl rfl) (kept_trans ?_ (count_kept _ _ _))
  exact kept_of_same rfl rfl

theorem flagUpdate_kept (s : State) (d : QDesc) (tail : Nat) : Kept s (s.flagUpdate d tail) := by
  unfold State.flagUpdate
  extract_lets fb flags line bs old s1
  have h : Kept s s1 := kept_of_same rfl rfl
  exact kept_ite (kept_ite (kept_trans h (poke_kept s1 _ _)) h) (kept_refl s)

theorem append_kept (s : State) (q : Nat) (e : List Byte) : Kept s (s.append q e) := by
  unfold State.append
  extract_lets d tail
  exact kept_trans (kept_trans (pokeBurst_kept s _ _) (setTail_kept _ _ _)) (flagUpdate_kept _ _ _)

theorem setHeld_kept (s : State) (q : Nat) (l : List (List Byte)) : Kept s (s.setHeld q l) := kept_of_same rfl rfl

theorem escalate_kept (s : State) (cause seq : Nat) : Kept s (s.escalate cause seq) := by
  rw [State.escalate]
  split
  · refine kept_ite ?_ (kept_refl s)
    exact kept_of_same rfl rfl
  · exact kept_of_same rfl rfl

theorem crossEvent_kept (s : State) (e : LogEntry) : Kept s (s.crossEvent e) := by
  rw [State.crossEvent]
  split
  · exact kept_refl s
  · exact kept_ite (setReg_kept _ _ _) (kept_refl s)

theorem writeLog_kept (s : State) (e : LogEntry) : Kept s (s.writeLog e) := by
  refine kept_trans (crossEvent_kept s e) (kept_ite (kept_trans ?_ (escalate_kept _ _ _)) ?_)
  · exact kept_of_same rfl rfl
  · exact kept_of_same rfl rfl

theorem countBurst_kept (s : State) (a : Nat) : Kept s (s.countBurst a).1 := kept_of_same rfl rfl

theorem putEvent_kept (s : State) (q : Nat) (e : List Byte) : Kept s (s.putEvent q e) := by
  unfold State.putEvent
  extract_lets d held
  refine kept_ite (append_kept _ _ _) (kept_ite (setHeld_kept _ _ _) (kept_trans ?_ (count_kept _ _ _)))
  exact kept_of_same rfl rfl

theorem logFetch_kept (s : State) (lost : Option Nat) (e : LogEntry) : Kept s (s.logFetch lost e) := by
  unfold State.logFetch
  extract_lets u d
  exact kept_ite (writeLog_kept s e) (kept_trans (writeLog_kept s e) (putEvent_kept _ _ _))

theorem fetchDesc_kept (s : State) (q : Nat) : Kept s (s.fetchDesc q).1 := by
  unfold State.fetchDesc
  by_cases h : q ∈ s.qm.cache
  · rw [if_pos h]
    exact cacheUse_kept s q
  · rw [if_neg h]
    split
    · exact cacheUse_kept s q
    · extract_lets y c
      exact kept_trans (kept_ite (kept_trans (countBurst_kept s _) (logFetch_kept _ _ _)) (countBurst_kept s _)) (cacheUse_kept _ q)
    · exact count_kept _ _ _

theorem fetchFailed_kept (s : State) (q : Nat) : Kept s (s.fetchFailed q) := logFetch_kept s _ _

theorem useQueue_kept (s : State) (q : Nat) : Kept s (s.useQueue q) :=
  kept_ite (fetchDesc_kept s q) (kept_trans (fetchDesc_kept s q) (fetchFailed_kept _ q))

theorem postTo_kept (s : State) (q : Nat) (e : List Byte) : Kept s (s.postTo q e) :=
  kept_ite (kept_refl s) (kept_ite (kept_trans (fetchDesc_kept s q) (putEvent_kept _ _ _))
    (kept_trans (fetchDesc_kept s q) (fetchFailed_kept _ q)))

theorem post_kept (s : State) (evq : Option Nat) (type status tag queue d3 : Nat) :
    Kept s (s.post evq type status tag queue d3) := postTo_kept s _ _

theorem drainHeld_kept (q n : Nat) : ∀ s : State, Kept s (s.drainHeld q n) := by
  induction n with
  | zero => exact fun s => kept_refl s
  | succ n ih =>
    intro s
    rw [State.drainHeld]
    refine kept_ite (kept_refl s) ?_
    split
    · exact kept_trans (append_kept _ _ _) (kept_trans (setHeld_kept _ _ _) (ih _))
    · extract_lets k s1
      refine kept_ite (kept_refl s) (kept_trans (t := s1) (append_kept s q _) ?_)
      exact kept_of_same rfl rfl

/-! ### The logs -/

theorem logEntry_kept (s : State) (e : LogEntry) : Kept s (s.logEntry e) :=
  kept_ite (writeLog_kept s e) (kept_trans (writeLog_kept s e) (post_kept _ _ _ _ _ _ _))

theorem logError_kept (s : State) (cls cause unit ctx eng d5 d6 d7 : Nat) :
    Kept s (s.logError cls cause unit ctx eng d5 d6 d7) := logEntry_kept s _

theorem accessError_kept (s : State) (cause addr : Nat) : Kept s (s.accessError cause addr) := logError_kept s _ _ _ _ _ _ _ _

theorem openDeferral_kept (s : State) (cause win defm unit d5 : Nat) : Kept s (s.openDeferral cause win defm unit d5) :=
  logEntry_kept s _

theorem change_kept (s : State) (iface kind addr value : Nat) : Kept s (s.change iface kind addr value) := by
  refine kept_ite (kept_trans ?_ (setReg_kept _ _ _)) ?_
  · exact kept_of_same rfl rfl
  · exact kept_of_same rfl rfl

/-! ### Tile memory and T1 with their check bits -/

theorem checkWord_kept (s : State) (a : Nat) : Kept s (s.checkWord a).1 := by
  rw [State.checkWord]
  split
  · exact setReg_kept _ _ _
  · split
    · exact kept_refl s
    · exact kept_of_same rfl rfl
    · exact kept_of_same rfl rfl

theorem checkWords_kept (l : List Nat) : ∀ s : State, Kept s (s.checkWords l).1 := by
  induction l with
  | nil => exact fun s => kept_refl s
  | cons a r ih =>
    intro s
    rw [State.checkWords]
    split
    · exact kept_trans (checkWord_kept s a) (ih _)
    · exact checkWord_kept s a

theorem readT0_kept (s : State) (a n : Nat) : Kept s (s.readT0 a n).1 := checkWords_kept _ s

theorem writeWord_kept (s : State) (a : Nat) (bs : List Byte) (w : Nat) : Kept s (s.writeWord a bs w).1 := by
  rw [State.writeWord]
  dsimp only
  split
  · exact kept_trans (kept_of_same rfl rfl) (poke_kept _ _ _)
  · split
    · exact kept_trans (checkWord_kept s w) (poke_kept _ _ _)
    · exact checkWord_kept s w

theorem writeWords_kept (a : Nat) (bs : List Byte) (l : List Nat) : ∀ s : State, Kept s (s.writeWords a bs l).1 := by
  induction l with
  | nil => exact fun s => kept_refl s
  | cons w r ih =>
    intro s
    rw [State.writeWords]
    have h := kept_trans (writeWord_kept s a bs w) (ih (s.writeWord a bs w).1)
    split
    · exact h
    · exact kept_trans h (setReg_kept _ _ _)

theorem writeT0_kept (s : State) (a : Nat) (bs : List Byte) : Kept s (s.writeT0 a bs).1 :=
  kept_trans (kept_of_same (t := s.clearPoison a bs.length) rfl rfl) (writeWords_kept a bs _ _)

theorem wipe_kept (s : State) (a n : Nat) : Kept s (s.wipe a n) := putBytes_wf _ a

theorem correctBurst_kept (s : State) (a : Nat) : Kept s (s.correctBurst a) :=
  kept_ite (kept_trans (countBurst_kept s a) (logError_kept _ _ _ _ _ _ _ _ _)) (countBurst_kept s a)

theorem checkBurst_kept (s : State) (a : Nat) : Kept s (s.checkBurst a).1 := by
  rw [State.checkBurst]
  split
  · exact kept_refl s
  · exact correctBurst_kept s a
  · exact kept_refl s

theorem checkBursts_kept (l : List Nat) : ∀ s : State, Kept s (s.checkBursts l).1 := by
  induction l with
  | nil => exact fun s => kept_refl s
  | cons a r ih => exact fun s => kept_trans (checkBurst_kept s a) (ih _)

theorem readT1_kept (s : State) (a n : Nat) : Kept s (s.readT1 a n).1 := checkBursts_kept _ s

theorem writeBurst_kept (s : State) (a : Nat) (bs : List Byte) (w : Nat) : Kept s (s.writeBurst a bs w).1 := by
  rw [State.writeBurst]
  dsimp only
  split
  · exact kept_trans (kept_of_same rfl rfl) (poke_kept _ _ _)
  · split
    · exact kept_trans (checkBurst_kept s w) (poke_kept _ _ _)
    · exact checkBurst_kept s w

theorem writeBursts_kept (a : Nat) (bs : List Byte) (l : List Nat) : ∀ s : State, Kept s (s.writeBursts a bs l).1 := by
  induction l with
  | nil => exact fun s => kept_refl s
  | cons w r ih => exact fun s => kept_trans (writeBurst_kept s a bs w) (ih _)

theorem writeT1_kept (s : State) (a : Nat) (bs : List Byte) : Kept s (s.writeT1 a bs).1 := writeBursts_kept a bs _ s

theorem farRead_kept (s : State) (a n : Nat) : Kept s (s.farRead a n).1 := kept_of_same rfl rfl

theorem readMem_kept (s : State) (a n : Nat) : Kept s (s.readMem a n).1 := by
  rw [State.readMem]
  split
  · exact readT0_kept s a n
  · exact readT1_kept s a n
  · exact kept_refl s
  · exact farRead_kept s a n

theorem writeMem_kept (s : State) (a : Nat) (bs : List Byte) : Kept s (s.writeMem a bs).1 := by
  rw [State.writeMem]
  split
  · exact writeT0_kept s a bs
  · exact writeT1_kept s a bs
  · exact poke_kept s a bs

theorem storeMem_kept (s : State) (unit a : Nat) (bs : List Byte) : Kept s (s.storeMem unit a bs) := by
  unfold State.storeMem
  extract_lets y
  exact kept_ite (writeMem_kept s a bs) (kept_ite (kept_trans (writeMem_kept s a bs) (logError_kept _ _ _ _ _ _ _ _ _))
    (kept_trans (writeMem_kept s a bs) (logError_kept _ _ _ _ _ _ _ _ _)))

theorem ctxFault_kept (s : State) (l : Loc) (cause detail eng op addr : Nat) :
    Kept s (s.ctxFault l cause detail eng op addr) := by
  unfold State.ctxFault
  extract_lets s1 a s2
  have h : Kept s s1 := kept_of_same rfl rfl
  have k : Kept s1 s2 := kept_ite (kept_refl s1) (setReg_kept _ _ _)
  refine kept_trans (kept_trans h k) (kept_trans (t := s2.dropPins l) ?_ (logError_kept _ _ _ _ _ _ _ _ _))
  exact kept_of_same rfl rfl

/-! ### Where memory is dropped -/

/-- Removing bytes keeps the form, where unlisted addresses read as before for those that stay. -/
theorem filter_kept {d d' : Nat → Byte} {m : List Host.Cell} (p : Host.Cell → Bool) (h : SMap.wf d m = true)
    (e : ∀ c ∈ m, p c = true → d' c.1 = d c.1) : SMap.wf d' (m.filter p) = true := by
  have w := smap_wf_filter p h
  rw [smap_wf_iff] at w ⊢
  refine ⟨w.1, fun c hc => ?_⟩
  rw [e c (List.mem_filter.mp hc).1 (List.mem_filter.mp hc).2]
  exact w.2 c hc

/-- Beyond T1 an unlisted address reads 0 (log 2). -/
theorem unlisted_high (u : List (Nat × Nat × Nat)) {a : Nat} (h : 0x56800000000 ≤ a) : unlisted u a = 0 := by
  unfold unlisted
  split
  · rw [if_neg (by omega)]
  · rfl

/-- Ranges that do not hold an address do not change what it reads as. -/
theorem unlisted_append (u v : List (Nat × Nat × Nat)) {a : Nat} (h : ∀ r ∈ u, inside a 1 r.2.1 r.2.2 = false) :
    unlisted (u ++ v) a = unlisted v a := by
  have e : (u ++ v).find? (fun r => inside a 1 r.2.1 r.2.2) = v.find? (fun r => inside a 1 r.2.1 r.2.2) := by
    rw [List.find?_append, List.find?_eq_none.mpr (fun r hr => by simp [h r hr]), Option.none_or]
  unfold unlisted
  rw [e]

theorem cutTransfer_kept (s : State) : Kept s s.cutTransfer := kept_ite (kept_of_same rfl rfl) (kept_refl s)

/-- A fold of operations that keep the form keeps it. -/
theorem foldl_kept {α : Type} (f : State → α → State) (h : ∀ s a, Kept s (f s a)) (l : List α) : ∀ s, Kept s (l.foldl f s) := by
  induction l with
  | nil => exact fun s => kept_refl s
  | cons a r ih => exact fun s => kept_trans (h s a) (ih _)

theorem endEntry_kept (s : State) (seq : Nat) : Kept s (s.endEntry seq) := by
  rw [State.endEntry, State.updEntry]
  split
  · exact kept_ite (kept_of_same rfl rfl) (kept_refl s)
  · exact kept_refl s

theorem endSearches_kept (s : State) : Kept s s.endSearches := by
  refine foldl_kept _ (fun s e => ?_) _ s
  split
  · exact kept_trans (kept_trans (endEntry_kept s _) (endEntry_kept _ _)) (setTile_kept _ _ _)
  · exact kept_refl s

theorem endDeferrals_kept (s : State) (cause : Nat) : Kept s (s.endDeferrals cause) := kept_of_same rfl rfl

theorem endSuspensions_kept (s : State) : Kept s s.endSuspensions :=
  kept_trans (endSearches_kept s) (foldl_kept _ endDeferrals_kept [3, 4, 5, 6, 9] _)

theorem cold_kept (s : State) (stage : Stage) (modEn : Bool) : Kept s (s.cold stage modEn) := by
  intro h
  refine filter_kept _ (cutTransfer_kept s h) (fun c _ hc => ?_)
  have : 0x56800000000 ≤ c.1 := by
    have hc : t2Base ≤ c.1 := of_decide_eq_true hc
    unfold t2Base at hc
    omega
  rw [unlisted_high _ this, unlisted_high _ this]

theorem domainReset_kept (s : State) : Kept s s.domainReset :=
  fun h => filter_kept _ (cutTransfer_kept _ (endSuspensions_kept s h)) (fun _ _ _ => rfl)

theorem hubCycle_kept (s : State) : Kept s s.hubCycle := kept_of_same rfl rfl

/-- The reserves whose base or size has changed. -/
def changedReserves (s old : State) : List (Nat × Nat) :=
  ([(old.dumpRegion, s.dumpRegion), (old.dtab, s.dtab), (old.stage, s.stage)].filter (fun p => decide (p.1 ≠ p.2))).map (·.2)

theorem spoil_mem (s old : State) (h : ¬ (changedReserves s old).isEmpty = true) :
    (s.spoil old).mem = s.mem.filter (fun (c : Host.Cell) => !(changedReserves s old).any (fun r => inside c.1 1 r.1 r.2)) :=
  congrArg State.mem (if_neg h)

theorem spoil_undef (s old : State) (h : ¬ (changedReserves s old).isEmpty = true) :
    (s.spoil old).undef = (changedReserves s old).map (fun r => (s.freeCtr, r)) ++ s.undef :=
  congrArg State.undef (if_neg h)

/-- A self-test takes the bytes of tile memory, and only those read otherwise. -/
theorem spoilTiles_kept (s : State) : Kept s s.spoilTiles := by
  intro h
  have m : s.spoilTiles.mem = s.mem.filter (fun (c : Host.Cell) => decide (t0End ≤ c.1)) := rfl
  have u : s.spoilTiles.undef = (s.freeCtr, 0, t0End) :: s.undef := rfl
  rw [Memory.wf, m, u]
  refine filter_kept _ h (fun c _ hc => ?_)
  have hc : t0End ≤ c.1 := of_decide_eq_true hc
  refine unlisted_append [(s.freeCtr, 0, t0End)] s.undef (fun r hr => ?_)
  rw [List.mem_singleton.mp hr]
  show decide (0 ≤ c.1 ∧ c.1 + 1 ≤ 0 + t0End) = false
  exact decide_eq_false (by omega)

/-- A change of the reserves (R172): the bytes inside a changed reserve go, and only those read otherwise. -/
theorem spoil_kept (s old : State) : Kept s (s.spoil old) := by
  intro h
  by_cases e : (changedReserves s old).isEmpty = true
  · have hs : s.spoil old = s := if_pos e
    rw [hs]
    exact h
  · rw [Memory.wf, spoil_mem s old e, spoil_undef s old e]
    refine filter_kept _ h (fun c _ hc => ?_)
    simp only [Bool.not_eq_true', List.any_eq_false] at hc
    refine unlisted_append _ _ (fun x hx => ?_)
    obtain ⟨r, hr, rfl⟩ := List.mem_map.mp hx
    exact Bool.eq_false_iff.mpr (hc r hr)

/-- Memory after reset lists nothing. -/
theorem reset_wf : Memory.wf State.reset = true := rfl

end Sys2Proof.Laws
end

