-- ==== Sys2Proof/Tests/Slice0.lean ====
section
/-! SUPPORT. The model's own tests: ill-formed commands are refused by `Instr.wf`, instruction words decode as the manual's fields spell
them, and for the statements a concrete state that meets their hypotheses, with what the command does there. -/
namespace Sys2Proof.Tests
open Sys2Proof Sys2Proof.Machine
set_option Elab.async false
set_option maxRecDepth 20000
set_option exponentiation.threshold 4000

/-! ### Small states -/

def l0 : Loc := ⟨0, 0⟩
def yes : Guard := ⟨0, false⟩

/-- Power-on with the hub booted, T1 up, and tile 0 as `x` with the current of full rate. -/
def on (x : Tile) : State := { State.reset with
  tiles := [(0, x)], sec := { Security.reset with boot := .running, tilesOn := true },
  mgmt := { Mgmt.reset with base := false, service := true },
  sluice := { Sluice.reset with budget := [(0, 1600)], target := [(0, 1600)] } }

/-- Tile 0 with context 0 as `c`, running. -/
def cpu (c : Ctx) : State := on (Tile.reset.setCtx 0 { c with mode := .run })

/-- A context with these general registers. -/
def withRegs (gs : List (Nat × Word)) : Ctx := gs.foldl (fun c p => { c with g := c.g.set! p.1 p.2 }) Ctx.reset

/-- The state that a command leaves. -/
def after (c : Instr) (s : State) : State := match exec c s with | .next t => t | _ => s

/-- Whether a command answers a next state. -/
def goes (c : Instr) (s : State) : Bool := match exec c s with | .next _ => true | _ => false

theorem logRoom_of {s : State} (h : s.nextSlot = none ∧ s.upset = []) : LogRoom s :=
  ⟨fun e he => by (rw [h.1] at he; cases he), by rw [h.2]; rfl⟩

theorem noEventQueue_of {s : State} (h : (s.desc (wfld (s.reg rEvq) 19 0)).valid = false) : NoEventQueue s := h

theorem cleanTile_of {s : State} {t : TileId} (h : NoUpsets s) : CleanTile s t := fun _ _ _ => by rw [h.1, h.2]; exact ⟨rfl, rfl⟩

theorem cleanAt_of {s : State} {a n : Nat} (h : NoUpsets s) : CleanAt s a n := fun _ _ _ => by rw [h.1, h.2]; exact ⟨rfl, rfl⟩

theorem cleanT0_of {s : State} {a n : Nat} (h : NoUpsets s) : CleanT0 s a n := fun _ _ => by rw [h.1, h.2]; exact ⟨rfl, rfl⟩

/-! ### Well-formed commands -/

/-- One ill-formed command for each check of `Instr.wf` (R8, R127, R128, R319): unlisted FN, shift code 3, reserved conditions and kinds,
summary register 16, nonzero unused fields, an odd pair, an amount of 0, semaphore 8, level 6, and access sizes and places. -/
theorem test_ill_formed : ∀ i ∈ [Instr.aluGroup l0 yes 1 2 3 0x11, .shi l0 yes 1 2 0xC0, .cmp l0 yes 1 2 3 6 0 0, .cmp l0 yes 1 2 3 0 2 0,
    .cmp l0 yes 1 2 3 0 0 1, .stest l0 yes 1 16 3 0 0 0, .stest l0 yes 1 2 3 0 3 0, .plog l0 yes 1 2 3 0 0 1, .rdr l0 yes 1 1 0 0,
    .wrr l0 yes 1 1 0, .issue l0 yes 0 1 0 0, .twait l0 yes 1 2 1, .ttest l0 yes 1 2 3 1 0 0, .semsig l0 yes 1 0 0, .semsig l0 yes 1 1 1,
    .semwait l0 yes 1 2 1, .semwait l0 yes 0 8 1, .semwait l0 yes 0 7 0, .semtest l0 yes 1 8 1 0 0 0, .wakeAhead l0 yes 0 6 0,
    .progMark l0 yes 1 0 0, .halt l0 yes 0 0 1, .registerWrite (.bar0 0) 2 0, .rcRegisterRead (.bar2 0) 1 0, .mctpRegisterRead 0 16 0,
    .mctpRegisterWrite 0 3 0, .doorbell 0 4 0, .doorbell (2 ^ 20) 8 0, .hostTileMemoryRead (640 * 2 ^ 23) 1,
    .hostTileMemoryWrite (640 * 2 ^ 23) [0], .linkCfgWrite .host 0 2 0, .errPeerdownWrite .host 0 4 2 0], i.wf = false := by decide

/-- The same commands at the edge of what is well formed. -/
theorem test_well_formed : ∀ i ∈ [Instr.aluGroup l0 yes 1 2 3 0x10, .shi l0 yes 1 2 0xBF, .cmp l0 yes 1 2 3 5 1 0, .stest l0 yes 1 15 3 7 2 0,
    .issue l0 yes 31 30 0 0, .semsig l0 yes 1 0 1, .semwait l0 yes 0 7 0xFFF, .semtest l0 yes 1 7 1 0 0 0, .wakeAhead l0 yes 0 5 0,
    .doorbell (2 ^ 20 - 1) 8 0, .hostTileMemoryRead 0 (640 * 2 ^ 23), .errPeerdownWrite .host 0 4 1 0], i.wf = true := by decide

/-! ### Instruction words (R127, R128), written out by their fields -/

/-- `movw0 g28, 0x2020, z` from the manual's listing, and a word of each format R, B, P and C. -/
theorem test_words :
    decodeInsn l0 0x20392020 = some (.movw l0 yes 0 28 true 0x2020) ∧
    decodeInsn l0 0b000000_0_000_00001_00010_00011_0001000 = some (.aluGroup l0 yes 1 2 3 8) ∧
    decodeInsn l0 0b000001_1_010_00001_00010_111111111111 = some (.addi l0 ⟨2, true⟩ 1 2 0xFFF) ∧
    decodeInsn l0 0b011100_0_000_1111111111111111111110 = some (.br l0 yes 0x3FFFFE) ∧
    decodeInsn l0 0b011000_0_000_011_00001_00010_100_01_0000 = some (.cmp l0 yes 3 1 2 4 1 0) ∧
    decodeInsn l0 0b110010_0_000_00000_01_101_000000000000 = some (.stepCommitWait l0 yes 5) ∧
    decodeInsn l0 0b000110_0_000_00000_00000_000000000000 = none := by decide

/-! ### Scalar instructions -/

/-- The hypotheses of the scalar statements together: an issuing context, a true guard, no replay, an empty step log. -/
theorem witness_scalar : (cpu Ctx.reset).canIssue l0 = true ∧ ((cpu Ctx.reset).ctx l0).passes yes = true ∧
    (cpu Ctx.reset).replaying l0 = false ∧ (cpu Ctx.reset).book.full = false := by decide

def ab : State := cpu (withRegs [(2, 7), (3, 0xFFFFFFFFFFFFFFFF)])

/-- R129: high products unsigned and signed, an arithmetic shift by 63, and the leading zeros of 7. -/
theorem test_alu : ([0x09, 0x0A, 0x07, 0x0D, 0x0C].map (fun f => ((after (.aluGroup l0 yes 1 2 3 f) ab).ctx l0).rg 1)) =
    [6, 0xFFFFFFFFFFFFFFFF, 0, 0xFFFFFFFFFFFFFFFF, 0xFFFFFFFFFFFFFFFF] ∧ ((after (.aluGroup l0 yes 1 2 3 0xF) ab).ctx l0).rg 1 = 61 := by decide

/-- R124, R129: clz of 0 is 64, and a write to g0 is discarded. -/
theorem test_alu_zero : ((after (.aluGroup l0 yes 1 0 0 0xF) ab).ctx l0).rg 1 = 64 ∧ ((after (.addi l0 yes 0 2 1) ab).ctx l0).rg 0 = 0 ∧
    (after (.addi l0 yes 0 2 1) ab).reg (rCntInsn 0) = 1 := by decide

/-- R128: a negative immediate, an arithmetic right shift, and `movw` into the top quarter. -/
theorem test_immediates : ((after (.addi l0 yes 1 2 0xFFF) ab).ctx l0).rg 1 = 6 ∧ ((after (.shi l0 yes 1 3 0xBF) ab).ctx l0).rg 1 = 0xFFFFFFFFFFFFFFFF ∧
    ((after (.movw l0 yes 3 2 false 0xABCD) ab).ctx l0).rg 2 = 0xABCD000000000007 ∧
    ((after (.movw l0 yes 0 3 true 0x2020) ab).ctx l0).rg 3 = 0x2020 := by decide

/-- R134: 7 is below 2^64 − 1 unsigned and above −1 signed. -/
theorem test_cmp : ((after (.cmp l0 yes 1 2 3 2 0 0) ab).ctx l0).rp 1 = true ∧ ((after (.cmp l0 yes 1 2 3 2 1 0) ab).ctx l0).rp 1 = false ∧
    ((after (.plog l0 yes 1 0 0 3 0 0) ab).ctx l0).rp 1 = false ∧ ((after (.ttest l0 yes 1 5 2 0 0 0) ab).ctx l0).rp 1 = false := by decide

def sums (x : Word) : State := cpu { withRegs [(2, 0x3FF0000000000000)] with s := Ctx.reset.s.set 15 x }

/-- R134: under F, a NaN is unordered and different, and −2 is below 1. -/
theorem test_stest : ((after (.stest l0 yes 1 15 2 6 2 0) (sums 0x7FF8000000000000)).ctx l0).rp 1 = true ∧
    ((after (.stest l0 yes 1 15 2 0 2 0) (sums 0x7FF8000000000000)).ctx l0).rp 1 = false ∧
    ((after (.stest l0 yes 1 15 2 2 2 0) (sums 0xC000000000000000)).ctx l0).rp 1 = true := by decide

/-- R128: a branch back of one instruction from 0x1000, a call's link, and a jump to an address that is no multiple of 4. -/
theorem test_branches : let s := cpu { withRegs [(2, 0x2002)] with pc := 0x1000 }
    ((after (.br l0 yes 0x3FFFFF) s).ctx l0).pc = 0xFFC ∧ ((after (.call l0 yes 4) s).ctx l0).rg 27 = 0x1004 ∧
    ((after (.jr l0 yes 1 0 4) s).ctx l0).pc = 0x10 ∧ ((after (.jr l0 yes 1 2 0) s).ctx l0).mode = .faulted := by decide

/-- R141: `tset` and an increment of the same cycle; `swr` and `movs` of s15. -/
theorem test_moves : ((after (.tset l0 yes 31 2 0 0 true) ab).ctx l0).t[31] = 8 ∧ ((after (.swr l0 yes 15 2 0 0) ab).ctx l0).s[15] = 7 ∧
    ((after (.movs l0 yes 1 15 0 0) (sums 9)).ctx l0).rg 1 = 9 ∧ ((after (.trd l0 yes 1 31 0 0) ab).ctx l0).rg 1 = 0 := by decide

def ram : State := (cpu (withRegs [(2, 0x5FFFF8)])).poke 0x5FFFF8 [1, 2, 3, 4, 5, 6, 7, 0x88]

/-- R131: the last 8 bytes of tile SRAM can be loaded, a byte is zero-extended, the next 8 are beyond, and an odd half is misaligned. -/
theorem test_loads : ((after (.ld l0 yes 3 1 2 0) ram).ctx l0).rg 1 = 0x8807060504030201 ∧ ((after (.ld l0 yes 0 1 2 7) ram).ctx l0).rg 1 = 0x88 ∧
    (after (.ld l0 yes 3 1 2 8) ram).reg (rCflt 0 0) = 0x3000001 ∧ (after (.ld l0 yes 1 1 2 1) ram).reg (rCflt 0 0) = 0x2000001 := by decide

theorem witness_loads : (ram.ctx l0).rg 2 = 0x5FFFF8 ∧ ram.inStorage 0 0x5FFFF8 8 = false ∧ NoUpsets ram ∧
    NoEventQueue ram ∧ LogRoom ram := ⟨by decide, by decide, ⟨rfl, rfl⟩, noEventQueue_of (by decide), logRoom_of (by decide)⟩

/-- R155: an uncorrectable word holds the context and faults nothing. -/
theorem test_load_uncorrectable : let s := { ram with poison := [(poisonKey 0x5FFFF8, true)] }
    s.poison.get (fun _ => false) (poisonKey (0x5FFFF8 / 8 * 8)) = true ∧ ((after (.ld l0 yes 3 1 2 0) s).ctx l0).mode = .held ∧
    (after (.ld l0 yes 3 1 2 0) s).reg (rCflt 0 0) = 0 := by decide

/-- R131, R132: a 4-byte store writes its four bytes alone. -/
theorem test_stores : (after (.st l0 yes 2 2 2 0) ram).bytes 0x5FFFF8 8 = [0xF8, 0xFF, 0x5F, 0, 5, 6, 7, 0x88] ∧
    (after (.st l0 yes 3 2 2 0) ram).bytes 0x5FFFF8 8 = [0xF8, 0xFF, 0x5F, 0, 0, 0, 0, 0] ∧
    (after (.st l0 yes 3 2 2 4) ram).bytes 0x5FFFF8 8 = ram.bytes 0x5FFFF8 8 := by decide

/-- R127, R128: a false guard skips, and an unlisted FN faults even so. -/
theorem test_guard : let no : Guard := ⟨1, false⟩
    ((after (.addi l0 no 1 2 1) ab).ctx l0).rg 1 = 0 ∧ ((after (.addi l0 no 1 2 1) ab).ctx l0).pc = 4 ∧
    ((after (.aluGroup l0 no 1 2 3 0x11) ab).ctx l0).mode = .faulted ∧ (after (.aluGroup l0 no 1 2 3 0x11) ab).reg (rCflt 0 0) = 0x1000001 := by
  decide

/-- A vector command word: `abs` of one FP32 element, from block 0 to block 1. -/
def absWord : BitVec 128 := BitVec.ofNat 128 (1 * 2 ^ 111 + 1 * 2 ^ 43 + 1 * 2 ^ 39 + 1 * 2 ^ 28 + 9 * 2 ^ 20)

def issuer (w : BitVec 128) : State := (cpu (withRegs [(2, w.extractLsb' 0 64), (3, w.extractLsb' 64 64), (4, 65536)])).poke 0 (leBytes 16 w.toNat)

/-- R135, R137: the command enters the vector queue; from memory too; and a list of 65,536 leaves 65,535. -/
theorem test_issue : ((after (.issue l0 yes 0 2 0 0) (issuer absWord)).tile 0).queues[1].length = 1 ∧
    ((after (.issuem l0 yes 0 0 0) (issuer absWord)).tile 0).queues[1].length = 1 ∧
    ((after (.clist l0 yes 0 0 4 0) (issuer absWord)).ctx l0).clist = some (16, 65535) := by decide

/-- The hypotheses of `IssueEntersTheQueue` hold there, and with an entry of the list left. -/
theorem witness_issue : absWord.toNat / 2 ^ 28 % 16 = 1 ∧ absWord.toNat % 1024 = 0 ∧
    (((issuer absWord).ctx l0).rg 3 ++ ((issuer absWord).ctx l0).rg 2) = absWord ∧ leVal ((issuer absWord).bytes 0 16) = absWord.toNat ∧
    (let s := (issuer absWord).updCtx l0 (fun c => { c with clist := some (0, 1) })
     ((after (.clistEntryIssue l0) s).tile 0).queues[1].length = 1 ∧ ((after (.clistEntryIssue l0) s).ctx l0).clist = none) := by decide

/-- R136, R154: reserved engine 6 is cause 0x06 with detail 6; bit 9 is cause 0x07; an empty list is cause 0x0B. -/
theorem test_issue_refused : (after (.issue l0 yes 0 2 0 0) (issuer 0x60000000)).reg (rCflt 0 0) = 0x6006001 ∧
    (after (.issue l0 yes 0 2 0 0) (issuer (absWord + 512))).reg (rCflt 0 0) = 0x7001091 ∧
    (after (.clist l0 yes 0 0 0 0) (issuer absWord)).reg (rCflt 0 0) = 0xB000001 := by decide

def full (s : State) : State := s.updTile 0 (fun x => x.setQueue 1 (List.replicate 8 ⟨absWord, 1, 0, 0, Vector.replicate 4 0, Vector.replicate 16 0, Vector.replicate 16 3, 0⟩))

/-- R137: with eight commands in the queue the context waits, and once one has left the issue is made again. -/
theorem test_queue_full : let w := after (.issue l0 yes 0 2 0 0) (full (issuer absWord))
    (w.ctx l0).mode = .wait ∧ (w.ctx l0).wait = .queueFull 1 (.issue l0 yes 0 2 0 0) ∧
    ((after (.engineQueueFullWait l0) (w.popHead 0 1)).ctx l0).mode = .run ∧
    ((after (.engineQueueFullWait l0) (w.popHead 0 1)).tile 0).queues[1].length = 8 := by decide

/-- R141: `twait` for exactly the counter's value goes on; one more waits, and is found satisfied when the token comes. -/
theorem test_twait : let s := fun (n : Word) => cpu { withRegs [(2, n)] with t := Ctx.reset.t.set 31 7 }
    ((after (.twait l0 yes 2 31 0) (s 7)).ctx l0).pc = 4 ∧ ((after (.twait l0 yes 2 31 0) (s 8)).ctx l0).wait = .token 31 8 ∧
    (let w := after (.twait l0 yes 2 31 0) (s 8)
     (after (.twaitSatisfied l0) w).ctx l0 = w.ctx l0 ∧
     ((after (.twaitSatisfied l0) (w.updCtx l0 (fun c => { c with t := c.t.set 31 8 }))).ctx l0).mode = .run) := by decide

def sem (n : BitVec 32) : State := cpu { withRegs [(2, 639 + 1024 * 3 + 4096 * 7), (3, 640), (4, 4095)] with sem := Ctx.reset.sem.set 7 n }

/-- R144: a signal to the last semaphore of the last tile leaves; tile 640 is cause 0x0B; `semwait` of all there is leaves 0. -/
theorem test_semaphores : (after (.semsig l0 yes 2 0 4095) (sem 0)).signals = [⟨0, 639, 3, 7, 4095⟩] ∧
    (after (.semsig l0 yes 3 0 1) (sem 0)).reg (rCflt 0 0) = 0xB000001 ∧
    ((after (.semwait l0 yes 0 7 5) (sem 5)).ctx l0).sem[7] = 0 ∧ ((after (.semwait l0 yes 0 7 6) (sem 5)).ctx l0).mode = .wait ∧
    ((after (.semtest l0 yes 1 7 4 0 0 0) (sem 4095)).ctx l0).rp 1 = true ∧ ((after (.semtest l0 yes 1 7 4 0 0 0) (sem 4094)).ctx l0).sem[7] = 4094 ∧
    (after (.semtest l0 yes 1 7 0 0 0 0) (sem 5)).reg (rCflt 0 0) = 0xC000001 := by decide

/-- R144: an arriving signal may reach 2^32 − 1, and one more saturates and faults with cause 0x09; a waiting context is woken. -/
theorem test_signals : let s := fun n => { sem n with signals := [⟨0, 0, 0, 7, 5⟩] }
    ((after (.semaphoreSignalArrival ⟨0, 0, 0, 7, 5⟩) (s 0xFFFFFFFA)).ctx l0).sem[7] = 0xFFFFFFFF ∧
    (after (.semaphoreSignalArrival ⟨0, 0, 0, 7, 5⟩) (s 0xFFFFFFFB)).reg (rCflt 0 0) = 0x9000001 ∧
    (let w := after (.semwait l0 yes 0 7 5) (sem 4)
     (after (.semwaitSatisfied l0) w).ctx l0 = w.ctx l0 ∧
     ((after (.semwaitSatisfied l0) (w.updCtx l0 (fun c => { c with sem := c.sem.set 7 5 }))).ctx l0).sem[7] = 0) := by decide

/-- R146, R148: level 5, the progress counter, and HALTED. -/
theorem test_levels : ((after (.wakeAhead l0 yes 0 5 0) ab).ctx l0).level = 5 ∧ ((after (.progMark l0 yes 0 0 0) ab).ctx l0).prog[0] = 1 ∧
    ((after (.halt l0 yes 0 0 0) { ab with vpins := [(0, 0, 3, 1), (0, 1, 3, 1)] }).ctx l0).mode = .halted ∧
    (after (.halt l0 yes 0 0 0) { ab with vpins := [(0, 0, 3, 1), (0, 1, 3, 1)] }).vpins = [(0, 1, 3, 1)] := by decide

/-! ### The step of a context -/

/-- A program section of tile 0, with a step set. -/
def section0 (set : List Nat) : TileSection := ⟨0, [(0, 0)], set, [], [], [], [], []⟩

/-- A job image with these sections and descriptors. -/
def image (ss : List TileSection) (tables tiers buffers : List (List Nat)) : JobImage :=
  ⟨0, 0, true, false, ss, [], tables, tiers, buffers, [], [], [], [], none, false, [], []⟩

/-- Device 0 alone in its running job. -/
def job (i : JobImage) : Job := { Job.reset with st := .running, img := some i, members := [⟨0, none, 0⟩] }

/-- Context 0 of tile 0 at a place of its step, the tile with a decision. -/
def stepping (p : StepPos) (d : Option Decision) : State :=
  { on { Tile.reset.setCtx 0 { withRegs [(9, 0x77)] with mode := .run, step := p, pc := 0x40 } with decision := d } with
    job := job (image [section0 [0]] [] [] []) }

/-- R149, R265: `arrive` leaves an arrival record with the PC of the next instruction; out of its place it is cause 0x0A. -/
theorem test_arrive : l0.ctx.val ∈ (stepping .start none).stepSet 0 ∧
    ((after (.stepCommitArrive l0 yes) (stepping .start none)).ctx l0).step = .arrived ∧
    ((after (.stepCommitArrive l0 yes) (stepping .start none)).step.arrivals.map (·.pc)) = [0x44] ∧
    (after (.stepCommitArrive l0 yes) (stepping .arrived none)).reg (rCflt 0 0) = 0x40000A000001 := by decide

/-- R149: `wait` with COMMIT sets pd, with DISCARD clears it, and with no decision waits. -/
theorem test_wait : ((after (.stepCommitWait l0 yes 1) (stepping .arrived (some .commit))).ctx l0).rp 1 = true ∧
    ((after (.stepCommitWait l0 yes 1) (stepping .arrived (some .discard))).ctx l0).step = .decidedDiscard ∧
    ((after (.stepCommitWait l0 yes 1) (stepping .arrived none)).ctx l0).wait = .decision 1 ∧
    (after (.stepCommitWait l0 yes 1) (stepping .start none)).reg (rCflt 0 0) = 0x40000A000001 := by decide

/-- R150: `done` writes the save record at the last kilobyte of tile SRAM, with the PC of the next instruction. -/
theorem test_done : (after (.stepCommitDone l0 yes) ((stepping .decidedCommit none).setReg (rCsave 0 0) 6143)).peek (1024 * 6143 + 640) 8 = 0x44 ∧
    (after (.stepCommitDone l0 yes) (stepping .start none)).reg (rCflt 0 0) = 0x40000A000001 := by decide

/-- R150: `rewind` takes the registers and the PC from the record. -/
theorem test_rewind : let t := after (.stepCommitRewind l0 yes) (((stepping .decidedDiscard none).poke 80 [0x55]).poke 640 [0x48])
    (t.ctx l0).rg 9 = 0 ∧ (t.ctx l0).rg 10 = 0x55 ∧ (t.ctx l0).pc = 0x48 ∧ (t.ctx l0).step = .start := by decide

/-- The record that `rewind` reads from empty memory. -/
theorem witness_rewind : (stepping .decidedDiscard none).bytes 0 1024 = (⟨l0, Vector.replicate 32 0, Vector.replicate 16 0,
    Vector.replicate 16 0, Vector.replicate 32 0, 0, 0⟩ : SavedCtx).bytes := by decide

/-! ### Core registers -/

def regs : State := ((cpu (withRegs [(2, 0x5)])).setReg (rAflag 0 3) 0x1F).setReg (rCntQfull 0) 9

/-- R5, R133: a W1C register, an RC counter with what its cycle adds, an RW register, a reserved code, and an index of no register. -/
theorem test_core_registers : (after (.wrr l0 yes 2 0 11) regs).reg (rAflag 0 3) = 0x1A ∧
    ((after (.rdr l0 yes 1 0 30 2) regs).ctx l0).rg 1 = 9 ∧ (after (.rdr l0 yes 1 0 30 2) regs).reg (rCntQfull 0) = 2 ∧
    (after (.wrr l0 yes 2 0 24) regs).reg (rCsave 0 0) = 5 ∧
    (after (.wrr l0 yes 2 0 24) (regs.updCtx l0 (fun c => c.wg 2 6144))).reg (rCsave 0 0) = 0 ∧
    (after (.wrr l0 yes 2 0 1) regs).reg (rCflt 0 0) = 0x4000001 := by decide

theorem witness_core_registers : (tileRegInfo 0 88).map (·.w1c) = some 0x1F ∧ (tileRegInfo 0 240).map (·.rc) = some (2 ^ 64 - 1) ∧
    (tileRegInfo 0 192).map (·.rw) = some 0x1FFF ∧ tileRegInfo 0 96 ≠ none ∧ (tileRegInfo 0 0).map (·.rw) = some 0 ∧ tileRegInfo 0 8 = none ∧
    regs.tileReserved 0 0 192 (2 ^ 64 - 1) 6143 = false ∧ regs.tileReserved 0 0 192 (2 ^ 64 - 1) 6144 = true ∧ LogRoom regs :=
  ⟨by decide, by decide, by decide, by decide, by decide, by decide, by decide, by decide, logRoom_of (by decide)⟩

/-! ### Issue turns -/

/-- `addi g1, g0, 5` at the top of the instruction space. -/
def turn (pc : BitVec 24) (w : List Byte) : State := (cpu { Ctx.reset with pc := pc }).poke pc.toNat w

/-- R20, R128, R131: the instruction at the PC runs; an unlisted opcode is cause 0x01, and a fetch at 6 MiB cause 0x03. -/
theorem test_instruction_issue : ((after (.instructionIssue 0) (turn 0x5FFFFC [5, 0, 2, 4])).ctx l0).rg 1 = 5 ∧
    (after (.instructionIssue 0) (turn 0x5FFFFC [0, 0, 0, 0x18])).reg (rCflt 0 0) = 0x5FFFFC0001000001 ∧
    (after (.instructionIssue 0) (turn 0x600000 [])).reg (rCflt 0 0) = 0x6000000003000001 ∧
    goes (.instructionIssue 1) (turn 0 []) = true := by decide

theorem witness_instruction_issue : let s := turn 0x5FFFFC [5, 0, 2, 4]
    ((s.ctx l0).mode = .run ∧ 6 ∉ (s.tile 0).engStop ∧ s.clockRuns 0 = true) ∧ (s.ctx l0).clist = none ∧ s.inStorage 0 0x5FFFFC 4 = false ∧
    decodeInsn l0 (BitVec.ofNat 32 (leVal (s.bytes 0x5FFFFC 4))) = some (.addi l0 yes 1 0 5) ∧
    (∀ k : CtxId, k ≠ 0 → (s.ctx ⟨0, k⟩).mode ≠ .run) := by decide

/-! ### Engine commands -/

/-- A command of context 0 as it stands in a queue. -/
def cmd (w : Nat) : EngCmd := ⟨BitVec.ofNat 128 w, 0, 0x40, 1, Vector.replicate 4 0, Vector.replicate 16 0, Vector.replicate 16 3, 0⟩

/-- The command alone in its engine's queue. -/
def queued (e : Fin 6) (w : Nat) : State := on (Tile.reset.setQueue e [cmd w])

/-- A vector command on FP32: block 4 ← op (blocks 0, 1, 2), one element. -/
def vec (op : Nat) : Nat := 4 * 2 ^ 111 + 0 * 2 ^ 94 + 1 * 2 ^ 77 + 2 * 2 ^ 60 + 1 * 2 ^ 43 + 1 * 2 ^ 39 + 2 ^ 28 + op * 2 ^ 20

/-- With 4, 2 and 1 as operands. -/
def vecState (op : Nat) : State := (((queued 1 (vec op)).poke 0 (leBytes 4 0x40800000)).poke 64 (leBytes 4 0x40000000)).poke 128 (leBytes 4 0x3F800000)

/-- R106: the operations on 4, 2 and 1 with exact results. -/
theorem test_vector : ([(.add 0, 1), (.sub 0, 2), (.mul 0, 3), (.fma 0, 4), (.div 0, 5), (.sqrt 0, 6), (.min 0, 7), (.max 0, 8), (.abs 0, 9), (.neg 0, 10),
      (.vectorCmp 0, 11), (.sel 0, 12), (.cvt 0, 13), (.rsqrt 0, 19)].map (fun p : Instr × Nat => leVal ((after p.1 (vecState p.2)).bytes 256 4))) =
    [0x40C00000, 0x40000000, 0x41000000, 0x41100000, 0x40000000, 0x40000000, 0x40000000, 0x40800000, 0x40800000, 0xC0800000,
      0, 0x40800000, 0x40800000, 0x3F000000] := by decide

/-- R110, R111: exp 0 = 1, log 1 = 0, tanh 0 = 0, and log 0 is −∞ with DZ. -/
theorem test_transcendental : let s := fun (op x : Nat) => (queued 1 (vec op)).poke 0 (leBytes 4 x)
    leVal ((after (.exp 0) (s 16 0)).bytes 256 4) = 0x3F800000 ∧ leVal ((after (.log 0) (s 17 0x3F800000)).bytes 256 4) = 0 ∧
    leVal ((after (.tanh 0) (s 18 0)).bytes 256 4) = 0 ∧ leVal ((after (.log 0) (s 17 0)).bytes 256 4) = 0xFF800000 := by decide

/-- The hypotheses of `VectorCommands` for each operation. -/
theorem witness_vector : NoUpsets (vecState 1) ∧ ∀ op ∈ [1, 2, 3, 4, 5, 6, 7, 8, 9, 10, 11, 12, 13, 16, 17, 18, 19],
    (vecState op).gate 0 1 (cmd (vec op)) = .run ∧ cmdOp (cmd (vec op)).word = op ∧
    (vecState op).vecReject 0 (cmd (vec op)) (VecCmd.ofWord (cmd (vec op)).word) = none := ⟨⟨rfl, rfl⟩, by decide⟩

/-- R122, R154: OP 13 with the reserved format 10 is cause 0x05 with row 1. -/
theorem test_vector_rejected : (after (.cvt 0) (queued 1 (vec 13 + 9 * 2 ^ 43))).reg (rCflt 0 0) = 0x4000050110D1 := by decide

/-- R138, R142, R143: a commit-gated command waits for a decision, leaves under a discard with its token incremented, and a fenced one
waits for an earlier command of its context. -/
theorem test_gates : let gated := (queued 1 (vec 9 + 2 ^ 10 + 3 * 2 ^ 13))
    (gated.enginesRun = true ∧ gated.step.stopped = false ∧ 1 ∉ (gated.tile 0).engStop ∧ (gated.tile 0).search = none) ∧
    ((after (.abs 0) gated).tile 0).queues[1].length = 1 ∧
    (let u := after (.abs 0) (gated.updTile 0 (fun x => { x with decision := some .discard }))
     (u.tile 0).queues[1] = [] ∧ (u.ctx l0).t[3] = 1 ∧ (u.tile 0).active[1] = []) ∧
    ((after (.abs 0) ((queued 1 (vec 9 + 2 ^ 11)).updTile 0 (fun x => x.setQueue 3 [{ cmd (3 * 2 ^ 28 + 2 ^ 20) with serial := 0 }]))).tile 0).queues[1].length = 1 := by
  decide

/-- A row command: block 4 ← op (block 0, block 1), two FP32 elements, slot 8191. -/
def row (op : Nat) : Nat := 0 * 2 ^ 111 + 1 * 2 ^ 94 + 4 * 2 ^ 77 + 1 * 2 ^ 57 + 8191 * 2 ^ 44 + 2 ^ 40 + 2 ^ 36 + 2 * 2 ^ 28 + op * 2 ^ 20

/-- R117: [1, 3] normalises to [−1, 1] with its statistics in the slot, and [0, 0] has the soft maximum [½, ½]. -/
theorem test_rows : let n := after (.normFwd 0) ((queued 2 (row 1)).poke 0 (leBytes 8 0x404000003F800000))
    n.peek 256 8 = 0x3F800000BF800000 ∧ (n.tile 0).sideValid = [8191] ∧
    (after (.smaxFwd 0) (queued 2 (row 3))).peek 256 8 = 0x3F0000003F000000 := by decide

/-- R121, R122: a backward operation without statistics is cause 0x05 with row 6; with them it runs; SLOT_CLR clears the flag. -/
theorem test_rows_back : (after (.normBwd 0) (queued 2 (row 2))).reg (rCflt 0 0) = 0x400005062021 ∧
    (let s := fun op => (queued 2 (row op)).updTile 0 (fun x => { x with sideValid := [8191] })
     ((s 2).gate 0 2 (cmd (row 2)) = .run ∧ (s 2).rowReject 0 (cmd (row 2)) (RowCmd.ofWord (cmd (row 2)).word) = none) ∧
     ((after (.normBwd 0) (s 2)).tile 0).active[2].length = 1 ∧ ((after (.smaxBwd 0) (s 4)).tile 0).active[2].length = 1 ∧
     ((after (.slotClr 0) (s 5)).tile 0).sideValid = []) := by decide

/-- A dense FP32 product of one row of A at block 0 and one row of B at block 1, K = 3, into block 2; its descriptor lies at block 8. -/
def quad (m : Nat) : State :=
  (((queued 0 (8 * 2 ^ 47 + 2 ^ 20)).poke 512 (leBytes 8 (2 ^ 58 + 2 ^ 54 + 2 ^ 50) ++ leBytes 8 (m * 2 ^ 55 + 3 * 2 ^ 31 + 2 ^ 15) ++
    leBytes 8 0 ++ leBytes 8 (2 ^ 47) ++ leBytes 8 (2 * 2 ^ 47))).poke 0 (leBytes 4 0x3F800000 ++ leBytes 4 0x33800000 ++ leBytes 4 0x33800000)).poke 64
    (leBytes 4 0x3F800000 ++ leBytes 4 0x3F800000 ++ leBytes 4 0x3F800000)

/-- The manual's example of the step rule: (1 + 2^−24) + 2^−24 is 0x3F80_0001 in FP32. A descriptor with M 0 is cause 0x05 with row 4. -/
theorem test_product : (after (.product 0 0 0 0) (quad 1)).peek 128 4 = 0x3F800001 ∧
    (after (.product 0 0 0 0) (quad 0)).reg (rCflt 0 0) = 0x400005040011 := by decide

theorem witness_product : NoUpsets (quad 1) ∧ (quad 1).gate 0 0 (cmd (8 * 2 ^ 47 + 2 ^ 20)) = .run ∧ (quad 1).sramOk 0 512 64 = true ∧
    (let d := QuadDesc.ofWords ((chunks 8 8 ((quad 1).bytes 512 64)).map leVal) 0
     (quad 1).quadReject 0 false 0 512 d = none ∧ d.mode = 0 ∧ d.maskm = 0 ∧ d.accSrc = 0 ∧ d.dst = false ∧ d.fo = 1 ∧ d.rnd < 5 ∧ d.m = 1 ∧
       elemBytes d.fa d.k = 12) := ⟨⟨rfl, rfl⟩, by decide⟩

/-- A DMA command with its descriptor at block 8: one row of four bytes from `a` to `b`. -/
def dma (op a b w2 pat : Nat) : State :=
  (((queued 3 (8 * 2 ^ 111 + 3 * 2 ^ 28 + op * 2 ^ 20)).poke 512 (leBytes 8 a ++ leBytes 8 b ++ leBytes 8 (4 * 2 ^ 40 + 2 ^ 20 + 2 ^ 8 + w2))).poke 568
    (leBytes 8 pat)).poke 0 [1, 2, 3, 4]

/-- R176, R177: COPY to T1 and within the tile, FILL by its pattern, TRANSPOSE of one row of two 2-byte elements, and one whose destination
rows overlap. -/
theorem test_dma : (after (.copy 0) (dma 1 0 0x40000000000 0 0)).bytes 0x40000000000 4 = [1, 2, 3, 4] ∧
    (after (.copy 0) (dma 1 0 0x1000 0 0)).bytes 0x1000 5 = [1, 2, 3, 4, 0] ∧
    (after (.fill 0) (dma 3 0 0x1000 0 0x88776655443322AA)).bytes 0x1000 5 = [0xAA, 0x22, 0x33, 0x44, 0] ∧
    (after (.transpose 0) ((dma 2 0 0x1000 0x20 0).poke 544 (leBytes 8 (16 * 2 ^ 24)))).bytes 0x1000 18 = [1, 2, 0, 0, 0, 0, 0, 0, 0, 0, 0, 0, 0, 0, 0, 0, 3, 4] ∧
    (after (.transpose 0) (dma 2 0 0x1000 0x20 0)).reg (rCflt 0 0) = 0x400005053021 := by decide

theorem witness_dma : NoUpsets (dma 1 0 0x1000 0 0) ∧ (let s := dma 1 0 0x1000 0 0
    let d := DmaDesc.ofWords ((chunks 8 8 (s.bytes 512 64)).map leVal)
    s.gate 0 3 (cmd (8 * 2 ^ 111 + 3 * 2 ^ 28 + 2 ^ 20)) = .run ∧ s.sramOk 0 512 64 = true ∧
    s.dmaReject 0 (cmd (8 * 2 ^ 111 + 3 * 2 ^ 28 + 2 ^ 20)) d = none ∧ s.mgmt.base = false ∧ s.replaying l0 = false ∧ d.outside 0 1 = false ∧
    touchesAcc 0x1000 4 = false ∧ d.rows = 1 ∧ d.planes = 1 ∧ d.len = 4 ∧
    s.dmaReject 0 (cmd (8 * 2 ^ 111 + 3 * 2 ^ 28 + 2 ^ 20)) { d with len := 0 } = some (5, 2)) := ⟨⟨rfl, rfl⟩, by decide⟩

/-- A COPY from T2 that has been accepted, with the host link up. -/
def fromHost : State :=
  after (.copy 0) ({ dma 1 0x8000000000000000 0x1000 0 0 with host := { HostPort.reset with trained := true } }.poke 0x8000000000000000 [9, 8, 7, 6])

/-- R318, R324, R373: the request is out; a completion moves the row; a failed one, and a timeout, stop the command. -/
theorem test_t2 : fromHost.host.waiting = [⟨0, some 0, 1, 0, 0, 0x8000000000000000, 4, 0, false, false⟩] ∧ fromHost.bytes 0x1000 4 = [0, 0, 0, 0] ∧
    (after (.t2Completion 0 0) fromHost).bytes 0x1000 4 = [9, 8, 7, 6] ∧
    ((after (.t2Completion 0 0) fromHost).tile 0).active[3].map (·.done) = [true] ∧
    ((after (.t2Completion 0 2) fromHost).tile 0).active[3].map (·.stopped) = [true] ∧
    ((after (.t2CompletionTimeout 0) fromHost).tile 0).active[3].map (·.stopped) = [true] := by decide

theorem witness_t2 : fromHost.hostUp = true ∧ LogRoom fromHost ∧ fromHost.emb.moves = [] ∧
    (fromHost.dmaOf ⟨0, some 0, 1, 0, 0, 0x8000000000000000, 4, 0, false, false⟩).isSome = true ∧ fromHost.inputRange 0x8000000000000000 4 = false :=
  ⟨by decide, logRoom_of (by decide), rfl, by decide, by decide⟩

/-- A COPY of a block from T3 that waits for NVMe command 5. -/
def fromDisk : State :=
  let a : Active := ⟨cmd (3 * 2 ^ 28 + 2 ^ 20), [t3Base, 0x1000, 4 * 2 ^ 40 + 2 ^ 20 + 2 ^ 8, 0, 0, 0, 0, 0], [], [], [5], 0, 0, none, false, false, 0, []⟩
  ({ on (Tile.reset.setAct 3 [a]) with host := { HostPort.reset with trained := true }, qm := { QmState.reset with nvme := [⟨5, some 0, 1, 0, 0, t3Base, 4, 0, false, false⟩] } }).poke t3Base [9, 8, 7, 6]

/-- R239, R241, R339: success moves the row, an error and a timeout stop the command. -/
theorem test_nvme : (after (.nvmeCompletionEntry 5 true) fromDisk).bytes 0x1000 4 = [9, 8, 7, 6] ∧
    ((after (.nvmeCompletionEntry 5 false) fromDisk).tile 0).active[3].map (·.stopped) = [true] ∧
    ((after (.nvmeTimeout 5) fromDisk).tile 0).active[3].map (·.stopped) = [true] := by decide +kernel

theorem witness_nvme : fromDisk.hostUp = true ∧ LogRoom fromDisk ∧ NoUpsets fromDisk ∧ t1Base ≤ (fromDisk.dtab).1 ∧ tierOf t3Base = .t3 ∧
    fromDisk.inputRange t3Base 4 = false ∧ fromDisk.nvmeSq 0 = none ∧ (fromDisk.dmaOf ⟨5, some 0, 1, 0, 0, t3Base, 4, 0, false, false⟩).isSome = true :=
  ⟨by decide, logRoom_of (by decide), ⟨rfl, rfl⟩, by decide, by decide, by decide, by decide, by decide⟩

/-- R140, R141: a finished command leaves with its token incremented, one with NT without, and an unfinished one stays. -/
theorem test_completion : let s := fun (w : Nat) (d : Bool) => on (Tile.reset.setAct 1 [{ Active.of (cmd w) 0 with done := d }])
    (((after (.commandCompletion 0 1 ⟨0, 2048, [(0, 2)]⟩) (s (vec 9 + 31 * 2 ^ 13) true)).tile 0).active[1] = [] ∧
      ((after (.commandCompletion 0 1 ⟨0, 2048, [(0, 2)]⟩) (s (vec 9 + 31 * 2 ^ 13) true)).ctx l0).t[31] = 1) ∧
    ((after (.commandCompletion 0 1 ⟨0, 2048, [(0, 2)]⟩) (s (vec 9 + 31 * 2 ^ 13 + 2 ^ 12) true)).ctx l0).t[31] = 0 ∧
    ((after (.commandCompletion 0 1 ⟨0, 2048, [(0, 2)]⟩) (s (vec 9) false)).tile 0).active[1].length = 1 := by decide

/-! ### The embedding engine -/

/-- A table of 1,000,000 rows, D 4, of a format; stride 64; shard map and slot 0 in T1. -/
def table (fmt : Nat) : List Nat :=
  [fmt * 2 ^ 52 + 2 ^ 40, 1000000 * 2 ^ 24, 1000000 * 2 ^ 24, 0x40000001000, 0x40000100000, 0, 0, 0]

/-- A command of the embedding engine on table 0 with its descriptor at block 8, and a job that holds the table. -/
def embWord (op more : Nat) : Nat := 8 * 2 ^ 111 + 4 * 2 ^ 28 + op * 2 ^ 20 + more

def emb (op more fmt : Nat) : State :=
  { queued 4 (embWord op more) with job := { job (image [{ section0 [0] with commitInputs := [(512, 64)] }] [table fmt] [] []) with baseRun := true } }

/-- The manual's example of two bags: rows 17 and 42, FS16, MEAN. -/
def bags (op pop : Nat) : State :=
  ((((emb op 0 2).poke 0 (leBytes 4 17 ++ leBytes 4 0xFFFFFFFF ++ leBytes 4 17 ++ leBytes 4 2000000 ++ leBytes 4 42 ++ leBytes 4 0xFFFFFFFF)).poke 64
    (leBytes 4 0 ++ leBytes 4 5 ++ leBytes 4 6)).poke 512
    (leBytes 8 (2 ^ 30) ++ leBytes 8 (2 * 2 ^ 47 + 2 ^ 30 + 2 ^ 14 + pop * 2 ^ 9 + 2 * 2 ^ 5) ++ leBytes 8 (16 * 2 ^ 47 + 2 * 2 ^ 30 + 4 * 2 ^ 13))).poke
    (0x40000100000 + 64 * 17) (leBytes 16 (2 ^ 40) ++ leBytes 8 0x42C83EA0C0003FC0)
  |>.poke (0x40000100000 + 64 * 42) (leBytes 16 (2 ^ 40) ++ leBytes 8 0x3F00BEA03F803E80)

/-- Its outputs 0x3F8B, 0xBF80, 0x3DD5, 0x4286 and zeros, and its record 3, 2, 1, 0, 1. -/
theorem test_pool : (after (.pool 0) (bags 1 2)).peek 128 8 = 0x42863DD5BF803F8B ∧ (after (.pool 0) (bags 1 2)).peek 192 8 = 0 ∧
    (after (.pool 0) (bags 1 2)).bytes 256 20 = [3, 0, 0, 0, 2, 0, 0, 0, 1, 0, 0, 0, 0, 0, 0, 0, 1, 0, 0, 0] := by decide

/-- SCATTER sends a message for row 17 and one for row 42; a POOL with OFMT 0 is cause 0x05 with row 1. -/
theorem test_scatter : (after (.scatter 0) (bags 2 1)).inbox.length = 2 ∧
    (after (.pool 0) ((bags 1 2).poke 520 (leBytes 8 (2 * 2 ^ 47 + 2 ^ 30 + 2 ^ 14 + 2 * 2 ^ 9)))).reg (rCflt 0 0) = 0x400005014011 := by decide

theorem witness_pool : NoUpsets (bags 1 2) ∧ NoEventQueue (bags 1 2) ∧ (let s := bags 1 2
    let k := cmd (embWord 1 0)
    let p := PoolDesc.ofWords (leNums 8 8 (s.bytes 512 64))
    s.gate 0 4 k = .run ∧ s.cmdStep 0 k = s.stepAt 0 ∧ (s.tile 0).passed = false ∧ s.embReject 0 k 0 = none ∧ p.codesBad false = false ∧
    s.sramOk 0 512 64 = true ∧ s.sramOk 0 p.off (4 * (p.nbags + 1)) = true ∧ s.updatesLeft (TableDesc.ofWords (table 2)) 0 = false ∧
    s.poolReject 0 k (TableDesc.ofWords (table 2)) p 512 [0, 5, 6] false = none ∧ bitOf (s.hotCfg 0) 42 = false ∧
    (s.tierDesc 0).dirLog = 0 ∧ s.ownerOf (TableDesc.ofWords (table 2)) 17 = s.devId ∧
    s.embReject 0 { k with word := k.word + 5 * 2 ^ 52 + 5 * 2 ^ 51 } 0 = some (5, 1)) := ⟨⟨rfl, rfl⟩, noEventQueue_of (by decide), by decide⟩

/-- An UPDATE of row 17 (FP32, 1.0) by its gradient 0.5 with LR 0.5 and plain SGD, its step committed. -/
def upd (cmt : Nat) : State :=
  let s := (((emb 3 cmt 1).poke 512 (leBytes 8 0x3F000000)).poke (0x40000100000 + 64 * 17) (leBytes 16 (2 ^ 40) ++ leBytes 4 0x3F800000)).updTile 0
    (fun x => { x with decision := some .commit })
  { s with emb := { s.emb with grads := [⟨0, 0, 17, [0x3F000000, 0, 0, 0]⟩] } }

/-- R206, R283: 1 − 0.5 × 0.5 is 0.75, with VER 1; without CMT the command is cause 0x08. -/
theorem test_update : (after (.update 0) (upd (2 ^ 10))).peek (0x40000100000 + 64 * 17 + 16) 4 = 0x3F400000 ∧
    (after (.update 0) (upd (2 ^ 10))).peek (0x40000100000 + 64 * 17) 5 = 1 ∧ (after (.update 0) (upd (2 ^ 10))).emb.grads = [] ∧
    (after (.update 0) (upd 0)).reg (rCflt 0 0) = 0x400008004031 := by decide

theorem witness_update : NoUpsets (upd (2 ^ 10)) ∧ NoEventQueue (upd (2 ^ 10)) ∧ (let s := upd (2 ^ 10)
    let k := cmd (embWord 3 (2 ^ 10))
    s.gate 0 4 k = .run ∧ s.embReject 0 k 0 = none ∧ s.sramOk 0 512 64 = true ∧
    s.updateBad 0 (TableDesc.ofWords (table 1)) 0 512 (Coef.ofWords (leNums 8 8 (s.bytes 512 64))) = false ∧
    s.updateBad 0 (TableDesc.ofWords (table 1)) 0 512 (Coef.ofWords [0, 0, 0, 1]) = true) := ⟨⟨rfl, rfl⟩, noEventQueue_of (by decide), by decide⟩

/-- R212, R216: a pin of the CURRENT slot, its release, and a release of no pin, cause 0x05 with row 3. -/
theorem test_pins : let s := fun (op : Nat) => { queued 4 (4 * 2 ^ 28 + op * 2 ^ 20) with job := job (image [section0 [0]] [table 1] [] []) }
    (after (.vpin 0) (s 4)).vpins = [(0, 0, 0, 0)] ∧ (after (.vunpin 0) { s 5 with vpins := [(0, 0, 0, 0)] }).vpins = [] ∧
    (after (.vunpin 0) (s 5)).reg (rCflt 0 0) = 0x400005034051 ∧ (s 4).replaying l0 = false := by decide

/-! ### Queues -/

/-- Where the descriptor of queue q lies after reset. -/
def at0 (q : Nat) : Nat := (State.reset.dtab).1 + 64 * q

/-- A queue of a class with 16 entries at a T1 ring, with a peer (this device, queue 4), HEAD and TAIL. -/
def withQueue (s : State) (q cls rsend head tail seq : Nat) : State :=
  s.poke (at0 q) (leBytes 8 (2 ^ 63 + cls * 2 ^ 60 + 4 * 2 ^ 55 + rsend * 2 ^ 12) ++ leBytes 8 0x40000002000 ++ leBytes 8 (head * 2 ^ 32 + tail) ++
    leBytes 8 (4 * 2 ^ 32 + seq))

/-- A queue message command: queue 3, one entry at block 2. -/
def qm (op : Nat) : Nat := 2 * 2 ^ 111 + 3 * 2 ^ 91 + 5 * 2 ^ 28 + op * 2 ^ 20

/-- R331, R332: SEND into the last free place, RECV of an entry, RECV of none waits, PEEK counts modulo 2^32. -/
theorem test_queue_engine :
    (let u := after (.send 0) (withQueue ((queued 5 (qm 1)).poke 128 [0xAB]) 3 2 0 0xFFFFFFF1 0 0xFFFFFFF1)
     u.peek (at0 3 + 16) 8 = 0xFFFFFFF100000001 ∧ u.peek 0x40000002000 1 = 0xAB) ∧
    (let u := after (.recv 0) (withQueue ((queued 5 (qm 2)).poke 0x40000002000 [0xCD]) 3 1 0 0 1 0)
     u.peek (at0 3 + 16) 8 = 0x100000001 ∧ u.peek 128 1 = 0xCD) ∧
    ((after (.recv 0) (withQueue (queued 5 (qm 2)) 3 1 0 1 1 0)).tile 0).active[5].map (·.done) = [false] ∧
    (after (.peek 0) (withQueue (queued 5 (qm 3)) 3 2 0 0xFFFFFFFF 2 0)).peek 128 8 = 3 ∧
    (after (.recv 0) (queued 5 (qm 2))).reg (rCflt 0 0) = 0x400005015021 := by decide +kernel

theorem witness_queue_engine : let s := withQueue (queued 5 (qm 1)) 3 2 0 0xFFFFFFF1 0 0xFFFFFFF1
    NoUpsets s ∧ NoEventQueue s ∧ s.gate 0 5 (cmd (qm 1)) = .run ∧ s.qmReject 0 (cmd (qm 1)) = none ∧
    (let d := s.desc 3
     d.flagen = false ∧ t0End ≤ d.ring ∧ d.ring + 64 * 16 ≤ s.descAt 3 ∧ d.used ≤ 16 ∧ 1 ≤ d.room ∧ s.descAt 3 = at0 3) :=
  ⟨⟨rfl, rfl⟩, noEventQueue_of (by decide), by decide, by decide, by decide⟩

/-- A message of device 0 to itself, of step 0. -/
def msg (b : MsgBody) : Msg := ⟨0, 0, false, 0, 0, 0, 0, 0, true, b⟩

/-- The running hub with one message in its inbox. -/
def got (s : State) (b : MsgBody) : State := { s with inbox := [msg b] }

/-- R333: an entry goes out and is kept; after a QACK timeout nothing is under way; an arriving one is placed and answered. -/
theorem test_queue_messages : let o := withQueue (on Tile.reset) 3 2 0 0 1 0
    (after (.tileoutForward 3) o).inbox.length = 1 ∧ (after (.tileoutForward 3) o).inFlight 3 = 1 ∧
    (after (.qmsgResendTimeout 3) (after (.tileoutForward 3) o)).inFlight 3 = 0 ∧
    (let b := MsgBody.qmsg 4 0xFFFFFFFF (List.replicate 64 7)
     let u := after (.qmsg (msg b)) (got (withQueue (on Tile.reset) 4 1 1 0xFFFFFFFF 0xFFFFFFFF 0xFFFFFFFF) b)
     u.peek (at0 4 + 16) 4 = 0 ∧ u.peek (at0 4 + 24) 4 = 0 ∧ u.inbox.map (·.body) = [.qack 4 0 0]) := by decide

/-- R333: a duplicate, a full queue and a queue that takes none; and the three answers. -/
theorem test_queue_answers : let b := fun i => MsgBody.qmsg 4 i (List.replicate 64 7)
    ((after (.qmsg (msg (b 0))) (got (withQueue (on Tile.reset) 4 1 1 0 1 1) (b 0))).inbox.map (·.body) = [.qack 4 1 0] ∧
      (after (.qmsg (msg (b 16))) (got (withQueue (on Tile.reset) 4 1 1 0 16 16) (b 16))).inbox.map (·.body) = [.qack 4 16 1] ∧
      (after (.qmsg (msg (b 0))) (got (on Tile.reset) (b 0))).inbox.map (·.body) = [.qack 4 0 2]) ∧
    (let s := fun k => got ({ withQueue (on Tile.reset) 3 2 0 0 1 0 with qm := { QmState.reset with sent := [(3, 1)] } }) (.qack 4 (if k = 0 then 1 else 0) k)
     let u := fun k => after (.qack (msg (.qack 4 (if k = 0 then 1 else 0) k))) (s k)
     (u 0).peek (at0 3 + 20) 8 = 0x100000001 ∧ (u 0).inFlight 3 = 0 ∧ (u 1).inFlight 3 = 0 ∧ (u 2).qm.stopped = [3]) := by decide

theorem witness_queue_messages : let s := got (withQueue (withQueue (on Tile.reset) 3 2 0 0 1 0) 4 1 1 0 0 0) (.qmsg 4 0 (List.replicate 64 7))
    NoUpsets s ∧ NoEventQueue s ∧ LogRoom s ∧ s.outQueue 0 4 = some 3 ∧ Reachable s 0 :=
  ⟨⟨rfl, rfl⟩, noEventQueue_of (by decide), logRoom_of (by decide), by decide, Or.inl (by decide)⟩

/-! ### Order-free sums -/

/-- The running job with a table, a mirror set of table 0 and a buffer of two elements, in tile 0's coalescer and pin table of full size. -/
def summing (buf : List Nat) : State :=
  (({ on Tile.reset with job := job (image [section0 [0]] [table 1] [[0, 0, 0, 0, 0, 0, 0, 2 ^ 53 + 2 ^ 20]] [buf]) }).setReg (tileReg 0 6 0) (2 ^ 40)).setReg
    (tileReg 0 6 0x018) (2 ^ 32)

/-- A wide sum buffer of two elements at block 4, its results at block 16. -/
def wide : List Nat := [2 ^ 61, 2 * 2 ^ 44 + 4 * 2 ^ 27 + 16 * 2 ^ 10, 0x1FFFF * 2 ^ 47]

/-- R201, R202, R251: row updates of one row add, one of a later step waits, one of an earlier step is dropped and counted. -/
theorem test_row_update : let b := MsgBody.rowUpdate 0 17 1 false [5, -1, 0, 0]
    let s := got (summing wide) b
    let u := after (.rowUpdate (msg b)) s
    u.emb.accs.map (·.sums) = [[5, -1, 0, 0]] ∧ u.inbox = [] ∧
    (after (.rowUpdate (msg b)) { u with inbox := [msg b] }).emb.accs.map (·.sums) = [[10, -2, 0, 0]] ∧
    (after (.rowUpdate { msg b with step := 1 }) { s with inbox := [{ msg b with step := 1 }] }).inbox.length = 1 ∧
    (after (.rowUpdate (msg b)) { s with step := { StepState.reset with no := 1 } }).reg (tileReg 0 3 0x058) = 1 := by decide

theorem witness_row_update : let b := MsgBody.rowUpdate 0 17 1 false [5, -1, 0, 0]
    let s := got (summing wide) b
    s.table 0 = some (TableDesc.ofWords (table 1)) ∧ Current (some ((TableDesc.ofWords (table 1)).home 17)) (msg b) s ∧ s.emb.accs = [] ∧
    s.accUsed 0 false + s.accBytes 0 ≤ s.coalSize 0 ∧ s.later none { msg b with step := 1 } = true ∧ LogRoom s :=
  ⟨by decide, ⟨by decide, by decide, by decide, by decide, rfl⟩, rfl, by decide, by decide, logRoom_of (by decide)⟩

/-- R202: one tally of a member counts and a second is a STEP 0x05 entry; with every tally in, the row's gradient is its sum. -/
theorem test_tally : let b := MsgBody.tally 0 1
    let s := got { summing wide with emb := { EmbState.reset with accs := [⟨0, 0, 17, [0, 0, 0, 0], 1, false, 0, false⟩], got := [(0, 1)] } } b
    let u := after (.tally (msg b)) s
    u.emb.tallies = [(0, 0, 1)] ∧ (after (.tally (msg b)) { u with inbox := [msg b] }).log.next = 1 ∧
    (s.tallied 0 = false ∧ u.tallied 0 = true ∧ 0 ∈ u.ownTables ∧ u.learning u.curStep = true) ∧
    (after (.coalescerReductionComplete 0) u).emb.grads = [⟨0, 0, 17, [0, 0, 0, 0]⟩] ∧ (after (.coalescerReductionComplete 0) u).emb.reduced = [0] := by decide

/-- R254, R255: a shard message adds into the owner's storage, its elements twice are an error, and a result goes into OUT. -/
theorem test_reduction : let b := MsgBody.redShard 0 0 [5, -1]
    let u := after (.redShard (msg b)) (got (summing wide) b)
    (u.peek 256 16 = 5 ∧ u.peek 272 16 = 2 ^ 128 - 1 ∧ (u.buf 0).covered = [(0, 0, 2)]) ∧
    (after (.redShard (msg b)) { u with inbox := [msg b] }).log.next = 1 ∧
    (let r := MsgBody.redResult 0 0 [7, 8]
     (after (.redResult (msg r)) (got (summing wide) r)).peek 1024 8 = 0x800000007 ∧
     (after (.redResult (msg (.redResult 0 1 [7, 8]))) (got (summing wide) (.redResult 0 1 [7, 8]))).log.next = 1) ∧
    (let v := MsgBody.treeValue 0 0 1 [9]
     ((after (.treeValue (msg v)) (got (summing (2 ^ 63 :: wide.tail)) v)).buf 0).tree = [(1, 0, [9])] ∧
     (after (.treeValue (msg (.treeValue 0 2 1 [9]))) (got (summing (2 ^ 63 :: wide.tail)) (.treeValue 0 2 1 [9]))).log.next = 1) := by decide

theorem witness_reduction : let s := got (summing wide) (.redShard 0 0 [5, -1])
    (s.bufDesc 0).map (fun b => (b.mode, b.kind, b.nelem, s.ownShard b)) = some (0, 1, 2, (0, 2)) ∧ Current (some 0) (msg (.redShard 0 0 [5, -1])) s ∧
    NoUpsets s ∧ NoEventQueue s ∧ (s.buf 0).closed = false ∧ (s.buf 0).shardDone = false :=
  ⟨by decide, ⟨by decide, by decide, by decide, by decide, rfl⟩, ⟨rfl, rfl⟩, noEventQueue_of (by decide), by decide, by decide⟩

/-- R258, R259: the one member's norm partial makes the job record; a second one spoils it. -/
theorem test_norm : let b := MsgBody.normPartial 9 1 2
    let u := after (.normPartial (msg b)) (got (summing wide) b)
    u.step.jobRec = some ⟨9, 1, 2, 0⟩ ∧ (after (.normPartial (msg b)) { u with inbox := [msg b] }).step.spoilt = true := by decide

/-- R228, R233, R234: a request takes a pin, one of a passed step none; an image lands with its tag, one of a passed step does not. -/
theorem test_pin_requests : let b := MsgBody.pinReq 0 0 17
    (after (.pinReq (msg b)) (got (summing wide) b)).emb.pins.length = 1 ∧
    (after (.pinReq (msg b)) { got (summing wide) b with step := { StepState.reset with no := 1 } }).emb.pins = [] ∧
    (let i := MsgBody.rowImage 0 0 17 [1, 2, 3]
     (after (.rowImage (msg i)) (got (summing wide) i)).emb.mirror.map (·.step) = [0] ∧
     (after (.rowImage (msg i)) { got (summing wide) i with step := { StepState.reset with no := 1 } }).emb.mirror = []) := by decide

theorem witness_pin_requests : let s := got (summing wide) (.pinReq 0 0 17)
    NoUpsets s ∧ NoEventQueue s ∧ s.emb.waiting = [] ∧ s.stepAt 0 = 0 ∧ (TableDesc.ofWords (table 1)).hash = false ∧ (s.tierDesc 0).dirLog = 0 ∧
    tierOf (0x40000100000 + 17 * 64) = .t1 ∧ s.currentAt 0 0 = 0 ∧ s.moving 0 0 17 = false ∧ s.findPin 0 0 17 0 = none ∧
    (s.pinsOf 0).length < s.pinRoom 0 ∧ 0 < (s.tierDesc 0).mirSets ∧ s.mirrorRow 0 0 17 0 = none :=
  ⟨⟨rfl, rfl⟩, noEventQueue_of (by decide), by decide, by decide, by decide, by decide, by decide, by decide, by decide, by decide, by decide,
    by decide, by decide⟩

/-- R235, R236: a plan asks once for a row that two positions name; the fifth plan of a tile is only counted. -/
theorem test_plan : let s := ((((summing wide).poke 0 (leBytes 4 17 ++ leBytes 4 17)).poke 64 (leBytes 4 0 ++ leBytes 4 2)).poke 512
      (leBytes 8 (2 ^ 30))).poke (0x40000100000 + 64 * 17) (leBytes 16 (2 ^ 40))
    ((after (.embPlan 0 (8 * 2 ^ 47)) s).emb.plans.map (·.rows) = [[17]]) ∧
    (after (.embPlan 0 (8 * 2 ^ 47)) { s with emb := { s.emb with plans := List.replicate 4 ⟨0, 0, 0, 9, [1]⟩, waiting := [⟨0, 0, 0, 1, 9, 0, some 0, true, false, false⟩] } }).reg (embCnt 0 0x0A8) = 1 := by decide

/-! ### The step protocol -/

/-- Tile 0's one step-set context arrived, its tile's decision and its device's as given. -/
def voting (x : Tile) (st : StepState) : State :=
  { on (x.setCtx 0 { Ctx.reset with mode := .wait, wait := .decision 1, step := .arrived }) with job := job (image [section0 [0]] [] [] []), step := st }

/-- R149, R265: the tile arrives; the device is ready, sets its commit set aside, and reports to the leader, itself, which decides. -/
theorem test_ready : let s := voting Tile.reset { StepState.reset with jobRec := some ⟨0, 0, 0, 0⟩ }
    let t := { after (.tileArrival 0) s with book := { RouteBook.reset with asked := true } }
    let u := after .deviceReady t
    ((after (.tileArrival 0) s).tile 0).arrived = true ∧ u.step.reported = true ∧ (u.step.commit.map (·.step)) = some 0 ∧
    u.step.decision = some (.commit, 0, 0) := by decide

theorem witness_ready : let t := { after (.tileArrival 0) (voting Tile.reset { StepState.reset with jobRec := some ⟨0, 0, 0, 0⟩ }) with
      book := { RouteBook.reset with asked := true } }
    NoUpsets t ∧ t.stepCtxs 0 = [0] ∧ t.stepTiles = [0] ∧ t.reductionsDone = true ∧ t.leader = t.devId ∧ Reachable t 0 :=
  ⟨⟨by decide, by decide⟩, by decide, by decide, by decide, by decide, Or.inl (by decide)⟩

/-- R268: the one report makes COMMIT, a non-finite count SKIP or, with SKIP runs of none allowed, HALT, and a rejoin DISCARD; and two
members with different digests halt. -/
theorem test_decide : let b := MsgBody.stepReport 5
    let s := fun (n : Nat) (rj : Bool) => got (voting Tile.reset { StepState.reset with jobRec := some ⟨0, n, 0, 0⟩, rejoined := rj }) b
    (after (.stepReport (msg b)) (s 0 false)).step.decision = some (.commit, 0, 0) ∧ (after (.stepReport (msg b)) (s 0 false)).step.no = 1 ∧
    (after (.stepReport (msg b)) (s 1 false)).step.halted = some 0 ∧
    (after (.stepReport (msg b)) ((s 1 false).setReg rStepCtl 0x100)).step.decision = some (.skip, 0, 0) ∧
    (after (.stepReport (msg b)) (s 0 true)).step.decision = some (.discard, 0, 0) ∧
    (let t := { s 0 false with job := { (s 0 false).job with members := [⟨0, none, 0⟩, ⟨9, none, 0⟩] } }
     (after (.stepReport (msg b)) t).step.decision = none ∧
     (after (.stepReport (msg b)) { t with step := { t.step with reports := [(9, 6)] } }).step.halted = some 0) := by decide

/-- R269, R272: a member takes the decision, and ignores a copy. -/
theorem test_decision : let b := MsgBody.stepDecision .skip
    (after (.stepDecision (msg b)) (got (voting Tile.reset StepState.reset) b)).step.decision = some (.skip, 0, 0) ∧
    (after (.stepDecision (msg b)) (got (voting Tile.reset { StepState.reset with decision := some (.commit, 0, 0) }) b)).step.decision =
      some (.commit, 0, 0) := by decide

/-- R149, R270: the waiting context receives the decision; it ends the step, its tile passes, and the device enters step 1. -/
theorem test_boundary : let s := voting Tile.reset { StepState.reset with decision := some (.commit, 0, 0), no := 1 }
    let u := after (.stepDecisionDelivery 0) s
    ((u.ctx l0).step = .decidedCommit ∧ (u.ctx l0).rp 1 = true ∧ (after (.tileStepBoundary 0) u).tile 0 = u.tile 0) ∧
    (let v := u.updCtx l0 (fun c => { c with epoch := 1, step := .start })
     ((after (.tileStepBoundary 0) v).tile 0).passed = true ∧ (after (.tileStepBoundary 0) v).reg (rTileStep 0) = 1 ∧
     (after .deviceStepBoundary v).step = v.step) := by decide

/-- The leader and its tile past the boundary of step 0, with a decision on it. -/
def crossing (d : Decision) (att no : Nat) : State :=
  voting { Tile.reset with passed := true, bounds := 1 } { StepState.reset with decision := some (d, 0, att), no := no }

theorem witness_device_boundary : (crossing .commit 0 1).stepTiles = [0] ∧ ((crossing .commit 0 1).tile 0).passed = true ∧
    (crossing .commit 0 1).job.stopReq = none ∧ (crossing .commit 0 1).step.halted = none ∧ (crossing .commit 0 1).book.target = none := by decide +kernel

/-- R270: after a commit the device enters step 1 with the digest of step 0 recorded, and after a discard the next attempt. -/
theorem test_device_boundary : (after .deviceStepBoundary (crossing .commit 0 1)).step.decision = none ∧
    (after .deviceStepBoundary (crossing .commit 0 1)).step.no = 1 := by decide +kernel

theorem test_device_boundary_more : ((after .deviceStepBoundary (crossing .commit 0 1)).book.recs.map (·.type)) = [7] ∧
    (after .deviceStepBoundary (crossing .discard 3 0)).step.att = 4 := by decide +kernel

/-- A rejoin of step n, and the leader in step 5 that has it. -/
def again (n : Nat) : Msg := { msg .rejoin with step := n }

def rejoined (n : Nat) : State := { voting Tile.reset { StepState.reset with no := 5 } with inbox := [again n] }

/-- R205, R272, R376, R418: the leader answers a rejoin of its step with DISCARD and a query with its record; one of the newest complete cairn rolls
back, and one of another step is dropped; with no partner the job ends (R27). -/
theorem test_rejoin : (after (.rejoin (again 5)) (rejoined 5)).step.decision = some (.discard, 5, 0) ∧
    (after (.rejoin (again 4)) (rejoined 4)).step.no = 5 ∧ (after (.rejoin (again 4)) (rejoined 4)).inbox = [] := by decide +kernel

theorem test_rejoin_alone : (after (.rejoin (again 0)) (rejoined 0)).job.st = .loaded := by decide +kernel

theorem test_query : let q := { msg .decisionQuery with step := 4 }
    (after (.decisionQuery q) { voting Tile.reset { StepState.reset with no := 5 } with
      inbox := [q], book := { RouteBook.reset with recs := [⟨4, 0, 0, 4, 2, [Decision.code .skip]⟩] } }).inbox.map (fun m => (m.att, m.body)) =
      [(2, .stepDecision .skip)] := by decide +kernel

/-! ### Links -/

/-- Port 0's half 0 as `k`, with a route to device 9 over it. -/
def linked (k : Link) : State :=
  let s := on Tile.reset
  { s with links := [(0, k)], sluice := { s.sluice with budget := s.sluice.budget ++ [(640, 5 * 16 * 91)] } }.setReg (rRoute 9) 0x8000

def up : Link :=
  { Link.reset with
    state := 2, peer := 9, toSom := [], rxSeq := 3,
    retry := [⟨7, 0, 0, true, true, msg .rejoin⟩, ⟨8, 0, 0, true, true, msg .rejoin⟩], got := Link.reset.got.set 0 2 }

/-- R292, R313: LNK_CFG of an enabled half trains it, a reserved code changes nothing, and a size of 2 is an ACCESS entry. -/
theorem test_link_cfg : let s := linked Link.reset
    ((after (.linkCfgWrite .host 0 8 8) s).link 0).state = 1 ∧
    (after (.linkCfgWrite .host 0 8 0xC0) s).log.next = 1 ∧ (after (.linkCfgWrite .host 0 2 0) s).log.next = 1 ∧
    (after (.linkCfgWrite .host 0 4 0) s).reg (rLnkCfg 0) = 0 := by decide

/-- R307, R312: a trained link resends from sequence number 0; the third timeout in a row fails it; a lost peer returns to training. -/
theorem test_training : let s := fun n => linked { up with state := 1, fails := n }
    ((after (.linkTrained 0 9 4) (s 0)).link 0).retry.map (·.seq) = [0, 1] ∧ ((after (.linkTrained 0 9 4) (s 0)).link 0).state = 2 ∧
    ((after (.linkTrainingTimeout 0) (s 1)).link 0).state = 1 ∧ ((after (.linkTrainingTimeout 0) (s 2)).link 0).state = 5 ∧
    ((after (.peerReturn 0) (linked { up with state := 4 })).link 0).state = 1 := by decide

/-- R294, R295: a NAK of the second flit resends one, a timeout both; the sixteenth resend retrains. -/
theorem test_retry : (after (.nak 0 8) (linked up)).reg (rLnkCnt 0 0x040) = 1 ∧ (after (.ackTimeout 0) (linked up)).reg (rLnkCnt 0 0x040) = 2 ∧
    ((after (.linkRetrain 0 .resends) (linked { up with resends := 15 })).link 0).state = 2 ∧
    ((after (.linkRetrain 0 .resends) (linked { up with resends := 16 })).link 0).state = 1 ∧
    ((after (.linkRetrain 0 .lossOfSignal) (linked up)).link 0).state = 1 := by decide

/-- A message flit with a sequence number, acknowledging `ack`. -/
def flit (seq ack : Nat) (bad : Bool) : Flit :=
  let w : WireFlit := { ftype := 1, vc := 0, dst := 0, src := 9, mc := false, som := false, eom := true, plen := 0, hops := 0, payload := [],
                        seq := seq, ack := ack, crvc := 0, crn := 0 }
  ⟨w.bytes 0, bad, 1, 0⟩

/-- R294: the expected flit is taken and acknowledges, another is not, and a bad one is answered with one NAK. -/
theorem test_flits : ((after (.flitReceived 0 (flit 3 7 false)) (linked up)).link 0).rxSeq = 4 ∧
    ((after (.flitReceived 0 (flit 3 7 false)) (linked up)).link 0).retry.map (·.seq) = [8] ∧
    ((after (.flitReceived 0 (flit 4 99 false)) (linked up)).link 0).rxSeq = 3 ∧
    ((after (.flitReceived 0 (flit 3 7 true)) (linked up)).out.map (fun x => match x with
      | .flit p bs => (p, bs.length, fld (leVal (bs.take 8)) 63 60)
      | _ => (9, 9, 9))) = [(0, 256, 2)] ∧
    (after (.flitReceived 0 (flit 3 7 true)) (linked up)).reg (rLnkCnt 0 0x050) = 1 := by decide +kernel

/-- R301, R302, R305: a message for this device is delivered, one for device 9 forwarded with one hop more, one of 63 hops or a reserved type
discarded. -/
theorem test_delivery : let m := { msg .rejoin with src := 9 }
    let at9 := fun (x : Msg) => linked { up with ready := [x] }
    (after (.messageDelivery 0 m) (at9 m)).inbox = [m] ∧ (after (.messageDelivery 0 m) (linked up)).inbox = [] ∧
    begins ((after (.messageDelivery 0 { m with dst := 9 }) (at9 { m with dst := 9 })).link 0) { m with dst := 9, hops := 1 } = 1 ∧
    (after (.messageDelivery 0 { m with hops := 63 }) (at9 { m with hops := 63 })).reg (rLnkCnt 0 0x080) = 1 ∧
    (after (.messageDelivery 0 { m with body := .reserved 99 }) (at9 { m with body := .reserved 99 })).reg (rLnkCnt 0 0x088) = 1 ∧
    (after (.messageDelivery 0 { m with dst := 10 }) (at9 { m with dst := 10 })).reg (rLnkCnt 0 0x080) = 1 := by decide

theorem witness_links : NoEventQueue (linked up) ∧ LogRoom (linked up) ∧ ((linked up).link 0).state = 2 ∧ (linked up).lnkMode 0 = 0 ∧
    bitOf ((linked up).route 9) 15 = true ∧ (linked up).linkFor 9 = some (0, false) ∧ ({ up with retry := [] } : Link).unfinished = [] ∧ (linked up).linkFor 0 = some (0, false) ∧
    (linked Link.reset).linkFor 9 = none :=
  ⟨noEventQueue_of (by decide), logRoom_of (by decide), by decide, by decide, by decide, by decide, by decide, by decide, by decide⟩

/-- R306, R381: a reset notice and a lost peer leave PEER_RESET and PEER_LOST with the peer flagged; the host clears a half of the word. -/
theorem test_peer : ((after (.resetNotice 0) (linked up)).link 0).state = 3 ∧ (after (.resetNotice 0) (linked up)).peerDown 9 = true ∧
    ((after (.peerLost 0) (linked up)).link 0).state = 4 ∧
    (after (.errPeerdownWrite .host 63 4 1 5) ((linked up).setReg (rPeerDown 63) 0xFFFFFFFF00000007)).reg (rPeerDown 63) = 0x500000007 ∧
    (after (.errPeerdownWrite .host 63 4 0 5) ((linked up).setReg (rPeerDown 63) 0xFFFFFFFF00000007)).reg (rPeerDown 63) = 0xFFFFFFFF00000005 ∧
    (after (.errPeerdownWrite .host 63 2 0 5) (linked up)).log.next = 1 := by decide

/-! ### Errors and recovery -/

/-- The hub as it stands with one log entry, number 0. -/
def erring (cls cause unit d5 : Nat) (e : Nat) : State :=
  { voting Tile.reset StepState.reset with log := ⟨[(0, some ⟨0, cls, cause, 0, 0, 0, 0, 0, 0, 0, unit, 0, e, d5, 0, 0⟩)], 1⟩ }

/-- R165, R166: the scrubber passes a clean granule, the last one wraps, a single-bit upset is corrected and a double one poisons it. -/
theorem test_scrub : let s := on { Tile.reset with scrub := 98303 }
    ((after (.patrolScrub 0 none) s).tile 0).scrub = 0 ∧ (after (.patrolScrub 0 (some (7, false))) s).reg (rEccLast 0) = 2 ^ 31 + 0x5FFFF8 ∧
    (after (.patrolScrub 0 (some (7, true))) s).poison.get (fun _ => false) 0x5FFFC0 = true ∧ (after (.patrolScrub 0 (some (7, true))) s).log.next = 1 ∧
    s.clockRuns 0 = true ∧ s.clockRuns 1 = false := by decide +kernel

/-- R386: a channel due to retrain retrains, and one whose retrain fails is a DMEM 0x03 entry. -/
theorem test_channels : let s := on Tile.reset
    (after (.channelRetrain 95) { s with rst := { Recovery.reset with chRetrain := [95] } }).rst.chBusy = [95] ∧
    (after (.channelRetrainComplete 95 true) { s with rst := { Recovery.reset with chBusy := [95] } }).rst.chBusy = [] ∧
    (after (.channelRetrainComplete 95 false) { s with rst := { Recovery.reset with chBusy := [95] } }).log.next = 1 := by decide

/-- R373, R377: a recorded entry is done; a fatal tile memory error calls for a reset; a STEP 0x03 entry halts the job. -/
theorem test_handling : ((after .errorHandlingStart (erring 1 2 0xFFFF 0 15)).entry 0).map (·.state) = some 2 ∧
    (after .errorHandlingStart (erring 3 1 0 (2 ^ 31) 15)).rst.trigger = some (1, 0) ∧
    (after .errorHandlingStart (erring 7 3 0xFFFF 0 15)).step.halted = some 0 ∧ (after .errorHandlingStart (on Tile.reset)).rst = Recovery.reset := by decide

theorem witness_handling : let s := erring 3 1 0 (2 ^ 31 + 0x400) 15
    (s.pendingEntry.map (·.seq)) = some 0 ∧ s.rst.phase = .none ∧ s.rst.handling = none ∧ s.rst.trigger = none ∧ s.pastCommit = false ∧
    s.tmemFatal 0 (2 ^ 31 + 0x400) = false ∧ s.tmemFatal 0 (2 ^ 31) = true ∧ s.job.st = .running ∧ s.step.stopped = false ∧ s.rst.abandons = none := by decide

/-- Tile 0 with context 0 running and an expiry that waits for entry 0. -/
def hung : State := (erring 8 1 0 0 1).updTile 0 (fun x => { x with expired := [⟨0, 1, 1, [0], [(0, 0x40, [0, 0, 0, 0, 0, 0, 0])]⟩] })

/-- R382, R384: a HANG entry of a tile starts the search with the suspects and positions of its detection, the first running from its save
record, the others held. -/
theorem test_search : ((after .errorHandlingStart hung).tile 0).search.map (·.suspects) = some [0] ∧
    ((after .errorHandlingStart hung).tile 0).search.map (·.pos) = some [(0, 0x40, [0, 0, 0, 0, 0, 0, 0])] ∧
    ((after .errorHandlingStart hung).ctx l0).mode = .run ∧ ((after .errorHandlingStart hung).tile 0).expired.length = 0 := by decide +kernel

/-- Tile 0 in a hang search of context 0 at PC 0x40. -/
def hunting (pc : BitVec 24) : State :=
  voting { Tile.reset with search := some ⟨0, 1, 1, [0], [0], [], [], [(0, 0x40, [0, 0, 0, 0, 0, 0, 0])], 0, 0, []⟩ } StepState.reset
  |>.updCtx l0 (fun c => { c with step := .start, mode := .run, pc := pc })

/-- R380, R384, R385: a window that expires stops its unit; a suspect at its position is clear; one that hangs again is parked. -/
theorem test_hang : ((after (.hangDetected l0 ⟨0, []⟩) (cpu Ctx.reset)).tile 0).engStop = [6] ∧ (after (.hangDetected l0 ⟨0, []⟩) (cpu Ctx.reset)).log.next = 2 ∧
    ((after (.hangDetected l0 ⟨0, []⟩) (cpu Ctx.reset)).tile 0).expired.map (·.suspects) = [[0]] ∧
    (after (.hangDetected l0 ⟨1, []⟩) (cpu Ctx.reset)).log.next = 0 := by decide +kernel

theorem test_replay : ((after .replayPositionReached (hunting 0x40)).tile 0).search = none ∧
    ((after .replayPositionReached (hunting 0x44)).tile 0).search.isSome = true ∧
    ((after .replayHangAgain (hunting 0x44)).ctx l0).mode = .parked ∧ (hunting 0x44).early 0 = false := by decide +kernel

/-- R387, R391: a request waits, begins the reset, and a failed one is tried again until the third. -/
theorem test_reset : let s := after (.resetreqGo .host 1) (on Tile.reset)
    s.rst.trigger.map (·.1) = some 2 ∧ (after .deviceResetBegin s).rst.phase = .dump ∧
    (after .deviceResetFail (after .deviceResetBegin s)).rst.failRun = 1 ∧
    (after .deviceResetFail ({ on Tile.reset with rst := { Recovery.reset with phase := .reload, failRun := 2 } })).rst.phase = .failed ∧
    (after .deviceResetBegin { on Tile.reset with rst := { Recovery.reset with phase := .restart, trigger := some (2, 9) } }).rst.failRun = 1 := by decide +kernel

/-- R389, R393, R447, R458: a unit that does not answer, T1 verified with PERST# asserted and with a job, and an image that cannot be read. -/
theorem test_reload : let r := { Recovery.reset with phase := .restart }
    let s := { on Tile.reset with rst := r, mgmt := { Mgmt.reset with joined := List.range 24 } }
    (after .dumpUnitTimeout { s with rst := { Recovery.reset with phase := .dump, dumpAt := 686 } }).rst.unreadable.length = 1 ∧
    (after (.t1Verified []) { s with host := { HostPort.reset with perst := true } }).rst.phase = .waiting ∧
    (after (.t1Verified [0]) { s with job := job (image [] [] [] []) }).rst.phase = .reload ∧
    (after (.jobImageReload .malformed) { s with rst := { r with phase := .reload }, job := job (image [] [] [] []) }).rst.failRun = 1 := by decide +kernel

/-- The hypotheses of `DUMP_SEALED`; and R395: a copy begins once, and ends with a HOST 0x01 entry when its write failed. -/
theorem test_dump_copy : (let s := { on Tile.reset with rst := { Recovery.reset with phase := .dump, dumpSlot := 1, dumpValid := 3 } }
     s.job.sizes.1 ≤ 64 ∧ (s.tiles.map (·.1)).Nodup ∧ s.upset = [] ∧ s.poison = []) ∧
    (let s := on Tile.reset
     (after (.dumpcpyGo .host 0x3003) s).reg rDumpCpy = 0x3002 ∧ (after (.dumpcpyGo .host 0x3003) (after (.dumpcpyGo .host 0x3003) s)).log.next = 1 ∧
     (after (.dumpCopyDone false) (after (.dumpcpyGo .host 0x3003) s)).rst.copyBusy = false ∧
     (after (.dumpCopyDone false) (after (.dumpcpyGo .host 0x3003) s)).log.next = 1) := by decide

/-! ### Cairns and belay -/

/-- Devices 0 and 9 as partners, device 0 leading; `b` waits. -/
def pair (b : MsgBody) : State :=
  let s := voting Tile.reset StepState.reset
  { s with job := { s.job with members := [⟨0, some 9, 0⟩, ⟨9, some 0, 0⟩] }, inbox := [{ msg b with src := 9 }] }

def from9 (b : MsgBody) : Msg := { msg b with src := 9 }

/-- R410: the leader calls a cairn for the next step when an ASK waits, and 1,000 steps after the last. -/
theorem test_calls : let s := pair .rejoin
    (after .cairnCallIssue { s with cairn := { CairnState.reset with early := true } }).cairn.next = 1 ∧
    (after .cairnCallIssue { s with step := { StepState.reset with no := 998 } }).cairn.next = 1000 ∧
    (after .cairnCallIssue { s with step := { StepState.reset with no := 997 } }).cairn.next = 0 := by decide

/-- R404: the last CALLACK lets the leader decide. -/
theorem test_callack : let b := MsgBody.belay .callack
    let s := { pair b with cairn := { CairnState.reset with next := 1, st := 1, acks := [0] }, step := { StepState.reset with reports := [(0, 3), (9, 3)], jobRec := some ⟨0, 0, 0, 0⟩ }, inbox := [{ from9 b with step := 1 }] }
    (after (.callack { from9 b with step := 1 }) s).step.decision = some (.commit, 0, 0) ∧
    (after (.callack { from9 b with step := 1 }) { s with cairn := { s.cairn with acks := [] } }).step.decision = none ∧
    (after (.callack { from9 b with step := 2 }) { s with inbox := [{ from9 b with step := 2 }] }).cairn.acks = [0] := by decide

/-- R406: the copy engine clears CPEND of a marked row, and passes over an unmarked one. -/
theorem test_row_copy : let s := { summing wide with cairn := { CairnState.reset with next := 1, st := 3, frozen := [⟨0, 0, 0, 17⟩] } }
    let t := s.poke (0x40000100000 + 17 * 64) (leBytes 16 (5 * 2 ^ 40))
    (after (.cairnRowCopy 0) t).peek (0x40000100000 + 17 * 64) 16 = 2 ^ 40 ∧ (after (.cairnRowCopy 0) t).cairn.frozen = [] ∧
    (after (.cairnRowCopy 0) s).mem = s.mem ∧ (t.table 0).map (·.stride) = some 64 ∧
    t.hotRow 0 0 0 17 = none ∧ t.rowLoc 0 0 17 = some (0x40000100000 + 17 * 64) := by decide

/-- R408, R412: a ward's row is stored and counted, a stranger's is not; its seal is answered once all that it counts is stored. -/
theorem test_store : let b := MsgBody.belay (.rowcopy 0 0 17 [1, 2])
    let u := after (.rowcopy (from9 b)) (pair b)
    (u.belay.store = [⟨9, 0, .row 0 0 17 [1, 2]⟩] ∧ u.stored 9 0 = 1) ∧
    (after (.rowcopy (from9 b)) { pair b with job := job (image [] [] [] []) }).belay.store = [] ∧
    (let h := MsgBody.belay (.shadow 0 64 [5] 0)
     (after (.shadow (from9 h)) (pair h)).stored 9 0 = 1) ∧
    (let r := MsgBody.belay (.rtbrec ⟨4, 0, 0, 3, 0, [1]⟩ 0)
     (after (.rtbrec (from9 r)) (pair r)).belay.store = [⟨9, 3, .record ⟨4, 0, 0, 3, 0, [1]⟩⟩]) ∧
    (after (.belaySeal (from9 (.belay (.sealOf 1)))) { u with inbox := [from9 (.belay (.sealOf 1))] }).inbox = [] ∧
    (after (.belaySeal (from9 (.belay (.sealOf 2)))) { u with inbox := [from9 (.belay (.sealOf 2))] }).inbox = [from9 (.belay (.sealOf 2))] ∧
    9 ∈ u.wards ∧ 2 ≤ u.belayRoom := by decide

/-- R408, R415: the partner's seal ends this device's part; the last DONE and COMPLETE end the cairn. -/
theorem test_cairn_end : let s := fun (b : MsgBody) => { pair b with cairn := { CairnState.reset with next := 1, st := 3, sealAsked := true, msgs := 5, dones := [0] }, inbox := [{ from9 b with step := 1 }] }
    let m := fun (b : MsgBody) => { from9 b with step := 1 }
    (after (.belaySealed (m (.belay (.sealedOf 5)))) (s (.belay (.sealedOf 5)))).cairn.st = 4 ∧
    (after (.belaySealed (m (.belay (.sealedOf 4)))) (s (.belay (.sealedOf 4)))).cairn.st = 3 ∧
    (after (.belayDone (m (.belay .done))) (s (.belay .done))).cairn.lastC = 1 ∧
    (after (.belayComplete (m (.belay .complete))) (s (.belay .complete))).cairn.lastC = 1 ∧
    (after (.belayDone (m (.belay .done))) { s (.belay .done) with cairn := { (s (.belay .done)).cairn with dones := [] } }).cairn.dones = [9] := by decide

/-- R399, R411, R417: ASK, a gathered row, equal feed codes, a FILLREQ of the whole stream, and the end of a fill. -/
theorem test_exchange : (after (.ask (from9 (.belay .ask))) (pair (.belay .ask))).cairn.early = true ∧
    (after (.feed (from9 (.belay (.feed 0)))) (pair (.belay (.feed 0)))).belay.corr = true ∧
    (after (.feed (from9 (.belay (.feed 7)))) (pair (.belay (.feed 7)))).belay.corr = false ∧
    (let g := MsgBody.belay (.gather 0 0 17 [1, 2])
     (after (.gather (msg g)) (got (summing wide) g)).bytes (0x40000100000 + 17 * 64) 2 = [1, 2]) ∧
    (let f := MsgBody.belay (.fillreq 63 3 1099511627775)
     (after (.fillreq (from9 f)) (pair f)).belay.fillSeq = 1) ∧
    (let f := MsgBody.belay (.fill 0 63 3 1099511627775 [])
     (after (.belayFill (from9 f)) { pair f with belay := { BelayState.reset with fill := 3, fillLeft := [wholeStream] } }).belay.fill = 0) := by decide

/-! ### The host and the management bus -/

/-- R8, R319, R439, R440: a register write and its change log entry, an upper half, a size of 2, an address of no register, a reserved code,
a W1C bit, and an RC counter that restarts at its cycle's events. -/
theorem test_register_write : let s := on Tile.reset
    let a := 0x40010
    (after (.registerWrite (.bar0 a) 8 0) s).chgNext = 0 ∧
    (after (.registerWrite (.mgt (rCsave 0 0)) 8 6143) s).reg (rCsave 0 0) = 6143 ∧ (after (.registerWrite (.mgt (rCsave 0 0)) 8 6143) s).chgNext = 1 ∧
    (after (.registerWrite (.bar2 (rMtbf + 4)) 4 1) s).log.next = 1 ∧ (after (.registerWrite (.bar0 (rMtbf - 0x200000000)) 2 1) s).log.next = 1 ∧
    (after (.registerWrite (.bar0 0x8) 4 7) s).log.next = 0 ∧ (after (.registerWrite (.bar0 0x1B1000) 8 7) s).log.next = 1 ∧
    (after (.registerWrite (.mgt (rCsave 0 0)) 8 6144) s).log.next = 1 ∧
    (after (.registerWrite (.mgt (rAflag 0 0)) 4 0x10) (s.setReg (rAflag 0 0) 0x1F)).reg (rAflag 0 0) = 0xF := by decide

/-- R8, R58, R440, R442: reads through BAR0 and by MCTP, and an MCTP write. -/
theorem test_register_read : let s := (on Tile.reset).setReg (rLnkCnt 0 0x040) 0x1234567800000009
    (after (.rcRegisterRead (.bar0 0x100040) 8 3) s).hostRd = 0x1234567800000009 ∧ (after (.rcRegisterRead (.bar0 0x100040) 8 3) s).reg (rLnkCnt 0 0x040) = 3 ∧
    (after (.rcRegisterRead (.bar0 0x100044) 4 0) s).hostRd = 0x12345678 ∧
    (after (.mctpRegisterRead (rLnkCnt 0 0x040) 4 0) s).out = [.mctp 0 9] ∧ (after (.mctpRegisterRead 0x10 8 0) s).out = [.mctp 1 0] ∧
    (after (.mctpRegisterWrite (rCsave 0 0) 8 5) s).reg (rCsave 0 0) = 5 ∧ (after (.mctpRegisterWrite (rCsave 0 0) 8 5) s).out = [.mctp 0 0] := by decide

theorem witness_registers : let s := on Tile.reset
    NoEventQueue s ∧ LogRoom s ∧ Reaches (.bar0 0x100040) 0x200100040 ∧ (8, 0, 2 ^ 64 - 1, 0) ∈ widths ∧ regInfo (rLnkCnt 0 0x040) = some .counter ∧
    regInfo 0x2001B1000 = none ∧ s.regReserved (rMtbf) (2 ^ 64 - 1) 1 = false ∧ s.regRefused rMtbf 1 0 = false ∧ s.regReserved (rCsave 0 0) (2 ^ 64 - 1) 6144 = true :=
  ⟨noEventQueue_of (by decide), logRoom_of (by decide), ⟨by decide, rfl⟩, by decide, by decide, by decide, by decide, by decide, by decide⟩

/-- R320, R330: a doorbell moves TAIL to a full queue and not beyond, HEAD of an EVENT queue, and one of 4 bytes is an ACCESS entry. -/
theorem test_doorbell : (after (.doorbell 3 8 16) (withQueue (on Tile.reset) 3 0 0 0 0 0)).peek (at0 3 + 16) 4 = 16 ∧
    (after (.doorbell 3 8 17) (withQueue (on Tile.reset) 3 0 0 0 0 0)).log.next = 1 ∧
    (after (.doorbell 3 8 1) (withQueue (on Tile.reset) 3 6 0 0 1 0)).peek (at0 3 + 20) 4 = 1 ∧
    (after (.doorbell 3 4 1) (withQueue (on Tile.reset) 3 0 0 0 0 0)).log.next = 1 ∧
    ((after (.doorbell 3 8 1) { withQueue (on Tile.reset) 3 1 0 0 0 0 with job := job (image [] [] [] []) }).book.recs.map (·.type)) = [2] := by decide

/-- R328, R329: a descriptor of 16 entries is written and read back; one of 8 entries is status 1, and of a queue beyond the table status 4. -/
theorem test_descriptors : let s := fun n => ((on Tile.reset).setReg (rQdata 0) (2 ^ 63 + n * 2 ^ 55)).setReg (rQdata 1) 0x40000002000
    (after (.queueDescriptorWrite .host 0x1000005) (s 4)).peek (at0 5) 16 = 2 ^ 63 + 4 * 2 ^ 55 + 0x40000002000 * 2 ^ 64 ∧
    wfld ((after (.queueDescriptorWrite .host 0x1000005) (s 3)).reg rQctl) 31 28 = 1 ∧
    wfld ((after (.queueDescriptorWrite .host 0x1FFFFFF) { s 4 with job := { Job.reset with sizes := (16, 3, 4096) } }).reg rQctl) 31 28 = 4 ∧
    (after (.queueDescriptorRead .host 0x2000003) (withQueue (on Tile.reset) 3 6 0 0 1 0)).reg (rQdata 1) = 0x40000002000 := by decide

/-- R321, R323: BAR4 writes T1 and not a reserve, and nothing beyond its window; BAR2 writes and reads tile memory, not while a job runs. -/
theorem test_windows : let s := on Tile.reset
    (after (.hostWindowWrite 0x3FFFFFFF [7]) s).byte 0x4003FFFFFFF = 7 ∧ (after (.hostWindowWrite 0x40000000 [7]) s).mem = [] ∧
    (after (.hostTileMemoryWrite 0x63FFFF [7]) s).byte 0x63FFFF = 7 ∧ (after (.hostTileMemoryWrite 0x640000 [7]) s).log.next = 1 ∧
    (after (.hostTileMemoryWrite 0 [7]) { s with job := job (image [] [] [] []) }).log.next = 1 ∧
    (after (.hostTileMemoryRead 0x13FE3FFF8 8) (s.poke 0x13FE3FFF8 [5])).rdBytes = [5, 0, 0, 0, 0, 0, 0, 0] ∧
    (after (.hostTileMemoryRead 0 8) { s with upset := [(0, 2)] }).log.next = 1 := by decide

theorem witness_windows : let s := on Tile.reset
    s.mgmt.base = false ∧ s.closedSlot 0x4003FFFFFFF 1 = false ∧ s.committedAt 0x4003FFFFFFF 1 = false ∧ s.touchesReserve 0x4003FFFFFFF 1 = false ∧
    s.touchesReserve ((s.stage).1) 1 = true ∧ tileRegAt 0x63FFFF = none ∧ (tileRegAt 0x700000).isSome = true ∧ NoUpsets s :=
  ⟨by decide, by decide, by decide, by decide, by decide, by decide, by decide, ⟨rfl, rfl⟩⟩

/-! ### Power -/

/-- R318, R341, R444, R458: the link trains, degraded below 32 GT/s, insecure after an integrity failure; PERST# brings it down. -/
theorem test_host_link : let s := on Tile.reset
    (after (.hostLinkTrained ⟨16, 2⟩ ⟨7, true⟩) s).hostUp = true ∧ (after (.hostLinkTrained ⟨3, 2⟩ ⟨7, true⟩) s).host.trained = false ∧ (after (.cxlRateDegraded 4) s).log.next = 1 ∧
    (after .ideIntegrityFailure (after (.hostLinkTrained ⟨4, 1⟩ ⟨7, true⟩) s)).host.ide = 2 ∧ (after .hostLinkDown (after (.hostLinkTrained ⟨4, 1⟩ ⟨7, true⟩) s)).host.trained = false ∧
    (after .hostLinkTrainTimeout { s with mgmt := Mgmt.reset }).mgmt.service = true ∧
    (after (.perstAssert true) s).rst.trigger.map (·.1) = some 2 ∧ (after (.perstAssert false) s).rst.trigger = none ∧
    (after .perstRelease (after (.perstAssert false) s)).host.perst = false ∧ (s.powered = true ∧ s.sec.boot = .running ∧ s.host.perst = false) := by decide

/-- R346, R356, R357, R456: inrush, a feed failure just below 38 V and none at 38 V, the clamp just above 52 V, its end, and a trip. -/
theorem test_power : let s := on Tile.reset
    (after .modEnRise { s with power := Power.off }).power.stage = .inrush ∧
    (after (.feedFailure 37999 37999) s).power.stage = .hold ∧ (after (.feedFailure 38000 37999) s).power.stage = .good ∧
    (after (.overvoltageClamp 52001) s).power.stage = .clamped ∧ (after (.overvoltageClamp 52000) s).power.stage = .good ∧
    goes (.overvoltageClamp 65001) s = false ∧ (after (.thermalTrip 2) s).sluice.tripped = [2] ∧ (after .modEnFall s).power.closing = true ∧
    (s.power.feedFail = false ∧ s.rst.phase = .none ∧ s.nextSlot = none) := by decide +kernel

/-- R346, R358, R456: what is lost with the input, and the input's return. -/
theorem test_power_lost : let s := on Tile.reset
    (after .powerLost (s.poke 5 [7])).byte 5 = 0 ∧ (after .powerLost s).power.stage = .off ∧
    (after .overvoltageOpen { s with power := { s.power with stage := .clamped } }).power.stage = .opened ∧
    (after .inputRestored { s with power := { s.power with stage := .hold } }).power.stage = .good ∧
    (after .modEnFall { s with power := { s.power with stage := .inrush } }).power.stage = .off := by decide

/-- The manual's example of the slew (R351): both tiles wake in one aon cycle with r = 560 units; the sum of what an aon cycle admits is r. -/
theorem test_payout : let s := { on Tile.reset with sluice := { Sluice.reset with up := [(0, 1600)], cu := 0 } }
    let t := after .sluicePayout s
    (t.budget 0 = 560 ∧ t.sluice.up = [(0, 1040)] ∧ t.sluice.cu = 0 ∧ t.aon = 1) ∧
    (let u := after .sluicePayout (after .sluicePayout t)
     u.budget 0 = 1600 ∧ u.sluice.up = []) ∧
    (let v := after .sluicePayout { s with sluice := { Sluice.reset with up := [(0, 1600)], down := [(1, 1600)], budget := [(1, 1600)] } }
     v.budget 0 = 1600 ∧ v.budget 1 = 0) := by decide

/-- R350, R354, R355: a consumer's request, a hot window, and a cap of 1,600 W, which the duty of 0 meets. -/
theorem test_sluice : let s := on Tile.reset
    (after (.levelRequestJoin 640) (s.setReg (rLnkCfg 0) 8)).sluice.up = [(640, 16 * 91)] ∧ (after (.levelRequestJoin 640) s).sluice.up = [] ∧
    (after .thermalWindow { s with sluice := { s.sluice with hot := true } }).sluice.thDuty = 2 ∧
    (after .capWindow (s.setReg rSluCap 1600)).duty < 3 := by decide +kernel

def sample (vin inlet die : BitVec 16) : Sensors := ⟨vin, 100, die, 0, 0, inlet⟩

/-- R360, R369, R443: thresholds crossed at 50 V and 95 °C are reported to the bus owner, and to no one before it has set an endpoint; beyond R455 the model stops; a limit reached drops a die. -/
theorem test_sensors : let s := { on Tile.reset with mgmt := { Mgmt.reset with eid := some 9 } }
    (after (.sensorUpdate (sample 50001 0 0)) (on Tile.reset)).out = [] ∧
    (after (.sensorUpdate (sample 50001 0 0)) s).out = [.sensor 1 1 true] ∧ (after (.sensorUpdate (sample 50000 0 0)) s).out = [] ∧
    (after (.sensorUpdate (sample 48000 0 1520)) s).out = [.sensor 4 1 true] ∧ goes (.sensorUpdate (sample 65001 0 0)) s = false ∧
    goes (.sensorUpdate (sample 65000 880 0)) s = true ∧ (after (.dieTemperatureLimit 1 1680) s).sluice.tripped = [1] ∧
    (after (.dieTemperatureLimit 1 1679) s).sluice.tripped = [] := by decide +kernel

/-! ### Bring-up and management -/

def straps : Straps := ⟨7, true, some 1⟩

/-- The module as the delivered flash stands, its input just good. -/
def fresh (f : Flash) : State := { State.reset with power := { Power.off with stage := .inrush, modEn := true }, flash := f }

/-- R428, R429: the delivered module runs slot A with its configuration record; with nothing valid it stays in ROM recovery. -/
theorem test_boot : ((fresh Flash.factory).sec.tryslot Flash.factory Rom.reset.keyHash 0).2.isSome = true := by decide +kernel

theorem test_boot_record : (Flash.factory.config Rom.reset.keyHash).map (·.2) = some 0 ∧
    (after (.powerGood straps) (fresh { Flash.factory with mainA := none, firstA := none })).sec.boot = .recovery := by decide +kernel

/-- R432: the identity key of a seed, and a certificate of it. -/
theorem test_identity : ((fresh { Flash.factory with ident := { Flash.factory.ident with devKey := some (
      0x73241588b1ba308c4ee40233b9d11fb2f74254d8548ca77ba49503a900f52f86, 0xe7b128bb20d077d30f355f7ee40788be8c21b00c2d1d8c57a553ea7145e372a8) } }).identify
      straps).sec.idok = true ∧ ((fresh Flash.factory).identify straps).sec.idok = false := by decide +kernel

/-- R444, R446: controllers join in order, channels after their controller, and the last channel ends base camp mode. -/
theorem test_bring_up : let s := { on Tile.reset with sluice := { Sluice.reset with budget := [(652, 2176)] } }
    (after (.controllerTrained 0 true) s).mgmt.joined = [0] ∧ (after (.controllerTrained 0 false) s).mgmt.joined = [] ∧
    (after (.controllerTrained 1 true) s).mgmt.joined = [] ∧ (after (.channelInitialised 3) (after (.controllerTrained 0 true) s)).mgmt.channels = [3] ∧
    (after .baseCampEnd { s with mgmt := { Mgmt.reset with channels := List.range 96 } }).mgmt.base = false := by decide +kernel

/-- R431, R433 to R437: updates over PLDM and from the host, the rollback counter, sessions, and the self-test. -/
theorem test_management : let s := on Tile.reset
    (after .requestUpdate s).out = [.pldm 0] ∧
    (after (.activateFirmware false) { s with mgmt := { s.mgmt with update := some 1, staged := [(1, 3)] } }).flash.pend = true ∧
    (after (.fwAct .host 1) { s with mgmt := { s.mgmt with staged := [(1, 3)] } }).flash.pend = true ∧
    (after .rollbackFloorRaise { s with sec := { s.sec with floor1 := 4 }, host := { HostPort.reset with trained := true } }).flash.counter = 4 ∧
    (after (.setEndpointId 9) s).mgmt.eid = some 9 ∧
    (after (.selftestDone 400 1) (after (.selftestGo .host) s)).mgmt.fail0 = 320 := by decide +kernel

/-- R433, R434: sessions, a signature without an identity, an index and requests that are not there. -/
theorem test_spdm : let s := on Tile.reset
    let full := { s with sec := { s.sec with idok := true, sessions := 4 } }
    (after (.spdmRequest true .other) s).out = [.spdm (.error 5)] ∧ (after (.spdmRequest false .endSession) full).sec.sessions = 3 ∧
    (after (.spdmRequest false (.keyExchange 0)) { full with sec := { full.sec with sessions := 3 } }).sec.sessions = 4 ∧
    (after (.spdmRequest false (.keyExchange 0)) full).out = [.spdm (.error 0xA)] ∧
    (after (.spdmRequest false (.measurement 6)) s).out = [.spdm (.error 1)] ∧ (after (.spdmRequest false (.certificate 1)) s).out = [.spdm (.error 1)] ∧
    (after (.spdmRequest false .pskExchange) s).out = [.spdm (.error 7)] := by decide +kernel

/-- A first-stage component of version 3, signed. -/
def newFirst : Component :=
  { factoryComponent 1 with
    version := 3, svn := 5,
    sig := (0x9e9fb057fbc5a4dd83bbbcb842811b3615d2f39c95df6347eb86436290f5ec8f, 0x30b027d3821d2d913e2221a3debf7264ae1875e745f350f1b41ad853546faa4b) }

/-- R426, R435: a component that verifies is written to the slot that is not active; one byte of its header changed, it is not. -/
theorem test_component : (after (.componentTransferEnd newFirst) (after .requestUpdate (on Tile.reset))).flash.firstB = some newFirst := by decide +kernel

theorem test_component_bad :
    (after (.componentTransferEnd { newFirst with version := 4 }) (after .requestUpdate (on Tile.reset))).flash.firstB = none := by decide +kernel

/-- R436: a package read whole, of one component, and one that cannot be read. -/
theorem test_package : let s := { (on Tile.reset).setReg rFwCtl (2 ^ 24 * 512) with host := { HostPort.reset with trained := true } }
    (after (.fwLoadDone (.components [newFirst])) { s with mgmt := { s.mgmt with update := some 2 } }).mgmt.fwStatus = 2 ∧
    (after (.fwLoadDone .readFailed) (after (.fwLoadGo .host 1) s)).mgmt.fwStatus = 5 := by decide +kernel

/-! ### Host commands -/

/-- One entry in HOSTCMD queue 1, with TAG 7. -/
def commanded (s : State) (opc : Nat) (ops : List Nat) : State :=
  (withQueue s 1 0 0 0 1 0).poke 0x40000002000 (((opc * 2 ^ 56 + 7 * 2 ^ 40) :: ops).flatMap (leBytes 8))

theorem witness_host_turn : let s := commanded (on Tile.reset) 4 []
    s.hostReady = true ∧ s.cmdQueue = some 1 ∧ NoUpsets s ∧ NoEventQueue s ∧ s.job.sizes.2.1 ≤ 4 ∧
    s.peek 0x40000002000 8 = 4 * 2 ^ 56 + 7 * 2 ^ 40 ∧ (∀ i < 7, s.peek (0x40000002000 + 8 + 8 * i) 8 = 0) ∧ (s.desc 1).entryAt (s.desc 1).head = 0x40000002000 :=
  ⟨by decide, by decide, ⟨rfl, rfl⟩, noEventQueue_of (by decide), by decide, by decide, by decide, by decide⟩

/-- R335, R336: LOAD of an image of the right length, UNLOAD, an unknown code and a command outside its states, each with its entry consumed. -/
theorem test_load : let i := { image [section0 [0]] [] [] [] with headerLen := 64, digestAt := 32, redHeader := [0x800000000] }
    let s := (commanded (on Tile.reset) 1 [0x40000000000, 64]).poke 0x40000000020
      (beBytes 32 0xe0bab8f4d8172ba245190d13c94117e93b82166c25b2b69883350c192c905140)
    ((after (.load (.image i)) s).job.st = .loaded ∧ (after (.load (.image i)) s).peek (at0 1 + 20) 4 = 1) ∧
    (after (.load (.image i)) s).job.ident = 0xe0bab8f4d8172ba245190d13c94117e93b82166c25b2b69883350c192c905140 ∧
    (after (.load (.image i)) (s.poke 0x40000000000 [1])).job.st = .empty ∧
    (after (.load .malformed) s).job.st = .empty ∧ (after .unload (commanded { on Tile.reset with job := { job i with st := .loaded } } 4 [])).job.st = .empty ∧
    (after .start (commanded (on Tile.reset) 9 [])).peek (at0 1 + 20) 4 = 1 ∧ (after .stop (commanded (on Tile.reset) 3 [])).job.st = .empty := by decide +kernel

/-- A base camp job of one program section. -/
def baseJob : JobImage := { image [section0 [0]] [] [] [] with baseCamp := true, phase := some (1, 0) }

def startable : State := commanded { on Tile.reset with job := { job baseJob with st := .loaded, members := [] } } 2 [5, 1, 0x40000005000, 1]

/-- R337: START of a loaded base camp job with this device as its member. -/
theorem test_start : (after .start startable).job.st = .running := by decide +kernel

def stoppable (ops : List Nat) : State := commanded { on Tile.reset with job := job baseJob } 3 ops

/-- R338: STOP waits for the boundary. -/
theorem test_stop : (after .stop (stoppable [])).job.stopReq.isSome = true := by decide +kernel

/-- R210 to R213: a slot is built, made READY, and switched to at a step. -/
theorem test_versions : let d := [2 ^ 52 + 2 ^ 40 + 2 ^ 28, 1000000 * 2 ^ 24, 1000000 * 2 ^ 24, 0x40000001000, 0x40000100000, 0x40004100000, 0, 0]
    let s := fun st => { on Tile.reset with job := { job (image [section0 [0]] [d] [] []) with st := .loaded }, emb := { EmbState.reset with slots := [(0, [0, st, 3, 3])] } }
    (after .vbuild (commanded (s 1) 5 [0x100])).slotState 0 1 = 2 ∧ (after .vready (commanded (s 2) 6 [0x100])).slotState 0 1 = 1 ∧
    (after .vswitch (commanded { s 1 with job := { (s 1).job with st := .running } } 7 [0x100, 4])).emb.switches = [(0, 1, 4)] ∧
    (after .vready (commanded (s 1) 6 [0x100])).slotState 0 1 = 1 := by decide +kernel

/-! ### More forms and boundaries of the statements -/

/-- A state with the host link trained. -/
def hostOn (s : State) : State := { s with host := { HostPort.reset with trained := true } }

def toHost : State := hostOn (dma 1 0 0x8000000000000000 0 0)

def longRow : State := after (.copy 0) (hostOn (dma 1 0x8000000000000000 0x1000 (596 * 2 ^ 40) 0))

/-- R324: a row into T2 is a posted write, and one of 600 bytes from T2 takes a request of 512 bytes and then one of 88. -/
theorem test_t2_pieces : (toHost.uio 0x8000000000000000 = false ∧ toHost.hostUp = true) ∧
    (after (.copy 0) toHost).bytes 0x8000000000000000 4 = [1, 2, 3, 4] ∧ (after (.copy 0) toHost).host.waiting = [] ∧
    longRow.host.waiting = [⟨0, some 0, 1, 0, 0, 0x8000000000000000, 512, 88, false, false⟩] ∧
    (after (.t2Completion 0 0) longRow).host.waiting = [⟨1, some 0, 1, 0, 0, 0x8000000000000200, 88, 0, false, false⟩] ∧
    (after (.t2Completion 0 0) { longRow with host := { longRow.host with trained := false } }).host.waiting = longRow.host.waiting := by decide +kernel

/-- A COPY of one block from handle 0, of controller 0, whose submission queue is queue 3 with a ring in T2. -/
def disk : State :=
  (((withQueue (hostOn (dma 1 t3Base 0x1000 (508 * 2 ^ 40) 0)) 3 4 0 0 0 0).poke (at0 3 + 8) (leBytes 8 t2Base)).setReg (rNvns 0) (5 * 2 ^ 32 + 1)).setReg
    (rNvctl 0) (2 ^ 12 + 1)

theorem witness_nvme_issue : NoUpsets disk ∧ (let d := DmaDesc.ofWords ((chunks 8 8 (disk.bytes 512 64)).map leVal)
    let k := cmd (8 * 2 ^ 111 + 3 * 2 ^ 28 + 2 ^ 20)
    disk.dmaReject 0 k d = none ∧ disk.gate 0 3 k = .run ∧ disk.nvmeOpen t3Base = some 3 ∧ d.len = 512 ∧ d.rows = 1 ∧ d.planes = 1 ∧
    (disk.desc 3).flagen = false ∧ (disk.desc 3).ring = t2Base ∧ disk.sramOk 0 512 64 = true ∧ disk.job.sizes.2.1 ≤ 4 ∧ disk.mgmt.base = false ∧
    (after (.copy 0) { disk with host := HostPort.reset }).qm.nvme = [⟨0, some 0, 1, 0, 0, t3Base, 512, 0, false, true⟩]) := ⟨⟨rfl, rfl⟩, by decide +kernel⟩

/-- R331: a SEND without room waits; R318, R333: a TILEOUT ring, or an arriving entry's ring, beyond a link that is down waits. -/
theorem test_queues_wait : let full := withQueue (queued 5 (qm 1)) 3 2 0 0 16 0
    let far := fun (q cls rsend tail : Nat) => (withQueue (on Tile.reset) q cls rsend 0 tail 0).poke (at0 q + 8) (leBytes 8 t2Base)
    let b := MsgBody.qmsg 4 0 (List.replicate 64 7)
    ((full.desc 3).room = 0 ∧ full.sendsTo 3 = [] ∧ full.farWaits (full.desc 3).ring = false ∧ full.qmReject 0 (cmd (qm 1)) = none) ∧
    ((after (.send 0) full).tile 0).active[5].map (·.done) = [false] ∧
    (far 3 2 0 1).farWaits ((far 3 2 0 1).desc 3).ring = true ∧ (after (.tileoutForward 3) (far 3 2 0 1)).inbox = [] ∧
    (after (.qmsg (msg b)) (got (far 4 1 1 0) b)).inbox = [msg b] := by decide +kernel

/-- A row update that waits in table 0's inbound ring, queue 5, and one that the ring held back. -/
def staged : State :=
  let b := MsgBody.rowUpdate 0 17 1 false [5, -1, 0, 0]
  let s := got (summing wide) b
  withQueue { s with job := { s.job with img := s.job.img.map (fun i => { i with queues := [(5, [3 * 2 ^ 60])] }) }, qm := { s.qm with backlog := [msg b] } }
    5 3 0 0 0 0

/-- R340: the update leaves its ring, and the next enters as ⌈(32 + 48) / 64⌉ = 2 entries, whose first byte is MTYPE's place in its header. -/
theorem test_staging : let b := MsgBody.rowUpdate 0 17 1 false [5, -1, 0, 0]
    let u := after (.rowUpdate (msg b)) staged
    (staged.rowRing (msg b) 0 = some 5 ∧ staged.inRing 5 0 = [msg b] ∧ rowEntries (msg b) = 2 ∧ (staged.desc 5).log2n = 4 ∧ staged.writesStop = false) ∧
    u.inbox = [msg b] ∧ u.qm.backlog = [] ∧ u.bytes 0x40000002000 4 = [0x30, 0, 0, 0x10] ∧ u.ringTail 5 = 2 := by decide +kernel

/-- Context 0 serves generation steps alone, in a job of one generation step and one learning step in turn. -/
def phased (p : StepPos) (m : CtxMode) (w : Wait) : State :=
  { on (Tile.reset.setCtx 0 { Ctx.reset with mode := m, step := p, wait := w }) with
    job := job { image [{ section0 [0] with genCtxs := [0] }] [] [] [] with phase := some (1, 1) } }

/-- R214: after `done` of step 0 the context waits at the decision of step 1, goes on waiting through its delivery, and runs in step 0's. -/
theorem test_phases : let d := phased .decidedCommit .run .none
    let at' := fun (n : Nat) => let s := phased .arrived .wait (.decision 0); { s with step := { s.step with no := n + 1, decision := some (.commit, n, 0) } }
    (d.offPhase l0 0 = false ∧ d.offPhase l0 1 = true ∧ d.replaying l0 = false) ∧
    ((after (.stepCommitDone l0 yes) d).ctx l0).mode = .wait ∧ ((after (.stepCommitDone l0 yes) d).ctx l0).step = .arrived ∧
    ((after (.stepDecisionDelivery 0) (at' 0)).ctx l0).mode = .run ∧ ((after (.stepDecisionDelivery 0) (at' 1)).ctx l0).mode = .wait ∧
    ((after (.stepDecisionDelivery 0) (at' 1)).ctx l0).epoch = 1 := by decide +kernel

/-- R411: with the route book full an `arrive` is held. -/
theorem test_book_full : let s := { stepping .start none with book := { RouteBook.reset with full := true } }
    (after (.stepCommitArrive l0 yes) s).book.held = [(0, 0)] ∧ ((after (.stepCommitArrive l0 yes) s).ctx l0).step = .start := by decide

/-- R293: the headers of the manual's example, its first flit, its last, and the two that device 30 sends. -/
theorem test_headers : let h := fun (dst : Nat) (mc som eom : Bool) (plen hops : Nat) =>
      ({ ftype := 1, vc := 4, dst := dst, src := 17, mc := mc, som := som, eom := eom, plen := plen, hops := hops, payload := [],
         seq := 0, ack := 0, crvc := 0, crn := 0 } : WireFlit).header 0
    h 42 true true false 240 0 = 0x18054023BC000000 ∧ h 42 true false true 80 0 = 0x1805402354000000 ∧
    h 42 false true false 240 1 = 0x18054022BC010000 ∧ h 43 false true false 240 1 = 0x18056022BC010000 := by decide

/-- R293, R294, R299, R300, R316: a message in one flit is received as it was sent; one byte changed, its CRC fails. -/
theorem test_wire : let m := { msg (.tally 3 7) with src := 9, dst := 12, step := 5 }
    let w : WireFlit := { ftype := 1, vc := 0, dst := 12, src := 9, mc := false, som := true, eom := true, plen := 32, hops := 0, payload := m.bytes 0,
                          seq := 3, ack := 99, crvc := 0, crn := 0 }
    let u := fun (bs : List Byte) => after (.flitReceived 0 ⟨bs, false, 2, 1⟩) (linked up)
    ((u (w.bytes 0)).link 0).ready = [m] ∧ (u (w.bytes 0)).reg (rLnkCnt 0 0x048) = 1 ∧ (u (w.bytes 0)).reg (rLnkCnt 0 0x058) = 1 ∧
    ((u (w.bytes 0)).link 0).rxSeq = 4 ∧ (u (1 :: (w.bytes 0).drop 1)).reg (rLnkCnt 0 0x060) = 1 ∧ ((u (1 :: (w.bytes 0).drop 1)).link 0).ready = [] := by
  decide +kernel

/-- R305, R310, R403: a multicast of which one copy is this device's is split, a CALL is consumed as it arrives, and a Birov-mode port drops
what it does not carry and what neither end sends to the other. -/
theorem test_delivery_forms : let at9 := fun (x : Msg) => linked { up with ready := [x] }
    let m := { msg (.qmsg 4 0 (List.replicate 64 7)) with src := 9, mc := true, dst2 := 9, vc := 4 }
    let c := { msg (.belay .call) with src := 9, vc := 4, step := 7 }
    let birov := fun (x : Msg) => (at9 x).setReg (rLnkCfg 0) 0x48
    let t := { msg (.tally 3 7) with src := 9 }
    let r := { msg .rejoin with src := 9 }
    (after (.messageDelivery 0 m) (at9 m)).inbox = [{ m with mc := false, hops := 1, dst2 := 0 }] ∧
    (after (.messageDelivery 0 m) (at9 m)).reg (rLnkCnt 0 0x078) = 1 ∧
    (after (.messageDelivery 0 c) { at9 c with job := job (image [] [] [] []) }).cairn.next = 7 ∧
    (after (.messageDelivery 0 t) (birov t)).reg (rLnkCnt 0 0x098) = 1 ∧ (after (.messageDelivery 0 r) (birov r)).inbox = [r] ∧
    (after (.messageDelivery 0 { r with dst := 3 }) (birov { r with dst := 3 })).reg (rLnkCnt 0 0x098) = 1 := by decide +kernel

/-- R338: a decision of HALT ends the job that a STOP waits for. -/
theorem test_halt_ends : let s := got (voting Tile.reset { StepState.reset with jobRec := some ⟨0, 1, 0, 0⟩ }) (.stepReport 5)
    (after (.stepReport (msg (.stepReport 5))) { s with job := { s.job with stopReq := some (1, 7) } }).job.st = .loaded := by decide +kernel

/-- R363: a feed failure, or a trip, that comes while the last is in its crossing sets its overrun bit; one that comes two aon cycles later is
counted, and is no second entry. -/
theorem test_overrun : let f := after (.feedFailure 37999 37999) (on Tile.reset)
    let t := after (.thermalTrip 0) (on Tile.reset)
    let two := fun (s : State) => { s with aon := s.aon + 2 }
    ((after (.feedFailure 37000 37000) f).reg rXovr = 8 ∧ (after (.thermalTrip 1) t).reg rXovr = 16) ∧
    (two f).crossingBusy f.power.feedAt = false ∧ f.power.taper = true ∧ (after (.feedFailure 37000 37000) (two f)).reg rXovr = 0 ∧
    (after (.feedFailure 37000 37000) (two f)).reg rCntFeed = 2 ∧ (after (.feedFailure 37000 37000) (two f)).log.next = f.log.next ∧
    (after (.thermalTrip 1) (two t)).reg rCntTtrip = 2 ∧ (after (.thermalTrip 1) (two t)).sluice.tripped = [0, 1] := by decide +kernel

/-- R32, R341: while writes stop no message is taken and no window is written; while the host link is insecure no host access is served. -/
theorem test_stopped : let t := after (.thermalTrip 0) (on Tile.reset)
    let w := { pair (.belay .ask) with power := t.power }
    let u := { on Tile.reset with host := { HostPort.reset with ide := 2 } }
    (t.writesStop = true ∧ (after (.ask (from9 (.belay .ask))) w).cairn.early = false ∧ (after (.hostWindowWrite 0x3FFFFFFF [7]) t).mem = []) ∧
    u.serves 1 = false ∧ u.serves 2 = true ∧ (after (.doorbell 3 8 1) u).log.next = 0 := by decide +kernel

/-- R358: the input's return ends the hold of a device reset. -/
theorem test_restored : let s := on Tile.reset
    (after .inputRestored { s with power := { s.power with stage := .hold }, rst := { Recovery.reset with phase := .hold } }).rst.phase = .restart := by
  decide +kernel

/-- R420: a partner lost while it feeds a START's fill ends the job; one that was reset is asked again. R395: a copy waits for the host link. -/
theorem test_fill_again : let m := { from9 .rejoin with step := 12 }
    let s := fun (k c : Nat) => { pair .rejoin with inbox := [m], cairn := { CairnState.reset with lastC := c },
                                                    belay := { BelayState.reset with fill := k, fillLeft := [wholeStream] } }
    let u := { on Tile.reset with rst := { Recovery.reset with copyBusy := true } }
    (after (.rejoin m) (s 2 12)).job.st = .loaded ∧ (after (.rejoin m) (s 2 11)).job.st = .running ∧
    (after (.rejoin m) (s 2 11)).belay.fill = 2 ∧ (after (.dumpCopyDone true) u).rst.copyBusy = true := by decide +kernel

/-- R382: the accepted commands of a hung engine stop. -/
theorem test_hang_stops (x : Tile) : ((x.stopUnit 1).active[0]).all (·.stopped) = true := by
  simp [Tile.stopUnit]

/-- A copy of a dump slot with an uncorrectable burst meets the hypotheses of that case (R395). -/
theorem witness_dump_copy : let s := { on Tile.reset with
      upset := [(t1End - 16 * 2 ^ 24, 2)], host := { HostPort.reset with trained := true }, rst := { Recovery.reset with copyBusy := true } }
    s.hostUp = true ∧ s.rst.copyBusy = true ∧ (∃ w ∈ burstsOf (t1End - 16 * 2 ^ 24) (16 * 2 ^ 23), 2 ≤ s.upset.get (fun _ => 0) w) ∧ ∀ w, s.upset.get (fun _ => 0) w ≠ 1 := by
  refine ⟨by decide, rfl, ⟨t1End - 16 * 2 ^ 24, ?_, by decide⟩, fun w => ?_⟩
  · refine List.mem_map.mpr ⟨0, List.mem_range.mpr (by decide), by decide⟩
  · simp only [SMap.get]
    repeat' split
    all_goals decide

/-- The hypotheses of `DUMP_SEALED` on the tiles; R357: a reset of cause 3 takes the record and holds. -/
theorem test_feed_reset : let s := { on { Tile.reset with serial := 1 } with rst := { Recovery.reset with trigger := some (3, 1) } }
    SMap.wf (fun _ => Tile.reset) s.tiles = true ∧ (after .deviceResetBegin s).rst.phase = .hold ∧ (after .deviceResetBegin s).rst.feedRec.isSome = true := by
  decide +kernel

/-- R318, R462: START and LOAD of what lies in T2 wait while the host link serves nothing; START keeps a parked context parked. -/
theorem test_host_waits : let s := commanded { on Tile.reset with job := { job baseJob with st := .loaded, members := [] } } 2 [5, 1, 0x8000000000005000, 1]
    let p := startable.updCtx l0 (fun c => { c with mode := .parked })
    s.farWaits 0x8000000000005000 = true ∧ (after .start s).job.st = .loaded ∧ (after .start s).peek (at0 1 + 20) 4 = 0 ∧
    (after (.load .malformed) (commanded (on Tile.reset) 1 [0x8000000000000000, 64])).peek (at0 1 + 20) 4 = 0 ∧
    ((after .start p).ctx l0).mode = .parked ∧ ((after .start startable).ctx l0).mode = .run := by decide +kernel

/-- A fill of device 0 by its partner, device 9, with one message of it. -/
def filled (mode : Nat) (b : BelayBody) : State :=
  { pair (.belay b) with belay := { BelayState.reset with fill := mode, fillLeft := [wholeStream] } }

/-- R417: a fill's shadow and its records, which a reset takes only when it has lost its route book. -/
theorem test_fill_items : (after (.shadow (from9 (.belay (.shadow 0 64 [5] 1)))) (filled 3 (.shadow 0 64 [5] 1))).book.shadow.get (fun _ => 0) 64 = 5 ∧
    (after (.rtbrec (from9 (.belay (.rtbrec ⟨4, 0, 0, 3, 0, [1]⟩ 1)))) (filled 2 (.rtbrec ⟨4, 0, 0, 3, 0, [1]⟩ 1))).book.recs.length = 1 ∧
    (after (.rtbrec (from9 (.belay (.rtbrec ⟨4, 0, 0, 3, 0, [1]⟩ 1)))) (filled 3 (.rtbrec ⟨4, 0, 0, 3, 0, [1]⟩ 1))).book.recs.length = 0 := by
  decide +kernel

/-- R417: the end of a START's fill puts the device in the cairn's step, and the START completes. -/
theorem test_fills : let b := BelayBody.fill 1 63 3 1099511627775 []
    let s := filled 2 b
    let e := { s with cairn := { CairnState.reset with lastC := 12 }, belay := { s.belay with fed := [9] }, job := { s.job with startReq := some (1, 7) } }
    (after (.belayFill (from9 (.belay b))) e).step.no = 12 ∧ (after (.belayFill (from9 (.belay b))) e).job.startReq = none := by decide +kernel

/-- R7: EMB_SPILL takes a range of T1 and refuses one that ends beyond it; a half is judged by what it holds. -/
theorem test_spill_reserved : let s := on Tile.reset
    (after (.registerWrite (.bar0 0x8) 4 7) s).log.next = 0 ∧ s.tileReserved 0 6 0x008 (2 ^ 64 - 1) 0 = false := by decide +kernel

/-! ### Witnesses of further hypotheses -/

/-- Nothing waits after reset (`HostLink`, `BringUp`). -/
theorem witness_quiet : Quiet (on Tile.reset) ∧ (on Tile.reset).qm.held = [] ∧ (on Tile.reset).qm.rung = [] ∧ (on Tile.reset).cairn.st ≠ 3 :=
  ⟨⟨by simp [on, State.reset, HostPort.reset], by simp [on, State.reset, QmState.reset], rfl, by simp [on, State.reset, EmbState.reset], rfl, rfl⟩,
    rfl, rfl, by decide⟩

/-- `PowerInput`: a first feed failure, one in its crossing, and one that stands. -/
theorem witness_power : let s := on Tile.reset
    let f := after (.feedFailure 37999 37999) s
    (s.power.feedFail = false ∧ s.crossingBusy s.power.feedAt = false ∧ s.findDeferral 0xB (some 0) = none ∧ s.nextSlot = none) ∧
    (f.power.stage = .hold ∧ f.crossingBusy f.power.feedAt = true ∧ f.feedStands = true) ∧
    ({ f with aon := f.aon + 2 } : State).crossingBusy f.power.feedAt = false ∧ ({ f with aon := f.aon + 2 } : State).feedStands = true := by decide +kernel

/-- `SluiceCommands`: one request waits, and no rim block has anything admitted. -/
theorem witness_sluice : let s := { on Tile.reset with sluice := { Sluice.reset with up := [(0, 1600)] } }
    s.tapering = false ∧ s.power.stage = .good ∧ s.power.closing = false ∧ s.drained = false ∧
    (List.range 36).all (fun i => decide (s.budget (640 + i) = 0 ∧ s.sluice.target.get (fun _ => 0) (640 + i) = 0)) = true := by decide +kernel

/-- fromDisk with a submission queue, queue 3, and its completion queue, queue 6. -/
def drive : State :=
  ((withQueue (withQueue fromDisk 3 4 0 0 1 0) 6 5 0 0 0 0).poke (at0 3 + 32) (leBytes 8 (6 * 2 ^ 23))).poke (at0 6 + 8) (leBytes 8 0x40000003000)

/-- `NvmeCommands`: the completion queue takes an entry. -/
theorem witness_drive : drive.hostUp = true ∧ drive.writesStop = false ∧ drive.nvmeSq 0 = some 3 ∧ (drive.desc 3).pair = 6 ∧
    (let cq := drive.desc 6
     cq.cls = 5 ∧ cq.head = cq.tail ∧ t1Base ≤ cq.ring ∧ cq.ring + 16 * 2 ^ cq.log2n ≤ (drive.dtab).1) ∧ drive.job.sizes.2.1 ≤ 4 ∧
    drive.qm.nvme.map (fun r => (r.tag, r.held)) = [(5, false)] := by decide +kernel

/-- R339: an entry with the right phase tag is taken, HEAD goes to the controller and the submission entry is free; one of the last round is not. -/
theorem test_completion_queue : let s := fun (w : Nat) => (drive.poke (at0 6 + 16) (leBytes 4 1)).poke 0x40000003000 (leBytes 8 9 ++ leBytes 8 (w * 2 ^ 32))
    let y := (s (5 + 2 ^ 16)).takeCq t3Base
    y.2 = some (5, 0) ∧ y.1.peek (at0 6 + 20) 4 = 1 ∧ y.1.peek (at0 3 + 20) 4 = 1 ∧ y.1.out.length = 1 ∧ ((s 5).takeCq t3Base).2 = none ∧
    ((s (5 + 2 ^ 16 + 3 * 2 ^ 17)).takeCq t3Base).2 = some (5, 3) := by decide +kernel

/-- `NvmeCommands`: the entry of a command that timed out. -/
theorem witness_late : let s := after (.nvmeTimeout 5) drive
    s.qm.nvme = [] ∧ s.qm.late.map (·.tag) = [5] ∧ s.hostUp = true ∧ s.nvmeSq 0 = some 3 ∧ (s.desc 6).head = (s.desc 6).tail := by decide +kernel

/-- `TileBoundaries`: a rejoin of the newest complete cairn on a device with a partner. -/
theorem witness_rollback : let m := from9 .rejoin
    let s := { pair .rejoin with step := { StepState.reset with no := 5 } }
    s.inbox = [m] ∧ s.belay.fill = 0 ∧ m.step = s.cairn.lastC ∧ m.step < s.curStep ∧ s.partner = some 9 ∧ s.changedRows = [] ∧
    s.anyPeerDown = false ∧ (after (.rejoin m) s).cairn.st = 6 ∧ (after (.rejoin m) s).belay.fill = 1 ∧ (after (.rejoin m) s).step.no = 0 := by decide +kernel

/-- `TileBoundaries`: a tile that may pass, one whose context outside the step set is HELD, and a fill of this device by the one that comes back. -/
theorem witness_boundary : let s := (crossing .commit 0 1).updTile 0 (fun x => { x with decision := some .commit, passed := false, bounds := 0 })
    let v := s.updCtx l0 (fun c => { c with epoch := 1, step := .start })
    let h := v.updCtx ⟨0, 1⟩ (fun c => { c with mode := .held })
    (v.stepCtxs 0 = [0] ∧ (v.tile 0).bounds < (v.ctx l0).epoch ∧ v.gatedLeft 0 = false ∧ v.gatherOut 0 = false ∧ v.writesStop = false ∧
      v.markWaits 0 0 = false) ∧
    ((h.ctx ⟨0, 1⟩).mode = .held ∧ (1 : CtxId) ∉ h.stepCtxs 0 ∧ (h.tile 0).search = none) ∧
    (pair .rejoin).holder wholeStream = some 9 := by decide +kernel

/-- `ErrorHandling`: an error past the commit point, and a HANG entry with its expiry and without. -/
theorem witness_errors : let s := (erring 3 1 0 (2 ^ 31 + 0x400) 15)
    let p := { s with step := { s.step with decision := some (.commit, 0, 0), no := 1 } }
    (p.struckTile ⟨0, 3, 1, 0, 0, 0, 0, 0, 0, 0, 0, 0, 15, 2 ^ 31 + 0x400, 0, 0⟩ = 0 ∧ (p.tile 0).passed = false ∧ p.early 0 = false ∧
      p.tmemFatal 0 (2 ^ 31 + 0x400) = false ∧ p.step.finished = []) ∧
    (hung.pendingEntry.map (·.seq) = some 0 ∧ (hung.tile 0).expired.map (·.seq) = [0] ∧ hung.pastCommit = false ∧ (hung.tile 0).search = none) ∧
    ((erring 8 1 0 0 1).tile 0).expired.length = 0 := by decide +kernel

/-- A device reset that reloads a base camp job's image, and one of an image of 64 bytes in T1 whose digest is right. -/
def reloading : State :=
  let i := { image [section0 [0]] [] [] [] with headerLen := 64, digestAt := 32, redHeader := [0x800000000] }
  { (on Tile.reset).poke 0x40000000020 (beBytes 32 0xe0bab8f4d8172ba245190d13c94117e93b82166c25b2b69883350c192c905140) with
    job := { job i with addr := 0x40000000000, len := 64, ident := 0xe0bab8f4d8172ba245190d13c94117e93b82166c25b2b69883350c192c905140 },
    rst := { Recovery.reset with phase := .reload } }

/-- `DeviceReset`: the reload's image is the one that was loaded; past its commit point the device goes on to its recovery. -/
theorem witness_reload : (reloading.job.img.map (fun j => decide (imageDigest j (reloading.bytes 0x40000000000 64) = reloading.job.ident ∧
      imageCarried j (reloading.bytes 0x40000000000 64) = reloading.job.ident))) = some true ∧
    reloading.belay.fill = 0 ∧ reloading.rst.bad = [] ∧ tierOf reloading.job.addr = .t1 ∧
    (after (.jobImageReload (.image (reloading.job.img.getD baseJob)))
      { reloading with step := { StepState.reset with decision := some (.commit, 0, 0), no := 1 } }).rst.phase = .recovering := by decide +kernel

/-- `DeviceReset`: T1 verified, with the dump's seal bad, and with the job's memory lost. -/
theorem witness_verified : let s := fun (b : State) => { b with
      rst := { Recovery.reset with phase := .restart, dumpValid := 1 }, mgmt := { Mgmt.reset with joined := List.range 24 } }
    (s (on Tile.reset)).sealOk 0 = false ∧ (after (.t1Verified []) (s (pair .rejoin))).rst.bad = [0] ∧
    (after (.t1Verified [2]) (s (pair .rejoin))).belay.fill = 3 := by
  decide +kernel

/-- `BelayExchange`: a row that the store holds for a ward, one that it does not, a gathered row of the commit before a cairn, and a feed that
completes a START. -/
theorem witness_exchange : let u := { pair (.belay (.fillreq 0 0 17)) with belay := { BelayState.reset with store := [⟨9, 0, .row 0 0 17 [1, 2]⟩] } }
    let e := { pair (.belay (.feed 7)) with job := { (pair (.belay (.feed 7))).job with startReq := some (1, 7) } }
    ((u.wardItems 9).find? (fun i => i.same (.row 0 0 17 [])) = some (.row 0 0 17 [1, 2]) ∧ (u.wardItems 9).find? (fun i => i.same (.row 0 0 18 [])) = none) ∧
    (u.gathered 0 = false ∧ u.fillsBook = false ∧ (filled 2 .ask).fillsBook = true) ∧
    (9 ∈ u.wards ∧ u.writesStop = false ∧ u.job.st = .running) ∧ (e.fedAll = false ∧ (after (.feed (from9 (.belay (.feed 7)))) e).job.startReq = none) := by
  decide +kernel

/-- `CairnCommands`, `LinkTransport`: nothing waits before a message to device 9. -/
theorem witness_behind : (linked up).behind (ownMsg (linked up) 9 1 0 (.belay .call)) = false ∧
    (pair .rejoin).others = [9] ∧ (pair .rejoin).job.stopReq = none := by decide +kernel

/-- `HostCommands`: a START and a VREADY that wait for nothing, and a STOP that ends at once. -/
theorem witness_host_commands : startable.farWaits 0x40000005000 = false ∧ wfld (startable.reg (hubReg 9 0x030)) 1 0 = 0 ∧
    startable.hostReadable 0x40000005000 8 = true ∧ startable.streamWaits 0 = false ∧ (stoppable []).stepTiles = [0] ∧ (stoppable [1]).pastCommit = false := by
  decide +kernel

/-! ### The machine as a whole -/

theorem test_idle : step State.reset = .next State.reset := rfl

theorem test_step : step { State.reset with pending := [.modEnRise, .powerLost] } = exec .modEnRise { State.reset with pending := [.powerLost] } := rfl

/-- Reset: memory in its canonical form, MODE 1, 250,000 for the hang window, no job. -/
theorem test_reset_values : Memory.wf State.reset = true ∧ State.reset.view 0x200010000 = 1 ∧ State.reset.view 0x200040000 = 250000 ∧
    State.reset.job.st = .empty := by decide

theorem test_core : core.step = step ∧ core.reset = State.reset := ⟨rfl, rfl⟩

end Sys2Proof.Tests
end

section
/-! What the writing of an error log entry and its event leaves: every tile, and every register below the hub's blocks. -/
namespace Sys2Proof.Proofs

open Sys2Proof Sys2Proof.Machine Sys2Proof.Laws

/-- No tile has changed, and no register below the hub's blocks. -/
def TilesKept (s t : State) : Prop := t.tiles = s.tiles ∧ ∀ a, a < hubBase → t.reg a = s.reg a

theorem tilesKept_of_same {s t : State} (h : t.tiles = s.tiles) (k : t.regs = s.regs) : TilesKept s t :=
  ⟨h, fun a _ => congrArg (fun m => SMap.get regReset m a) k⟩

theorem tilesKept_refl (s : State) : TilesKept s s := tilesKept_of_same rfl rfl

theorem tilesKept_trans {s t u : State} (h : TilesKept s t) (k : TilesKept t u) : TilesKept s u :=
  ⟨k.1.trans h.1, fun a ha => (k.2 a ha).trans (h.2 a ha)⟩

theorem tilesKept_ite {s t u : State} {c : Prop} [Decidable c] (h : TilesKept s t) (k : TilesKept s u) :
    TilesKept s (if c then t else u) := by
  split
  · exact h
  · exact k

theorem tilesKept_tile {s t : State} (h : TilesKept s t) (n : Nat) : t.tile n = s.tile n := by rw [State.tile, h.1, State.tile]

theorem tilesKept_ctx {s t : State} (h : TilesKept s t) (l : Loc) : t.ctx l = s.ctx l := by rw [State.ctx, tilesKept_tile h, State.ctx]

/-- The hub's and the rim's registers lie above those of the tiles (R157, R160). -/
theorem hubBase_le_hubReg (k off : Nat) : hubBase ≤ hubReg k off := by unfold hubReg; omega

theorem hubBase_le_rXovr : hubBase ≤ rXovr := hubBase_le_hubReg 0 8

/-- The registers of the tiles lie below those of the hub and the rim (R157, R160). -/
theorem tileReg_lt_hubBase (t : TileId) {b off : Nat} (hb : b < 16) (ho : off < 0x1000) : tileReg t b off < hubBase := by
  have := t.isLt
  unfold tileReg tileSpan hubBase
  omega

theorem rCflt_lt_hubBase (l : Loc) : rCflt l.tile l.ctx < hubBase :=
  tileReg_lt_hubBase l.tile (by decide) (by have := l.ctx.isLt; omega)

theorem rCntInsn_lt_hubBase (t : TileId) : rCntInsn t < hubBase := tileReg_lt_hubBase t (by decide) (by decide)

theorem tilesKept_setHubReg (s : State) (k off : Nat) (v : Word) : TilesKept s (s.setReg (hubReg k off) v) :=
  ⟨rfl, fun a ha => by rw [reg_setReg, if_neg (by have := hubBase_le_hubReg k off; omega)]⟩

theorem tilesKept_countHub (s : State) (k off n : Nat) : TilesKept s (s.count (hubReg k off) n) := tilesKept_setHubReg s k off _

/-! ### The entry -/

/-- The event of an entry changes its overrun register at most. -/
theorem reg_crossEvent (s : State) (e : LogEntry) {a : Nat} (h : a ≠ rXovr) : (s.crossEvent e).reg a = s.reg a := by
  unfold State.crossEvent
  split
  · rfl
  · dsimp only
    split
    · exact (reg_setReg s rXovr a _).trans (if_neg h)
    · rfl

/-- The writing of an entry changes the log, the pending device reset and, by `crossEvent`, a register, but nothing else. -/
theorem writeLog_frame (s : State) (e : LogEntry) : ∃ l r, s.writeLog e = { s.crossEvent e with log := l, rst := r } := by
  unfold State.writeLog
  dsimp only
  split
  · unfold State.escalate
    split
    · split
      · exact ⟨_, _, rfl⟩
      · exact ⟨_, _, rfl⟩
    · exact ⟨_, _, rfl⟩
  · exact ⟨_, _, rfl⟩

theorem reg_writeLog (s : State) (e : LogEntry) {a : Nat} (h : a ≠ rXovr) : (s.writeLog e).reg a = s.reg a := by
  obtain ⟨l, r, w⟩ := writeLog_frame s e
  rw [w]
  exact reg_crossEvent s e h

theorem writeLog_tilesKept (s : State) (e : LogEntry) : TilesKept s (s.writeLog e) := by
  refine ⟨?_, fun a ha => reg_writeLog s e (by have := hubBase_le_rXovr; omega)⟩
  obtain ⟨l, r, w⟩ := writeLog_frame s e
  rw [w, crossEvent_eq]

theorem writeLog_byte (s : State) (e : LogEntry) (a : Nat) : (s.writeLog e).byte a = s.byte a := by
  obtain ⟨l, r, w⟩ := writeLog_frame s e
  rw [w, crossEvent_eq]
  rfl

/-! ### The event -/

theorem flagUpdate_tilesKept (s : State) (d : QDesc) (tail : Nat) : TilesKept s (s.flagUpdate d tail) := by
  unfold State.flagUpdate
  extract_lets fb flags line bs old
  exact tilesKept_ite (tilesKept_ite (tilesKept_of_same rfl rfl) (tilesKept_of_same rfl rfl)) (tilesKept_refl s)

theorem append_tilesKept (s : State) (q : Nat) (e : List Byte) : TilesKept s (s.append q e) := by
  unfold State.append
  extract_lets d tail
  exact tilesKept_trans (tilesKept_of_same (by simp) (by simp)) (flagUpdate_tilesKept _ _ _)

theorem putEvent_tilesKept (s : State) (q : Nat) (e : List Byte) : TilesKept s (s.putEvent q e) := by
  unfold State.putEvent
  extract_lets d held
  exact tilesKept_ite (append_tilesKept s q e) (tilesKept_ite (tilesKept_of_same rfl rfl)
    (tilesKept_trans (tilesKept_of_same rfl rfl) (tilesKept_countHub _ 5 0x118 1)))

theorem cacheUse_tilesKept (s : State) (q : Nat) : TilesKept s (s.cacheUse q) := by
  unfold State.cacheUse
  extract_lets c victim c'
  exact tilesKept_ite (tilesKept_of_same rfl rfl) (tilesKept_trans (tilesKept_of_same rfl rfl) (tilesKept_countHub _ 5 0x100 1))

theorem countBurst_tilesKept (s : State) (a : Nat) : TilesKept s (s.countBurst a).1 := by
  have h : TilesKept s (({ s with upset := s.upset.put (fun _ => 0) a 0 } : State).count (hubReg 4 0x070) 1) :=
    tilesKept_trans (tilesKept_of_same rfl rfl) (tilesKept_countHub _ 4 0x070 1)
  exact tilesKept_trans h (tilesKept_of_same rfl rfl)

theorem logFetch_tilesKept (s : State) (lost : Option Nat) (e : LogEntry) : TilesKept s (s.logFetch lost e) := by
  unfold State.logFetch
  extract_lets u d
  exact tilesKept_ite (writeLog_tilesKept s e) (tilesKept_trans (writeLog_tilesKept s e) (putEvent_tilesKept _ _ _))

theorem fetchDesc_tilesKept (s : State) (q : Nat) : TilesKept s (s.fetchDesc q).1 := by
  unfold State.fetchDesc
  split
  · exact cacheUse_tilesKept s q
  · split
    · exact cacheUse_tilesKept s q
    · have h := countBurst_tilesKept s (s.descAt q)
      exact tilesKept_trans (tilesKept_ite (tilesKept_trans h (logFetch_tilesKept _ _ _)) h) (cacheUse_tilesKept _ q)
    · exact tilesKept_countHub s 5 0x100 1

theorem postTo_tilesKept (s : State) (q : Nat) (e : List Byte) : TilesKept s (s.postTo q e) :=
  have h := fetchDesc_tilesKept s q
  tilesKept_ite (tilesKept_refl s) (tilesKept_ite (tilesKept_trans h (putEvent_tilesKept _ _ _))
    (tilesKept_trans h (logFetch_tilesKept _ _ _)))

/-- The log and its events touch no tile. -/
theorem logEntry_tilesKept (s : State) (e : LogEntry) : TilesKept s (s.logEntry e) :=
  have h := writeLog_tilesKept s e
  tilesKept_ite h (tilesKept_trans h (postTo_tilesKept _ _ _))

/-! ### The log after an event whose queue's descriptor has no error -/

theorem flagUpdate_log (s : State) (d : QDesc) (tail : Nat) : (s.flagUpdate d tail).log = s.log := by
  unfold State.flagUpdate
  extract_lets fb flags line bs old
  split
  · split <;> rfl
  · rfl

theorem append_log (s : State) (q : Nat) (e : List Byte) : (s.append q e).log = s.log := by
  unfold State.append
  extract_lets d tail
  rw [flagUpdate_log, setTail_log, pokeBurst_log]

theorem putEvent_log (s : State) (q : Nat) (e : List Byte) : (s.putEvent q e).log = s.log := by
  unfold State.putEvent
  extract_lets d held
  split
  · exact append_log s q e
  · split <;> rfl

theorem cacheUse_log (s : State) (q : Nat) : (s.cacheUse q).log = s.log := by
  unfold State.cacheUse
  extract_lets c victim c'
  split <;> rfl

/-- The fetch of a descriptor without an error succeeds (R326). -/
theorem fetchDesc_clean (s : State) (q : Nat) (h : s.upset.get (fun _ => 0) (s.descAt q) = 0) : s.fetchDesc q = (s.cacheUse q, true) := by
  unfold State.fetchDesc
  split
  · rfl
  · rw [h]
    rfl

theorem postTo_log (s : State) (q : Nat) (e : List Byte) (h : s.upset.get (fun _ => 0) (s.descAt q) = 0) :
    (s.postTo q e).log = s.log := by
  unfold State.postTo
  rw [fetchDesc_clean s q h]
  dsimp only
  split
  · rfl
  · rw [if_pos rfl, putEvent_log, cacheUse_log]

/-! ### What an entry is judged by -/

/-- The default event queue after the writing of an entry. -/
theorem evq_writeLog (s : State) (e : LogEntry) : (s.writeLog e).evq = s.evq := by
  rw [State.evq, reg_writeLog s e (by decide), State.evq]

/-- Two states with the same descriptors in memory. -/
theorem desc_congr {s t : State} (hm : t.mem = s.mem) (hu : t.undef = s.undef) (hj : t.job = s.job) (q : Nat) : t.desc q = s.desc q := by
  have hb : t.byte = s.byte := by
    funext a
    rw [State.byte, hm, hu, State.byte]
  have hp : t.peek = s.peek := by
    funext a n
    rw [State.peek, State.bytes, hb, State.peek, State.bytes]
  have hd : t.descAt q = s.descAt q := by simp only [State.descAt, State.dtab, State.dumpRegion, hj]
  have hq : t.queueExists q = s.queueExists q := by rw [State.queueExists, hj, State.queueExists]
  rw [State.desc, hp, hd, hq, State.desc]

theorem noEventQueue_congr {s t : State} (hm : t.mem = s.mem) (hu : t.undef = s.undef) (hj : t.job = s.job)
    (he : t.reg rEvq = s.reg rEvq) (h : NoEventQueue s) : NoEventQueue t := by
  rw [NoEventQueue, desc_congr hm hu hj, State.evq, he]
  exact h

theorem logRoom_congr {s t : State} (hl : t.log = s.log) (hu : t.upset = s.upset) (hj : t.job = s.job)
    (he : t.reg rEvq = s.reg rEvq) (h : LogRoom s) : LogRoom t := by
  have hd : t.descAt t.evq = s.descAt s.evq := by
    simp only [State.descAt, State.dtab, State.dumpRegion, State.evq, hj, he]
  refine ⟨fun e => ?_, ?_⟩
  · rw [State.nextSlot, hl]
    exact h.1 e
  · rw [hu, hd]
    exact h.2

theorem logged_congr {s t u : State} {e : LogEntry} (hl : t.log = s.log) (ha : t.aon = s.aon) (hs : t.step = s.step)
    (h : Logged e t u) : Logged e s u := by
  unfold Logged at h ⊢
  rwa [hl, ha, hs] at h

/-- An entry for which there is room stands in the log, whatever its event does. -/
theorem logEntry_logged_of_room (s : State) (e : LogEntry) (r : LogRoom s) : Logged e s (s.logEntry e) := by
  have w : s.writeLog e = { s.crossEvent e with log := logWith s e } := writeLog_eq s e r
  have hd : (s.writeLog e).upset.get (fun _ => 0) ((s.writeLog e).descAt (s.writeLog e).evq) = 0 := by
    rw [evq_writeLog, w, crossEvent_eq]
    exact r.2
  have hl : (s.logEntry e).log = logWith s e := by
    unfold State.logEntry State.post
    split
    · rw [w]
    · rw [postTo_log _ _ _ hd, w]
  refine ⟨?_, ?_, fun i hi => ?_⟩
  · rw [hl]; rfl
  · rw [hl]; exact (logWith_get s e _).trans (if_pos rfl)
  · rw [hl]; exact (logWith_get s e i).trans (if_neg hi)

/-- With no EVENT queue an entry is all that is written. -/
theorem logEntry_eq_writeLog (s : State) (e : LogEntry) (h : NoEventQueue s) : s.logEntry e = s.writeLog e := by
  have k : NoEventQueue (s.writeLog e) := by
    have he := reg_writeLog s e (a := rEvq) (by decide)
    obtain ⟨l, r, w⟩ := writeLog_frame s e
    rw [w, crossEvent_eq] at he ⊢
    exact noEventQueue_congr (s := s) rfl rfl rfl he h
  unfold State.logEntry
  rw [post_none _ k, ite_self]

end Sys2Proof.Proofs
end

section
/-! What a context fault (R153) and an uncorrectable word (R155) leave. -/
namespace Sys2Proof.Proofs

open Sys2Proof Sys2Proof.Machine Sys2Proof.Laws

/-! ### The issue turn -/

theorem reg_issued (s : State) (l : Loc) (a : Nat) :
    (s.issued l).reg a = if a = rCntInsn l.tile then countUp (s.reg (rCntInsn l.tile)) 1 else s.reg a := by
  rw [issued_eq, reg_updTile, reg_count]

theorem reg_issued_ne (s : State) (l : Loc) {a : Nat} (h : a ≠ rCntInsn l.tile) : (s.issued l).reg a = s.reg a := by
  rw [reg_issued, if_neg h]

theorem tile_issued (s : State) (l : Loc) (n : Nat) :
    (s.issued l).tile n = { s.tile n with rr := if n = l.tile.val then l.ctx else (s.tile n).rr } := by
  rw [issued_eq, tile_updTile, tile_count s _ _ l.tile, tile_count s _ _ n]
  split
  · next h => rw [h]
  · rfl

theorem rCflt_ne_rCntInsn (l : Loc) : rCflt l.tile l.ctx ≠ rCntInsn l.tile := by
  have := l.ctx.isLt
  unfold rCflt rCntInsn tileReg
  omega

theorem rCflt_ne_rEccLast (l : Loc) : rCflt l.tile l.ctx ≠ rEccLast l.tile := by
  have := l.ctx.isLt
  unfold rCflt rEccLast tileReg
  omega

theorem hubReg_ne_rCntInsn (t : TileId) (k off : Nat) : hubReg k off ≠ rCntInsn t := by
  have := rCntInsn_lt_hubBase t
  have := hubBase_le_hubReg k off
  omega

theorem hubReg_ne_rCflt (l : Loc) (k off : Nat) : hubReg k off ≠ rCflt l.tile l.ctx := by
  have := rCflt_lt_hubBase l
  have := hubBase_le_hubReg k off
  omega

/-! ### A context fault before its log entry -/

/-- The context stands FAULTED, its queued commands are gone, and TILE_CFLT_Cn holds the first fault; its pins stand and no entry is logged. -/
def faulted (s : State) (l : Loc) (w : Word) : State :=
  let t := s.updTile l.tile (fun x =>
    (x.dropQueued l.ctx).setCtx l.ctx { x.ctxs[l.ctx] with mode := .faulted, wait := .none, clist := none })
  if bitOf (t.reg (rCflt l.tile l.ctx)).toNat 0 then t else t.setReg (rCflt l.tile l.ctx) w

/-- A context fault is the state above without the context's pins, and its CONTEXT entry (R153). -/
theorem ctxFault_eq (s : State) (l : Loc) (cause detail eng op addr : Nat) :
    s.ctxFault l cause detail eng op addr =
      ((faulted s l (cfltWord addr cause detail (if 5 ≤ cause ∧ cause ≤ 8 then eng else 0) op)).dropPins l).logError 2 cause l.tile l.ctx eng
        ((faulted s l (cfltWord addr cause detail (if 5 ≤ cause ∧ cause ≤ 8 then eng else 0) op)).reg (rCflt l.tile l.ctx)).toNat 0 0 :=
  rfl

section
variable (s : State) (l : Loc) (w : Word)

/-- Registers and tiles alone have changed. -/
theorem faulted_regsTilesOnly : RegsTilesOnly s (faulted s l w) := by
  unfold faulted
  generalize rCflt l.tile l.ctx = a
  dsimp only
  split
  · exact regsTiles_setTile s _ _
  · exact regsTiles_trans (regsTiles_setTile s _ _) (regsTiles_setReg _ _ _)

theorem tile_faulted (n : Nat) : (faulted s l w).tile n = if n = l.tile.val then
    ((s.tile l.tile).dropQueued l.ctx).setCtx l.ctx { s.ctx l with mode := .faulted, wait := .none, clist := none } else s.tile n := by
  have h := tile_updTile s l.tile n (fun x =>
    (x.dropQueued l.ctx).setCtx l.ctx { x.ctxs[l.ctx] with mode := .faulted, wait := .none, clist := none })
  unfold faulted
  dsimp only
  split
  · exact h
  · rw [tile_setReg]
    exact h

theorem reg_faulted (a : Nat) : (faulted s l w).reg a =
    if a = rCflt l.tile l.ctx then (if (s.reg a).getLsbD 0 then s.reg a else w) else s.reg a := by
  unfold faulted
  generalize rCflt l.tile l.ctx = r
  have b : bitOf (s.reg r).toNat 0 = (s.reg r).getLsbD 0 := by
    simp [bitOf, BitVec.getLsbD, Nat.testBit_zero]
  dsimp only
  rw [reg_updTile, b]
  split
  · next hb =>
    rw [reg_updTile]
    split
    · next ha => rw [ha, if_pos hb]
    · rfl
  · next hb =>
    rw [reg_setReg, reg_updTile]
    split
    · next ha => rw [ha, if_neg hb]
    · rfl

theorem ctx_faulted_self : (faulted s l w).ctx l = { s.ctx l with mode := .faulted, wait := .none, clist := none } := by
  rw [State.ctx, tile_faulted, if_pos rfl, Tile.setCtx]
  exact Vector.getElem_set_self ..

theorem ctx_faulted_ne {k : Loc} (h : k ≠ l) : (faulted s l w).ctx k = s.ctx k := by
  obtain ⟨lt, lc⟩ := l
  obtain ⟨kt, kc⟩ := k
  simp only [State.ctx, tile_faulted]
  by_cases ht : kt = lt
  · subst ht
    have hc : lc.val ≠ kc.val := fun e => h (by rw [Fin.ext e])
    simp only [if_true, Tile.setCtx]
    exact Vector.getElem_set_ne (h := hc) ..
  · simp only [if_neg (fun e => ht (Fin.ext e) : ¬ kt.val = lt.val)]

end

theorem reg_dropPins (s : State) (l : Loc) (a : Nat) : (s.dropPins l).reg a = s.reg a := by
  rw [State.reg, dropPins_regs, State.reg]

theorem byte_dropPins (s : State) (l : Loc) (a : Nat) : (s.dropPins l).byte a = s.byte a := by
  rw [State.byte, dropPins_mem, dropPins_undef, State.byte]

/-- What a context fault leaves (R153). -/
theorem ctxFault_contextFaulted (s : State) (l : Loc) (cause detail eng op addr : Nat) :
    ContextFaulted l (cfltWord addr cause detail (if 5 ≤ cause ∧ cause ≤ 8 then eng else 0) op) cause eng s
      (s.ctxFault l cause detail eng op addr) := by
  rw [ctxFault_eq]
  generalize cfltWord addr cause detail (if 5 ≤ cause ∧ cause ≤ 8 then eng else 0) op = w
  have hv : (faulted s l w).reg (rCflt l.tile l.ctx) =
      if (s.reg (rCflt l.tile l.ctx)).getLsbD 0 then s.reg (rCflt l.tile l.ctx) else w := by rw [reg_faulted, if_pos rfl]
  have he : ((faulted s l w).dropPins l).reg rEvq = s.reg rEvq := by
    rw [reg_dropPins]
    exact (reg_faulted s l w rEvq).trans (if_neg (hubReg_ne_rCflt l 5 0x010))
  obtain ⟨g, x, hf⟩ := faulted_regsTilesOnly s l w
  rw [hv, State.logError]
  generalize hE : (⟨0, 2, cause, 0, 0, 0, 0, 0, 0, 0, l.tile, l.ctx, eng, _, 0, 0⟩ : LogEntry) = e
  have kept : TilesKept (faulted s l w) (((faulted s l w).dropPins l).logEntry e) :=
    tilesKept_trans (tilesKept_of_same (dropPins_tiles _ l) (dropPins_regs _ l)) (logEntry_tilesKept _ e)
  have quiet : NoEventQueue s → ((faulted s l w).dropPins l).logEntry e = ((faulted s l w).dropPins l).writeLog e := fun q => by
    refine logEntry_eq_writeLog _ e (noEventQueue_congr ?_ ?_ ?_ he q)
    · rw [dropPins_mem, hf]
    · rw [dropPins_undef, hf]
    · rw [dropPins_job, hf]
  refine ⟨?_, fun k hk => ?_, fun f => ?_, fun f => ?_, ?_, fun r => ?_, fun q => ⟨fun a => ?_, fun a ha => ?_⟩⟩
  · rw [tilesKept_ctx kept, ctx_faulted_self]
  · rw [tilesKept_ctx kept, ctx_faulted_ne s l w hk]
  · rw [tilesKept_tile kept, tile_faulted, if_pos rfl]
    exact Vector.getElem_map ..
  · rw [tilesKept_tile kept, tile_faulted, if_pos rfl]
    rfl
  · rw [kept.2 _ (rCflt_lt_hubBase l), hv]
  · rw [hE]
    refine logged_congr (t := (faulted s l w).dropPins l) ?_ ?_ ?_ (logEntry_logged_of_room _ e (logRoom_congr ?_ ?_ ?_ he r))
    · rw [dropPins_log, hf]
    · rw [dropPins_aon, hf]
    · rw [dropPins_step, hf]
    · rw [dropPins_log, hf]
    · rw [dropPins_upset, hf]
    · rw [dropPins_job, hf]
  · have hb : (faulted s l w).byte a = s.byte a := by
      rw [hf]
      rfl
    rw [quiet q, writeLog_byte, byte_dropPins, hb]
  · simp only [List.mem_cons, List.not_mem_nil, or_false, not_or] at ha
    obtain ⟨hr, _, hx⟩ := ha
    rw [quiet q, reg_writeLog _ e hx, reg_dropPins, reg_faulted, if_neg hr]

/-- A fault right after the turn's count is one of the turn. -/
theorem contextFaulted_of_issued {s t : State} {l : Loc} {w : Word} {cause eng : Nat}
    (h : ContextFaulted l w cause eng (s.issued l) t) : ContextFaulted l w cause eng s t := by
  obtain ⟨hself, hother, hq, ha, hr, hlog, hquiet⟩ := h
  have he : (s.issued l).reg rEvq = s.reg rEvq := reg_issued_ne s l (hubReg_ne_rCntInsn l.tile _ _)
  have hc := reg_issued_ne s l (rCflt_ne_rCntInsn l)
  obtain ⟨g, x, hi⟩ := regsTiles_issued s l
  rw [hc] at hr hlog
  refine ⟨?_, fun k hk => ?_, fun e => ?_, fun e => ?_, hr, fun r => ?_, fun q => ?_⟩
  · rw [hself, ctx_issued]
  · rw [hother k hk, ctx_issued]
  · rw [hq, tile_issued]
  · rw [ha, tile_issued]
  · refine logged_congr ?_ ?_ ?_ (hlog (logRoom_congr ?_ ?_ ?_ he r))
    all_goals rw [hi]
  · have n : NoEventQueue (s.issued l) := by
      refine noEventQueue_congr ?_ ?_ ?_ he q
      all_goals rw [hi]
    obtain ⟨hb, hregs⟩ := hquiet n
    refine ⟨fun a => ?_, fun a ha => ?_⟩
    · rw [hb a, hi]
      rfl
    · rw [hregs a ha, reg_issued_ne s l (fun e => ha (by simp [e]))]

/-- What a fault of the instruction at the PC leaves, for a cause of the control core (R154). -/
theorem insnFault_insnFaulted (s : State) (l : Loc) (cause : Nat) (h : cause < 5) :
    InsnFaulted l cause s ((s.issued l).insnFault l cause) := by
  have hw : cfltWord ((s.issued l).pcAt l) cause 0 (if 5 ≤ cause ∧ cause ≤ 8 then 0xE else 0) 0 =
      BitVec.ofNat 64 ((s.ctx l).pc.toNat * 2 ^ 40 + cause * 2 ^ 24 + 1) := by
    have := (s.ctx l).pc.isLt
    rw [if_neg (by omega), State.pcAt, ctx_issued, cfltWord]
    exact congrArg (BitVec.ofNat 64) (by omega)
  have f := ctxFault_contextFaulted (s.issued l) l cause 0 0xE 0 ((s.issued l).pcAt l)
  rw [hw] at f
  exact contextFaulted_of_issued f

/-! ### An uncorrectable word -/

theorem ctx_eccNote (s : State) (a : Nat) (unc : Bool) (l : Loc) : (s.eccNote a unc).ctx l = s.ctx l := ctx_setReg s _ _ l

/-- What an uncorrectable word of its tile's SRAM, noted in TILE_ECC_LAST, does to a context (R155). -/
theorem ctxMemError_contextHeld (s : State) (l : Loc) (a cause : Nat) (h : a / tileSpan = l.tile) :
    ContextHeld l s ((s.eccNote a true).ctxMemError l cause) := by
  have kept : TilesKept ((s.eccNote a true).updCtx l (fun c => { c with mode := .held, wait := .none }))
      ((s.eccNote a true).ctxMemError l cause) := logEntry_tilesKept _ _
  have hl : ((s.eccNote a true).ctxMemError l cause).ctx l = { s.ctx l with mode := .held, wait := .none } := by
    rw [tilesKept_ctx kept, ctx_updCtx_self, ctx_eccNote]
  refine ⟨?_, ?_, ?_, ?_, fun k hk => ?_, ?_⟩
  · rw [hl]
  · rw [hl]
  · rw [hl]
  · rw [hl]
  · rw [tilesKept_ctx kept, ctx_updCtx, if_neg hk, ctx_eccNote]
  · rw [kept.2 _ (rCflt_lt_hubBase l), reg_updCtx, State.eccNote, h, reg_setReg, if_neg (rCflt_ne_rEccLast l)]

end Sys2Proof.Proofs
end

section
/-! The issue turn of a tile (R20): the round robin, the fetch, and the instruction. -/
namespace Sys2Proof.Proofs

open Sys2Proof Sys2Proof.Machine Sys2Proof.Laws

/-! ### The round robin -/

/-- The search from the context after r finds the first in round-robin order that qualifies. -/
theorem find?_roundRobin {p : CtxId → Bool} {r k : CtxId} (hk : p k = true) (first : ∀ j, j - r - 1 < k - r - 1 → p j = false) :
    [r + 1, r + 2, r + 3, r].find? p = some k := by
  have order : ∀ r : CtxId, r + 1 - r - 1 = 0 ∧ r + 2 - r - 1 = 1 ∧ r + 3 - r - 1 = 2 ∧ r - r - 1 = 3 := by decide
  have four : ∀ r k : CtxId, k = r + 1 ∨ k = r + 2 ∨ k = r + 3 ∨ k = r := by decide
  obtain ⟨o1, o2, o3, o4⟩ := order r
  have f1 := first (r + 1)
  have f2 := first (r + 2)
  have f3 := first (r + 3)
  rcases four r k with rfl | rfl | rfl | rfl
  · simp [List.find?, hk]
  · rw [o1, o2] at f1
    simp [List.find?, hk, f1 (by decide)]
  · rw [o1, o3] at f1
    rw [o2, o3] at f2
    simp [List.find?, hk, f1 (by decide), f2 (by decide)]
  · rw [o1, o4] at f1
    rw [o2, o4] at f2
    rw [o3, o4] at f3
    simp [List.find?, hk, f1 (by decide), f2 (by decide), f3 (by decide)]

theorem ready_iff (s : State) (t : TileId) (k : CtxId) :
    s.ready ⟨t, k⟩ = true ↔ (s.ctx ⟨t, k⟩).mode = .run ∧ 6 ∉ (s.tile t).engStop ∧ s.clockRuns t = true := by
  simp [State.ready, and_assoc]

theorem issue_idle (s : State) (t : TileId) (h : ∀ k, s.ready ⟨t, k⟩ = false) : exec (.instructionIssue t) s = .next s := by
  have n : s.nextReady t = none := List.find?_eq_none.mpr (fun k _ => by simp [h k])
  show execInstructionIssue t s = _
  rw [execInstructionIssue, n]

theorem issue_first (s : State) (t : TileId) (k : CtxId) (hk : s.ready ⟨t, k⟩ = true)
    (first : ∀ j, j - (s.tile t).rr - 1 < k - (s.tile t).rr - 1 → s.ready ⟨t, j⟩ = false) :
    exec (.instructionIssue t) s = State.turn ⟨t, k⟩ s := by
  have n : s.nextReady t = some k := find?_roundRobin hk first
  show execInstructionIssue t s = _
  rw [execInstructionIssue, n]

/-! ### The fetch -/

theorem checkWords_clean (s : State) (ws : List Nat)
    (h : ∀ w ∈ ws, s.upset.get (fun _ => 0) w = 0 ∧ s.poison.get (fun _ => false) (poisonKey w) = false) : s.checkWords ws = (s, true) := by
  induction ws with
  | nil => rfl
  | cons w r ih =>
    obtain ⟨hu, hp⟩ := h w List.mem_cons_self
    have hw : s.checkWord w = (s, true) := by simp [State.checkWord, hu, hp]
    rw [State.checkWords, hw]
    exact ih (fun v hv => h v (List.mem_cons_of_mem w hv))

/-- A read of words without an error (R165). -/
theorem readT0_clean (s : State) (a n : Nat) (h : CleanT0 s a n) : s.readT0 a n = (s, some (s.bytes a n)) := by
  rw [State.readT0, checkWords_clean s _ h]
  rfl

/-- A read whose first word is poisoned stops there (R165, R182). -/
theorem readT0_poisoned (s : State) (a n : Nat) (hn : n ≠ 0) (h : s.poison.get (fun _ => false) (poisonKey (a / 8 * 8)) = true) :
    s.readT0 a n = (s.eccNote (a / 8 * 8) true, none) := by
  obtain ⟨r, hr⟩ : ∃ r, wordsOf a n = (a / 8 * 8) :: r := by
    rw [wordsOf, if_neg hn, List.range_succ_eq_map]
    exact ⟨_, by rw [List.map_cons, Nat.add_zero, Nat.mul_comm]⟩
  have hw : s.checkWord (a / 8 * 8) = (s.eccNote (a / 8 * 8) true, false) := by rw [State.checkWord, if_pos h]
  rw [State.readT0, hr, State.checkWords, hw]
  rfl

/-! ### The turn -/

section
variable {s : State} {l : Loc}

theorem turn_list (h : (s.ctx l).clist.isSome = true) : State.turn l s = execClistEntry l s := by
  rw [State.turn, if_pos h]

theorem turn_beyond (hl : (s.ctx l).clist = none) (h : s.sramOk l.tile (s.pcAt l) 4 = false) :
    State.turn l s = .next ((s.issued l).insnFault l 3) := by
  simp [State.turn, hl, h]

theorem turn_uncorrectable (hl : (s.ctx l).clist = none) (h : s.sramOk l.tile (s.pcAt l) 4 = true) {u : State}
    (hr : s.readT0 (sram l.tile (s.pcAt l)) 4 = (u, none)) : State.turn l s = .next (u.ctxMemError l 1) := by
  simp [State.turn, hl, h, hr]

/-- A fetched word that spells an instruction runs it. -/
theorem turn_instruction (hl : (s.ctx l).clist = none) (h : s.sramOk l.tile (s.pcAt l) 4 = true)
    (hc : CleanT0 s (sram l.tile (s.pcAt l)) 4) {i : Instr}
    (hi : decodeInsn l (BitVec.ofNat 32 (leVal (s.bytes (sram l.tile (s.pcAt l)) 4))) = some i) : State.turn l s = runScalar i s := by
  simp [State.turn, hl, h, readT0_clean s _ _ hc, hi]

/-- A fetched word that spells none is an illegal instruction (R128, R154). -/
theorem turn_unlisted (hl : (s.ctx l).clist = none) (h : s.sramOk l.tile (s.pcAt l) 4 = true)
    (hc : CleanT0 s (sram l.tile (s.pcAt l)) 4)
    (hi : decodeInsn l (BitVec.ofNat 32 (leVal (s.bytes (sram l.tile (s.pcAt l)) 4))) = none) :
    State.turn l s = .next ((s.issued l).insnFault l 1) := by
  simp [State.turn, hl, h, readT0_clean s _ _ hc, hi]

end

/-! ### The instruction -/

theorem runScalar_of_commitInsn {l : Loc} {w : BitVec 32} {i : Instr} (h : commitInsn l w = some i) (s : State) : runScalar i s = exec i s := by
  unfold commitInsn at h
  dsimp only at h
  split at h
  · cases h
  · split at h <;> (cases h; rfl)

/-- What a word spells does in its turn what it does as a command. -/
theorem runScalar_of_decodeInsn {l : Loc} {w : BitVec 32} {i : Instr} (h : decodeInsn l w = some i) (s : State) : runScalar i s = exec i s := by
  unfold decodeInsn at h
  dsimp only at h
  split at h
  case h_41 => exact runScalar_of_commitInsn h s
  case h_43 => cases h
  all_goals
    cases h
    rfl

/-- The turn of an `addi` whose guard holds (R128). -/
theorem addi_turn (s : State) (l : Loc) (g : Guard) (rd ra : BitVec 5) (imm : BitVec 12) (hc : s.canIssue l = true)
    (hg : (s.ctx l).passes g = true) :
    Completes (.addi l g rd ra imm) s (Turn l ((s.ctx l).wg rd ((s.ctx l).rg ra + imm.signExtend 64)).next s) :=
  ⟨_, rfl, slotCtx_acts s l g (fun c => c.wg rd (c.rg ra + sext12 imm)) hc hg⟩

theorem canIssue_of_ready {s : State} {t : TileId} {k : CtxId} (h : s.ready ⟨t, k⟩ = true) (hl : (s.ctx ⟨t, k⟩).clist = none) :
    s.canIssue ⟨t, k⟩ = true := by
  obtain ⟨hm, he, hc⟩ := (ready_iff s t k).mp h
  simp [State.canIssue, hm, he, hc, hl]

/-- A fetch may be made below 6 MiB outside every buffer's storage (R131, R249). -/
theorem sramOk_of_fits {s : State} {t a n : Nat} (h : a + n ≤ sramSize) (hs : s.inStorage t a n = false) : s.sramOk t a n = true := by
  simp [State.sramOk, h, hs]

theorem sramOk_of_beyond {s : State} {t a n : Nat} (h : sramSize < a + n) : s.sramOk t a n = false := by
  simp [State.sramOk, Nat.not_le.mpr h]

/-- A word at an offset of a tile's SRAM lies in that tile's window (R157). -/
theorem sram_word_tile {t a : Nat} (h : a < sramSize) : sram t a / 8 * 8 / tileSpan = t := by
  unfold sramSize at h
  unfold sram tileSpan
  omega

/-- Settles O20: the round robin picks the context, and the fetch decides what its turn is. -/
theorem instructionIssue : Obligations.InstructionIssue := by
  intro s t
  refine ⟨fun idle => issue_idle s t fun k => Bool.eq_false_iff.mpr fun h => idle k ((ready_iff s t k).mp h), fun k hk first => ?_⟩
  have ready : s.ready ⟨t, k⟩ = true := (ready_iff s t k).mpr hk
  have turn : exec (.instructionIssue t) s = State.turn ⟨t, k⟩ s :=
    issue_first s t k ready fun j hj => Bool.eq_false_iff.mpr fun h => first j hj ((ready_iff s t j).mp h)
  refine ⟨fun list => turn.trans (turn_list list), fun nolist => ⟨fun fits outside => ?_, fun beyond => ?_⟩⟩
  · have ok : s.sramOk t (s.pcAt ⟨t, k⟩) 4 = true := sramOk_of_fits fits outside
    refine ⟨fun clean => ?_, fun poisoned => ?_⟩
    · have run : ∀ i, decodeInsn ⟨t, k⟩ (BitVec.ofNat 32 (leVal (s.bytes (sram t (s.pcAt ⟨t, k⟩)) 4))) = some i →
          exec (.instructionIssue t) s = exec i s := fun i hi =>
        turn.trans ((turn_instruction nolist ok clean hi).trans (runScalar_of_decodeInsn hi s))
      refine ⟨run, fun g rd ra imm hi hg => ?_, fun hi => ?_⟩
      · obtain ⟨u, hu, hturn⟩ := addi_turn s ⟨t, k⟩ g rd ra imm (canIssue_of_ready ready nolist) hg
        exact ⟨u, (run _ hi).trans hu, hturn⟩
      · exact ⟨_, turn.trans (turn_unlisted nolist ok clean hi), insnFault_insnFaulted s ⟨t, k⟩ 1 (by decide)⟩
    · have read := readT0_poisoned s (sram t (s.pcAt ⟨t, k⟩)) 4 (by decide) poisoned
      have window : (s.ctx ⟨t, k⟩).pc.toNat < sramSize := by
        unfold sramSize
        omega
      exact ⟨_, turn.trans (turn_uncorrectable nolist ok read), ctxMemError_contextHeld s ⟨t, k⟩ _ 1 (sram_word_tile window)⟩
  · exact ⟨_, turn.trans (turn_beyond nolist (sramOk_of_beyond beyond)), insnFault_insnFaulted s ⟨t, k⟩ 3 (by decide)⟩

end Sys2Proof.Proofs
end

section
/-! A tile's memory without errors (R165): what a read answers, and what a write leaves. -/
namespace Sys2Proof.Proofs

open Sys2Proof Sys2Proof.Machine Sys2Proof.Laws

/-- The bytes of a tile's window that SRAM and accumulator store take up (R79, R157). -/
def storeEnd : Nat := 0x640000

theorem sram_eq (t off : Nat) : sram t off = 0x800000 * t + off := congrArg (· + off) (Nat.mul_comm t 0x800000)

/-! ### Words of a range -/

theorem mem_wordsOf {a n w : Nat} : w ∈ wordsOf a n ↔ 0 < n ∧ w % 8 = 0 ∧ a < w + 8 ∧ w < a + n := by
  unfold wordsOf
  split
  · simp only [List.not_mem_nil, false_iff]
    omega
  · simp only [List.mem_map, List.mem_range]
    constructor
    · rintro ⟨i, hi, rfl⟩
      omega
    · rintro ⟨hn, h8, ha, hw⟩
      exact ⟨w / 8 - a / 8, by omega, by omega⟩

/-- The granule, or the entry, of a word without an error (R165). -/
theorem clean_word {s : State} {t : TileId} (clean : CleanTile s t) {w : Nat} (h8 : w % 8 = 0)
    (hl : 0x800000 * t ≤ w) (hu : w < 0x800000 * t + storeEnd) :
    s.upset.get (fun _ => 0) w = 0 ∧ s.poison.get (fun _ => false) (poisonKey w) = false := by
  unfold storeEnd at hu
  rw [CleanTile, Nat.mul_comm] at clean
  refine ⟨(clean w (by omega) (by omega)).1, ?_⟩
  unfold poisonKey tileSpan
  split
  · exact (clean _ (by omega) (by omega)).2
  · exact (clean _ (by omega) (by omega)).2

/-- The words of a range of a clean tile. -/
theorem clean_wordsOf {s : State} {t : TileId} (clean : CleanTile s t) {off n : Nat} (h : off + n ≤ storeEnd) :
    ∀ w ∈ wordsOf (sram t off) n, s.upset.get (fun _ => 0) w = 0 ∧ s.poison.get (fun _ => false) (poisonKey w) = false := by
  intro w hw
  obtain ⟨hn, h8, ha, hb⟩ := mem_wordsOf.mp hw
  rw [sram_eq] at ha hb
  unfold storeEnd at h
  refine clean_word clean h8 (by omega) ?_
  unfold storeEnd
  omega

/-! ### Reads -/

theorem rdTile_clean {s : State} {t : TileId} (clean : CleanTile s t) {off n : Nat} (h : off + n ≤ storeEnd) :
    s.rdTile t off n = (s, .ok (s.bytes (sram t off) n)) := by
  rw [State.rdTile, readT0_clean s _ _ (clean_wordsOf clean h)]

/-! ### Writes -/

/-- A filter by keys leaves the other keys. -/
theorem smap_get_filter {α : Type} (d : Nat → α) (m : SMap α) (p : Nat → Bool) (k : Nat) :
    SMap.get d (m.filter (fun e => p e.1)) k = if p k then m.get d k else d k := by
  induction m with
  | nil => simp [SMap.get]
  | cons e r ih =>
    rw [List.filter_cons]
    by_cases hk : e.1 = k
    · by_cases hp : p k
      · simp [SMap.get, hk, hp]
      · rw [if_neg (by simp [hk, hp]), ih, if_neg hp, if_neg hp]
    · split
      · simp only [SMap.get, if_neg hk]
        exact ih
      · rw [ih]
        simp only [SMap.get, if_neg hk]

/-- Only bytes have changed, and no word has got an error. -/
def BytesOnly (s u : State) : Prop :=
  ∃ m p q, u = { s with mem := m, upset := p, poison := q } ∧
    (∀ w, s.upset.get (fun _ => 0) w = 0 → p.get (fun _ => 0) w = 0) ∧
    (∀ w, s.poison.get (fun _ => false) w = false → q.get (fun _ => false) w = false)

theorem bytesOnly_refl (s : State) : BytesOnly s s := ⟨_, _, _, rfl, fun _ => id, fun _ => id⟩

theorem bytesOnly_trans {s u v : State} (h : BytesOnly s u) (k : BytesOnly u v) : BytesOnly s v := by
  obtain ⟨m, p, q, rfl, hp, hq⟩ := h
  obtain ⟨m', p', q', rfl, hp', hq'⟩ := k
  exact ⟨m', p', q', rfl, fun w h => hp' w (hp w h), fun w h => hq' w (hq w h)⟩

theorem bytesOnly_clearPoison (s : State) (a n : Nat) : BytesOnly s (s.clearPoison a n) := by
  refine ⟨_, _, _, rfl, fun _ => id, fun w h => ?_⟩
  rw [smap_get_filter (fun _ => false) s.poison (fun k => !(inside k (if k % tileSpan < sramSize then 64 else 8) a n)), h, ite_self]

/-- The bytes of a write that fall into a word. -/
theorem byte_poke_partOf (s : State) (a : Nat) (bs : List Byte) (w b : Nat) :
    (s.poke (partOf a bs w 8).1 (partOf a bs w 8).2).byte b =
      if a ≤ b ∧ b < a + bs.length ∧ w ≤ b ∧ b < w + 8 then bs.getD (b - a) 0 else s.byte b := by
  have len : (partOf a bs w 8).2.length = min (a + bs.length) (w + 8) - max a w := by
    simp only [partOf, List.length_take, List.length_drop]
    omega
  rw [byte_poke]
  split
  · next h =>
    have hp : (partOf a bs w 8).1 = max a w := rfl
    rw [hp, len] at h
    rw [if_pos (by omega), List.getD_eq_getElem _ _ (by omega)]
    simp only [partOf, List.getElem_take, List.getElem_drop]
    congr 1
    omega
  · next h =>
    have hp : (partOf a bs w 8).1 = max a w := rfl
    rw [hp, len] at h
    rw [if_neg (by omega)]

/-- The part of a write that falls into a word without an error is stored. -/
theorem writeWord_clean (s : State) (a : Nat) (bs : List Byte) (w : Nat)
    (h : s.upset.get (fun _ => 0) w = 0 ∧ s.poison.get (fun _ => false) (poisonKey w) = false) :
    (s.writeWord a bs w).2 = true ∧ BytesOnly s (s.writeWord a bs w).1 ∧
      ∀ b, (s.writeWord a bs w).1.byte b = if a ≤ b ∧ b < a + bs.length ∧ w ≤ b ∧ b < w + 8 then bs.getD (b - a) 0 else s.byte b := by
  have checked : s.checkWord w = (s, true) := by simp [State.checkWord, h]
  rw [State.writeWord]
  dsimp only
  split
  · refine ⟨rfl, ⟨_, _, _, rfl, fun x hx => ?_, fun _ => id⟩, fun b => byte_poke_partOf _ a bs w b⟩
    rw [smap_get_put]
    split
    · rfl
    · exact hx
  · rw [checked]
    exact ⟨rfl, ⟨_, _, _, rfl, fun _ => id, fun _ => id⟩, fun b => byte_poke_partOf s a bs w b⟩

theorem writeWords_clean (a : Nat) (bs : List Byte) (ws : List Nat) : ∀ s : State,
    (∀ w ∈ ws, w % 8 = 0 ∧ s.upset.get (fun _ => 0) w = 0 ∧ s.poison.get (fun _ => false) (poisonKey w) = false) →
    (s.writeWords a bs ws).2 = true ∧ BytesOnly s (s.writeWords a bs ws).1 ∧
      ∀ b, (s.writeWords a bs ws).1.byte b = if a ≤ b ∧ b < a + bs.length ∧ b / 8 * 8 ∈ ws then bs.getD (b - a) 0 else s.byte b := by
  induction ws with
  | nil => exact fun s _ => ⟨rfl, bytesOnly_refl s, fun b => by simp [State.writeWords]⟩
  | cons w r ih =>
    intro s h
    obtain ⟨h8, hw⟩ := h w List.mem_cons_self
    obtain ⟨ok, only, byte⟩ := writeWord_clean s a bs w hw
    obtain ⟨m, p, q, hm, hp, hq⟩ := only
    obtain ⟨oks, onlys, bytes⟩ := ih (s.writeWord a bs w).1 (fun v hv => by
      obtain ⟨h8, hu, hk⟩ := h v (List.mem_cons_of_mem w hv)
      rw [hm]
      exact ⟨h8, hp v hu, hq _ hk⟩)
    have run : s.writeWords a bs (w :: r) = (s.writeWord a bs w).1.writeWords a bs r := by
      rw [State.writeWords]
      exact if_pos ok
    rw [run]
    refine ⟨oks, bytesOnly_trans ⟨m, p, q, hm, hp, hq⟩ onlys, fun b => ?_⟩
    rw [bytes, byte]
    have word : (w ≤ b ∧ b < w + 8) ↔ b / 8 * 8 = w := by omega
    simp only [word, List.mem_cons]
    by_cases hb : b / 8 * 8 = w
    · simp only [hb, true_or, and_true]
      split
      · split
        · rfl
        · next h1 h2 => exact absurd ⟨h1.1, h1.2.1⟩ h2
      · rfl
    · simp only [hb, false_or, and_false, if_false]

/-- What a write into a tile without errors leaves. -/
theorem writeT0_clean {s : State} {t : TileId} (clean : CleanTile s t) {off : Nat} (bs : List Byte) (h : off + bs.length ≤ storeEnd) :
    (s.writeT0 (sram t off) bs).2 = true ∧ BytesOnly s (s.writeT0 (sram t off) bs).1 ∧
      ∀ b, (s.writeT0 (sram t off) bs).1.byte b = (s.poke (sram t off) bs).byte b := by
  have cleared := bytesOnly_clearPoison s (sram t off) bs.length
  have words := clean_wordsOf clean h
  obtain ⟨m, p, q, hm, hp, hq⟩ := cleared
  obtain ⟨ok, only, byte⟩ := writeWords_clean (sram t off) bs (wordsOf (sram t off) bs.length) (s.clearPoison (sram t off) bs.length)
    (fun w hw => by
      rw [hm]
      exact ⟨(mem_wordsOf.mp hw).2.1, hp w (words w hw).1, hq _ (words w hw).2⟩)
  refine ⟨ok, bytesOnly_trans ⟨m, p, q, hm, hp, hq⟩ only, fun b => ?_⟩
  have into : (sram t off ≤ b ∧ b < sram t off + bs.length ∧ b / 8 * 8 ∈ wordsOf (sram t off) bs.length) ↔
      sram t off ≤ b ∧ b < sram t off + bs.length := by
    rw [mem_wordsOf]
    omega
  rw [State.writeT0, byte, byte_poke, if_congr into rfl rfl]
  split
  · exact List.getD_eq_getElem _ _ _
  · rfl

end Sys2Proof.Proofs
end

section
/-! A command at the head of an engine's queue: its run, its acceptance (R138) and its rejection (R153). -/
namespace Sys2Proof.Proofs

open Sys2Proof Sys2Proof.Machine Sys2Proof.Laws

/-! ### The queues of a tile record -/

theorem queues_setQueue (x : Tile) (e f : Fin 6) (q : List EngCmd) : (x.setQueue e q).queues[f] = if f = e then q else x.queues[f] := by
  simp only [Tile.setQueue, Fin.getElem_fin, Vector.getElem_set, Fin.ext_iff, eq_comm]

theorem active_setAct (x : Tile) (e f : Fin 6) (q : List Active) : (x.setAct e q).active[f] = if f = e then q else x.active[f] := by
  simp only [Tile.setAct, Fin.getElem_fin, Vector.getElem_set, Fin.ext_iff, eq_comm]

theorem tile_popHead (s : State) (t : TileId) (e : Fin 6) (n : Nat) :
    (s.popHead t e).tile n = if n = t.val then (s.tile t).setQueue e ((s.tile t).queue e).tail else s.tile n := tile_updTile s t n _

theorem ctx_popHead (s : State) (t : TileId) (e : Fin 6) (l : Loc) : (s.popHead t e).ctx l = s.ctx l :=
  ctx_updTile s t _ (fun _ => by rfl) l

section
variable {s : State} {t : TileId} {e : Fin 6} {op : Nat} {k : EngCmd} {rest : List EngCmd}

/-- A command that its gates let run does its row's work (R138). -/
theorem atHead_run (h : Ready t e op k rest s) {mine : Nat → Bool} (hm : mine op = true) (work : EngCmd → State → State) :
    s.atHead t e mine work = work k s := by
  obtain ⟨queue, hop, gate⟩ := h
  have head : s.headFor t e mine = some k := by
    have hq : (s.tile t).queue e = k :: rest := queue
    simp [State.headFor, hq, hop, hm]
  simp [State.atHead, head, gate]

/-! ### Acceptance -/

/-- The accepting tile: the command is gone from its queue and joins the active ones. -/
theorem tile_accept (s : State) (t : TileId) (e : Fin 6) (a : Active) : ((s.accept t e a).tile t) =
    (((s.tile t).setQueue e ((s.tile t).queue e).tail).setAct e ((s.tile t).act e ++ [a])).setCtx a.cmd.ctx
      (progressed e (s.ctx ⟨t, a.cmd.ctx⟩)) := by
  have same : ((s.popHead t e).updTile t (fun x => x.setAct e (x.act e ++ [a]))).ctx ⟨t, a.cmd.ctx⟩ = s.ctx ⟨t, a.cmd.ctx⟩ := by
    rw [ctx_updTile _ t _ (fun _ => by rfl), ctx_popHead]
  rw [State.accept, State.engProgress, State.updCtx, EngCmd.loc, tile_setCtx, if_pos rfl, tile_updTile_self, tile_popHead, if_pos rfl, same]
  rfl

theorem tile_accept_ne (s : State) (t : TileId) (e : Fin 6) (a : Active) {n : Nat} (h : n ≠ t.val) : (s.accept t e a).tile n = s.tile n := by
  rw [State.accept, State.engProgress, State.updCtx, EngCmd.loc, tile_setCtx, if_neg h, tile_updTile, if_neg h, tile_popHead, if_neg h]

/-- What acceptance leaves (R138, R379). -/
theorem accept_accepted (a : Active) (hq : (s.tile t).queues[e] = k :: rest) (hk : a.cmd = k) (hs : a.stopped = false) :
    Accepted t e k rest a.done (progressed e (s.ctx ⟨t, k.ctx⟩)) s (s.accept t e a) := by
  subst hk
  have tail : ((s.tile t).queue e).tail = rest := congrArg List.tail hq
  refine ⟨?_, ⟨a, ?_, rfl, hs, rfl⟩, fun f hf => ⟨?_, ?_⟩, fun n hn => tile_accept_ne s t e a hn, ?_, fun i hi => ?_⟩
  · rw [tile_accept, tail]
    exact (queues_setQueue _ e e rest).trans (if_pos rfl)
  · rw [tile_accept]
    exact (active_setAct _ e e _).trans (if_pos rfl)
  · rw [tile_accept]
    exact (queues_setQueue _ e f _).trans (if_neg hf)
  · rw [tile_accept]
    exact (active_setAct _ e f _).trans (if_neg hf)
  · rw [State.ctx, tile_accept]
    exact Vector.getElem_set_self ..
  · rw [State.ctx, tile_accept]
    exact Vector.getElem_set_ne a.cmd.ctx.isLt i.isLt (fun h => hi (Fin.ext h).symm)

theorem accepted_of_tiles {fin : Bool} {c : Ctx} {u v : State} (h : Accepted t e k rest fin c s u) (same : v.tiles = u.tiles) :
    Accepted t e k rest fin c s v := by
  have tile : v.tile = u.tile := funext fun n => by rw [State.tile, same, State.tile]
  have ctx : v.ctx = u.ctx := funext fun l => by rw [State.ctx, tile, State.ctx]
  unfold Accepted at h ⊢
  rwa [tile, ctx]

/-! ### Rejection -/

/-- TILE_CFLT_Cn of a rejected command (R154). -/
theorem cfltWord_engine (addr op : Nat) {cause row : Nat} (hc : 5 ≤ cause ∧ cause ≤ 8) (hr : row < 256) (ho : op < 256) :
    cfltWord addr cause row (if 5 ≤ cause ∧ cause ≤ 8 then e.val else 0) op =
      BitVec.ofNat 64 (addr % 2 ^ 24 * 2 ^ 40 + cause * 2 ^ 24 + row * 2 ^ 16 + e.val * 2 ^ 12 + op * 2 ^ 4 + 1) := by
  rw [if_pos hc, cfltWord, Nat.mod_eq_of_lt (by omega : cause < 256), Nat.mod_eq_of_lt hr, Nat.mod_eq_of_lt (by omega : e.val < 16),
    Nat.mod_eq_of_lt ho]

/-- What a rejection leaves (R143, R153, R154). -/
theorem rejectCmd_rejected {cause row : Nat} (hq : (s.tile t).queues[e] = k :: rest) (hc : 5 ≤ cause ∧ cause ≤ 8) (hr : row < 256) :
    Rejected t e k cause row s (s.rejectCmd t e k cause row) := by
  have op : cmdOp k.word < 256 := Nat.mod_lt _ (by decide)
  have f := ctxFault_contextFaulted (s.popHead t e) ⟨t, k.ctx⟩ cause row e.val (cmdOp k.word) k.addr
  rw [cfltWord_engine k.addr (cmdOp k.word) hc hr op] at f
  obtain ⟨self, other, queues, active, reg, log, quiet⟩ := f
  refine ⟨?_, fun l hl => ?_, fun f => ?_, fun f => ?_, reg, log, quiet⟩
  · rw [← ctx_popHead s t e]
    exact self
  · rw [← ctx_popHead s t e]
    exact other l hl
  · refine (queues f).trans ?_
    rw [tile_popHead, if_pos rfl, queues_setQueue]
    split
    · next h =>
      rw [h, hq, List.filter_cons, if_neg (by simp), Tile.queue, hq, List.tail_cons]
    · rfl
  · refine (active f).trans ?_
    rw [tile_popHead, if_pos rfl]
    rfl

end

end Sys2Proof.Proofs
end

section
/-! Reads of a product: what the quad reads of a tile without errors (R82, R87, R88, R165), and how steps run in turn. -/
namespace Sys2Proof.Proofs

open Sys2Proof Sys2Proof.Machine Sys2Proof.Laws

/-! ### Registers alone -/

/-- Registers alone have changed. -/
def RegsOnly (s u : State) : Prop := ∃ r, u = { s with regs := r }

theorem regsOnly_refl (s : State) : RegsOnly s s := ⟨s.regs, rfl⟩

theorem regsOnly_trans {s u v : State} (h : RegsOnly s u) (k : RegsOnly u v) : RegsOnly s v := by
  obtain ⟨r, rfl⟩ := h
  obtain ⟨r', rfl⟩ := k
  exact ⟨r', rfl⟩

theorem regsOnly_ite {s u v : State} {c : Prop} [Decidable c] (h : RegsOnly s u) (k : RegsOnly s v) : RegsOnly s (if c then u else v) := by
  split
  · exact h
  · exact k

theorem regsOnly_count (s : State) (a n : Nat) : RegsOnly s (s.count a n) := ⟨_, rfl⟩

theorem regsOnly_countFed (s : State) (t : Nat) (d : QuadDesc) (r kb n : Nat) : RegsOnly s (s.countFed t d r kb n) :=
  regsOnly_trans (regsOnly_count s _ _) (regsOnly_count _ _ _)

theorem regsOnly_countSkip (s : State) (t : Nat) (d : QuadDesc) (r n : Nat) : RegsOnly s (s.countSkip t d r n) :=
  regsOnly_ite (regsOnly_count s _ _) (regsOnly_refl s)

theorem regsOnly_bytes {s u : State} (h : RegsOnly s u) (a n : Nat) : u.bytes a n = s.bytes a n := by
  obtain ⟨r, rfl⟩ := h
  rfl

theorem regsOnly_clean {s u : State} {t : TileId} (h : RegsOnly s u) (clean : CleanTile s t) : CleanTile u t := by
  obtain ⟨r, rfl⟩ := h
  exact clean

/-! ### Steps in turn -/

/-- A read from `s` on (the machine may count) succeeds, and its answer satisfies P. -/
def Answers {β : Type} (s : State) (x : State × Except Nat β) (P : β → Prop) : Prop := RegsOnly s x.1 ∧ ∃ v, x.2 = .ok v ∧ P v

/-- Reads from `s` on (the machine may count) meet no failure, and their answers satisfy P. -/
def Gathers {β : Type} (s : State) (x : State × List β × Option Nat) (P : List β → Prop) : Prop := RegsOnly s x.1 ∧ x.2.2 = none ∧ P x.2.1

theorem answers_mono {β : Type} {s : State} {x : State × Except Nat β} {P Q : β → Prop} (h : Answers s x P) (i : ∀ v, P v → Q v) : Answers s x Q := by
  obtain ⟨hs, v, hv, hp⟩ := h
  exact ⟨hs, v, hv, i v hp⟩

theorem gathers_mono {β : Type} {s : State} {x : State × List β × Option Nat} {P Q : List β → Prop} (h : Gathers s x P) (i : ∀ v, P v → Q v) :
    Gathers s x Q := by
  obtain ⟨hs, hnone, hp⟩ := h
  exact ⟨hs, hnone, i _ hp⟩

/-- The answers of reads in turn are those of the reads. -/
theorem mapReads_answers {α β : Type} {s₀ : State} {f : State → α → State × Except Nat β} {P : α → β → Prop} (l : List α)
    (step : ∀ s, RegsOnly s₀ s → ∀ a ∈ l, Answers s₀ (f s a) (P a)) :
    ∀ s, RegsOnly s₀ s → Answers s₀ (mapReads f s l) (List.Forall₂ P l) := by
  induction l with
  | nil => exact fun s hs => ⟨hs, [], rfl, .nil⟩
  | cons a r ih =>
    intro s hs
    obtain ⟨ha, v, hv, hp⟩ := step s hs a List.mem_cons_self
    obtain ⟨hr, vs, hvs, hps⟩ := ih (fun s hs b hb => step s hs b (List.mem_cons_of_mem a hb)) _ ha
    refine ⟨?_, v :: vs, ?_, .cons hp hps⟩
    · simp only [mapReads, hv, hvs]
      exact hr
    · simp only [mapReads, hv, hvs]

/-- Reads that succeed are gathered whole. -/
theorem gatherUntil_gathers {α β : Type} {s₀ : State} {f : State → α → State × Except Nat β} {P : α → β → Prop} (l : List α)
    (step : ∀ s, RegsOnly s₀ s → ∀ a ∈ l, Answers s₀ (f s a) (P a)) :
    ∀ s, RegsOnly s₀ s → Gathers s₀ (gatherUntil f s l) (List.Forall₂ P l) := by
  induction l with
  | nil => exact fun s hs => ⟨hs, rfl, .nil⟩
  | cons a r ih =>
    intro s hs
    obtain ⟨ha, v, hv, hp⟩ := step s hs a List.mem_cons_self
    obtain ⟨hr, hnone, hps⟩ := ih (fun s hs b hb => step s hs b (List.mem_cons_of_mem a hb)) _ ha
    simp only [Gathers, gatherUntil, hv]
    exact ⟨hr, hnone, .cons hp hps⟩

/-- Steps that succeed and keep an invariant run to the end and keep it. -/
theorem runUntil_keeps {α : Type} {I : State → Prop} {f : State → α → State × Except Nat Unit} (l : List α)
    (step : ∀ s, I s → ∀ a ∈ l, (f s a).2 = .ok () ∧ I (f s a).1) :
    ∀ s, I s → (runUntil f s l).2 = .ok () ∧ I (runUntil f s l).1 := by
  induction l with
  | nil => exact fun s hs => ⟨rfl, hs⟩
  | cons a r ih =>
    intro s hs
    obtain ⟨hok, ha⟩ := step s hs a List.mem_cons_self
    simp only [runUntil, hok]
    exact ih (fun s hs b hb => step s hs b (List.mem_cons_of_mem a hb)) _ ha

/-- What one of the steps establishes and all keep holds in the end. -/
theorem runUntil_reaches {α : Type} {I Q : State → Prop} {f : State → α → State × Except Nat Unit} (l : List α)
    (step : ∀ s, I s → ∀ a ∈ l, (f s a).2 = .ok () ∧ I (f s a).1) (kept : ∀ s, I s → Q s → ∀ a ∈ l, Q (f s a).1)
    {b : α} (hb : b ∈ l) (made : ∀ s, I s → Q (f s b).1) : ∀ s, I s → Q (runUntil f s l).1 := by
  induction l with
  | nil => exact absurd hb List.not_mem_nil
  | cons a r ih =>
    intro s hs
    obtain ⟨hok, ha⟩ := step s hs a List.mem_cons_self
    have steps : ∀ s, I s → ∀ c ∈ r, (f s c).2 = .ok () ∧ I (f s c).1 := fun s hs c hc => step s hs c (List.mem_cons_of_mem a hc)
    have keeps : ∀ s, I s → Q s → ∀ c ∈ r, Q (f s c).1 := fun s hs q c hc => kept s hs q c (List.mem_cons_of_mem a hc)
    simp only [runUntil, hok]
    rcases List.mem_cons.mp hb with rfl | hb
    · have both := runUntil_keeps (I := fun s => I s ∧ Q s) r
        (fun s hs c hc => ⟨(steps s hs.1 c hc).1, (steps s hs.1 c hc).2, keeps s hs.1 hs.2 c hc⟩)
      exact (both _ ⟨ha, made s hs⟩).2.2
    · exact ih steps keeps hb _ ha

/-- Steps that count alone. -/
theorem runUntil_answers {α : Type} {s₀ : State} {f : State → α → State × Except Nat Unit} (l : List α)
    (step : ∀ s, RegsOnly s₀ s → ∀ a ∈ l, Answers s₀ (f s a) (fun _ => True)) (s : State) (hs : RegsOnly s₀ s) :
    Answers s₀ (runUntil f s l) (fun _ => True) := by
  obtain ⟨hok, hr⟩ := runUntil_keeps (I := RegsOnly s₀) l (fun s hs a ha => by
    obtain ⟨hr, v, hv, _⟩ := step s hs a ha
    exact ⟨hv, hr⟩) s hs
  exact ⟨hr, (), hok, trivial⟩

/-- The i-th answer of reads by number. -/
theorem forall₂_range_getD {β : Type} {P : Nat → β → Prop} {n : Nat} {l : List β} (h : List.Forall₂ P (List.range n) l) {i : Nat} (hi : i < n)
    (d : β) : P i (l.getD i d) := by
  have len : l.length = n := by rw [← h.length_eq, List.length_range]
  have hl : i < l.length := len ▸ hi
  have hg := h.get (by rw [List.length_range]; exact hi) hl
  rw [List.getD_eq_getElem _ _ hl]
  simpa using hg

/-! ### Sizes -/

theorem unpackElems_length_le (w n : Nat) (bs : List Byte) : (unpackElems w n bs).length ≤ n := by
  have cut : ∀ (k f : Nat) (l : List Byte), (chunks k f l).length ≤ f := by
    intro k f
    induction f with
    | zero => exact fun l => Nat.le_refl 0
    | succ f ih =>
      intro l
      cases l with
      | nil => exact Nat.zero_le _
      | cons b r => exact Nat.succ_le_succ (ih _)
  unfold unpackElems
  split
  · exact List.length_take_le _ _
  · rw [List.length_map]
    exact cut _ _ _

theorem ceilDiv_mono (b : Nat) {m n : Nat} (h : m ≤ n) : ceilDiv m b ≤ ceilDiv n b := Nat.div_le_div_right (by omega)

theorem elemBytes_mono (code : Nat) {m n : Nat} (h : m ≤ n) : elemBytes code m ≤ elemBytes code n := ceilDiv_mono 8 (Nat.mul_le_mul_left _ h)

theorem mul_lt_of_lt_ceilDiv {a b i : Nat} (hb : 0 < b) (h : i < ceilDiv a b) : i * b < a := by
  have := (Nat.le_div_iff_mul_le hb).mp h
  rw [Nat.succ_mul] at this
  omega

theorem mul_le_of_lt_ceilDiv {a b i : Nat} (h : i < ceilDiv a b) : i * b ≤ a := by
  rcases Nat.eq_zero_or_pos b with rfl | hb
  · exact Nat.zero_le _
  · exact Nat.le_of_lt (mul_lt_of_lt_ceilDiv hb h)

theorem lt_ceilDiv_of_mul_lt {a b i : Nat} (hb : 0 < b) (h : i * b < a) : i < ceilDiv a b := by
  refine (Nat.le_div_iff_mul_le hb).mpr ?_
  rw [Nat.succ_mul]
  omega

theorem div_le_ceilDiv {m n : Nat} (h : m ≤ n) : m / 32 ≤ ceilDiv n 32 := by
  unfold ceilDiv
  omega

/-! ### Words and rows -/

section
variable {s₀ s : State} {t : TileId} (clean : CleanTile s₀ t) (hs : RegsOnly s₀ s)
include clean hs

theorem rdTile_answers {off n : Nat} (h : off + n ≤ storeEnd) : Answers s₀ (s.rdTile t off n) (· = s₀.bytes (sram t off) n) := by
  rw [rdTile_clean (regsOnly_clean hs clean) h, regsOnly_bytes hs]
  exact ⟨hs, _, rfl, rfl⟩

theorem touch_answers {off n : Nat} (h : off + n ≤ storeEnd) : Answers s₀ (s.touch t off n) (fun _ => True) := by
  obtain ⟨hr, v, hv, _⟩ := rdTile_answers clean hs h
  exact ⟨hr, (), congrArg (Except.map fun _ => ()) hv, trivial⟩

/-- A row of an operand: its elements, and where block-scaled its scale bytes (R40, R82). -/
theorem rdOperand_answers {off soff code n : Nat} (row : off + elemBytes code n ≤ storeEnd)
    (scales : isBlock code = true → soff + ceilDiv n 32 ≤ storeEnd) : Answers s₀ (s.rdOperand t off soff code n)
      (· = operandElems code n (s₀.bytes (sram t off) (elemBytes code n)) (s₀.bytes (sram t soff) (ceilDiv n 32))) := by
  obtain ⟨hr, v, hv, rfl⟩ := rdTile_answers clean hs row
  unfold State.rdOperand
  simp only [hv]
  by_cases hb : isBlock code = true
  · obtain ⟨hr', v', hv', rfl⟩ := rdTile_answers clean hr (scales hb)
    simp only [hb, if_true, hv']
    exact ⟨hr', _, rfl, rfl⟩
  · simp only [hb]
    exact ⟨hr, _, rfl, by simp [operandElems, hb]⟩

end

/-- The elements of row r of an operand in sub-product sp (R82, R87). -/
def rowElems (s : State) (t : Nat) (o : List Nat) (code n sp r : Nat) : List Elem :=
  operandElems code n (s.bytes (sram t (64 * rowUnit (o.getD 0 0) (o.getD 1 0) (o.getD 4 0) sp r)) (elemBytes code n))
    (s.bytes (sram t (64 * rowUnit (o.getD 2 0) (o.getD 3 0) (o.getD 5 0) sp r)) (ceilDiv n 32))

/-- A row of an operand lies in SRAM, with its scale bytes where block-scaled. -/
def RowFits (o : List Nat) (code n sp r : Nat) : Prop :=
  64 * rowUnit (o.getD 0 0) (o.getD 1 0) (o.getD 4 0) sp r + elemBytes code n ≤ sramSize ∧
  (isBlock code = true → 64 * rowUnit (o.getD 2 0) (o.getD 3 0) (o.getD 5 0) sp r + ceilDiv n 32 ≤ sramSize)

theorem sramSize_le_storeEnd : sramSize ≤ storeEnd := by decide

section
variable {s₀ s : State} {t : TileId} (clean : CleanTile s₀ t) (hs : RegsOnly s₀ s) {o : List Nat} {code n sp r : Nat} (fits : RowFits o code n sp r)
include clean hs fits

theorem rdRow_answers : Answers s₀ (s.rdRow t o code n sp r) (· = rowElems s₀ t o code n sp r) :=
  rdOperand_answers clean hs (fits.1.trans sramSize_le_storeEnd) (fun h => (fits.2 h).trans sramSize_le_storeEnd)

theorem touchRow_answers {lo hi : Nat} (hlo : lo ≤ n) (hhi : hi ≤ n) : Answers s₀ (s.touchRow t o code sp r lo hi) (fun _ => True) := by
  have := sramSize_le_storeEnd
  obtain ⟨row, scales⟩ := fits
  obtain ⟨hr, v, hv, _⟩ := touch_answers clean hs (off := 64 * rowUnit (o.getD 0 0) (o.getD 1 0) (o.getD 4 0) sp r + elemBytes code lo)
    (n := elemBytes code hi - elemBytes code lo) (by
      have := elemBytes_mono code hlo
      have := elemBytes_mono code hhi
      omega)
  unfold State.touchRow
  simp only [hv]
  split
  · next hb =>
    refine touch_answers clean hr ?_
    have := scales hb
    have := ceilDiv_mono 32 hhi
    have := div_le_ceilDiv hlo
    omega
  · exact ⟨hr, v, hv, trivial⟩

end

end Sys2Proof.Proofs
end

section
/-! The passes of a product on a tile without errors (R83, R85, R88, R95): every read succeeds, and the rows that come out. -/
namespace Sys2Proof.Proofs

open Sys2Proof Sys2Proof.Machine Sys2Proof.Laws

/-- What the table of R84 lets pass: there is output, every row read or written lies in SRAM (a drain into a buffer's window is left out
here), and entries lie in the accumulator store. -/
structure Placed (d : QuadDesc) : Prop where
  rows : 0 < d.m
  cols : 0 < d.n
  a : d.mode ≠ 2 → ∀ sp < d.ns, ∀ r < d.m, RowFits d.a d.fa (if d.mode = 3 then d.n else d.k) sp r
  pixels : d.mode = 2 → ∀ r < d.m, ∀ tap < d.taps, ∀ p, d.pixel r tap = some p →
    64 * d.a.getD 0 0 + p * 64 * d.a.getD 1 0 + elemBytes d.fa d.chans ≤ sramSize
  plain : d.mode = 2 → isBlock d.fa = false
  b : ∀ sp < d.ns, ∀ c < (if d.mode = 3 then d.m else d.n), RowFits d.b d.fb (if d.mode = 3 then d.n else d.k) sp c
  mask : d.maskm ≠ 0 → 64 * d.mask + ceilDiv (if d.maskm = 1 then d.m else ceilDiv d.m 16) 8 ≤ sramSize
  accEntry : d.accSrc = 1 → ∀ sp < d.ns, ∀ r < d.m, rowUnit (d.acc.getD 0 0) (d.acc.getD 1 0) (d.acc.getD 2 0) sp r + d.n ≤ accEntries
  accRow : d.accSrc ≠ 0 → d.accSrc ≠ 1 → (elemFmt d.facc).width % 8 = 0 ∧ ∀ sp < d.ns, ∀ r < d.m,
    64 * rowUnit (d.acc.getD 0 0) (d.acc.getD 1 0) (d.acc.getD 2 0) sp r + elemBytes d.facc d.n ≤ sramSize
  outEntry : d.dst = true → d.outSpan.1 + d.outSpan.2 ≤ accEntries
  outRow : d.dst = false → ∀ sp < d.ns, ∀ r < d.m,
    64 * rowUnit (d.c.getD 0 0) (d.c.getD 1 0) (d.c.getD 4 0) sp r + elemBytes d.fo d.n ≤ sramSize
  outScale : isBlock d.fo = true → ∀ sp < d.ns, ∀ r < d.m,
    64 * rowUnit (d.c.getD 2 0) (d.c.getD 3 0) (d.c.getD 5 0) sp r + d.n / 32 ≤ sramSize
  work : d.usesWork = true → d.work + d.workLen ≤ accEntries

/-- A dense product of an element format whose output rows do not interleave. -/
structure Dense (d : QuadDesc) : Prop where
  mode : d.mode = 0
  mask : d.maskm = 0
  acc : d.accSrc = 0
  dst : d.dst = false
  noEntry : d.fo ≠ 9
  noBlock : isBlock d.fo = false
  width : (elemFmt d.fo).width ≠ 4
  rnd : d.rnd < 5
  apart : d.m = 1 ∨ elemBytes d.fo d.n ≤ 64 * d.c.getD 1 0

theorem mode_ne_three {d : QuadDesc} (dense : Dense d) : d.mode ≠ 3 := by
  rw [dense.mode]
  decide

theorem np_dense {d : QuadDesc} (dense : Dense d) : d.np = 128 := by rw [QuadDesc.np, dense.mode, if_neg (by decide)]

/-- A dense product has no sub-products but one (R87). -/
theorem sp_dense {d : QuadDesc} (dense : Dense d) {sp : Nat} (h : sp < d.ns) : sp = 0 := by
  rw [QuadDesc.ns, dense.mode] at h
  exact Nat.lt_one_iff.mp h

/-- A row of output that the drain writes for `n` columns at most. -/
structure RowIn (d : QuadDesc) (n : Nat) (o : OutRow) : Prop where
  sp : o.sp < d.ns
  r : o.r < d.m
  vals : o.vals.length ≤ n

/-- Row r of a dense product's n columns from c0 on (R64). -/
def denseRow (s : State) (t : Nat) (d : QuadDesc) (c0 n r : Nat) : List (Val × Bool) :=
  (List.range n).map (fun i => dotProduct d.g none (rowElems s t d.a d.fa d.k 0 r) (rowElems s t d.b d.fb d.k 0 (i + c0)))

/-- The rows that the n columns from c0 on give; for a dense product each row of A gives its own. -/
structure RowsOf (s : State) (t : Nat) (d : QuadDesc) (c0 n : Nat) (rows : List OutRow) : Prop where
  rowIn : ∀ o ∈ rows, RowIn d n o
  dense : Dense d → ∀ o ∈ rows, o.vals = denseRow s t d c0 n o.r
  all : Dense d → ∀ r < d.m, ∃ o ∈ rows, o.r = r

/-- The values of a row in the last pass. -/
def rowVals (d : QuadDesc) (a : List Elem) (cols : List (List Elem)) (acc : List (Option Val)) : List (Val × Bool) :=
  if d.mode = 3 then ((a.zip (cols.getD 0 [])).zip acc).map (fun p => dotProduct 1 p.2 [p.1.1] [p.1.2])
  else (cols.zip acc).map (fun p => dotProduct d.g p.2 a p.1)

/-! ### Lists -/

theorem forall₂_eq_map {α β : Type} {f : α → β} {l : List α} {m : List β} (h : List.Forall₂ (fun a b => b = f a) l m) : m = l.map f := by
  induction h with
  | nil => rfl
  | cons hab _ ih => rw [List.map_cons, hab, ih]

theorem map_zip_replicate {α β γ : Type} (f : α × β → γ) (l : List α) (b : β) :
    (l.zip (List.replicate l.length b)).map f = l.map (fun a => f (a, b)) := by
  induction l with
  | nil => rfl
  | cons a r ih => rw [List.length_cons, List.replicate_succ, List.zip_cons_cons, List.map_cons, ih, List.map_cons]

theorem ns_pos (d : QuadDesc) : 0 < d.ns := by
  unfold QuadDesc.ns
  split
  · exact Nat.succ_pos _
  · exact Nat.one_pos

theorem rowVals_length_le (d : QuadDesc) (a : List Elem) (cols : List (List Elem)) (acc : List (Option Val)) :
    (rowVals d a cols acc).length ≤ acc.length := by
  unfold rowVals
  split <;> (rw [List.length_map, List.length_zip]; exact Nat.min_le_right _ _)

theorem rowVals_length_le_cols {d : QuadDesc} (h : d.mode ≠ 3) (a : List Elem) (cols : List (List Elem)) (acc : List (Option Val)) :
    (rowVals d a cols acc).length ≤ cols.length := by
  rw [rowVals, if_neg h, List.length_map, List.length_zip]
  exact Nat.min_le_left _ _

theorem rowVals_dense {d : QuadDesc} (dense : Dense d) (a : List Elem) (cols : List (List Elem)) :
    rowVals d a cols (List.replicate cols.length none) = cols.map (fun col => dotProduct d.g none a col) := by
  rw [rowVals, if_neg (mode_ne_three dense), map_zip_replicate]

/-- Fed vectors are counted once they have been read. -/
theorem answers_fed {β : Type} {s : State} {x : State × Except Nat β} {P : β → Prop} (h : Answers s x P) (t : Nat) (d : QuadDesc) (r kb n : Nat) :
    Answers s (if x.2.isOk then x.1.countFed t d r kb n else x.1, x.2) P := by
  obtain ⟨hr, rest⟩ := h
  exact ⟨regsOnly_ite (regsOnly_trans hr (regsOnly_countFed _ _ _ _ _ _)) hr, rest⟩

/-- Without a mask no block is masked (R95). -/
theorem blockMasked_none {d : QuadDesc} (h : d.maskm = 0) (bs : List Byte) {r : Nat} (hr : r < d.m) : d.blockMasked bs r = false := by
  rw [QuadDesc.blockMasked, List.all_eq_false]
  exact ⟨r, List.mem_filter.mpr ⟨List.mem_range.mpr hr, by simp⟩, by simp [QuadDesc.masked, h]⟩

section
variable {s₀ : State} {t : TileId} {d : QuadDesc} (clean : CleanTile s₀ t) (placed : Placed d)
include clean placed

/-! ### Activation vectors and accumulator inputs -/

theorem rdTap_answers {s : State} (hs : RegsOnly s₀ s) (hm : d.mode = 2) {r tap : Nat} (hr : r < d.m) (ht : tap < d.taps) :
    Answers s₀ (s.rdTap t d r tap) (fun _ => True) := by
  unfold State.rdTap
  split
  · exact ⟨hs, _, rfl, trivial⟩
  · next p hp =>
    have noBlock : ¬ isBlock d.fa = true := by simp [placed.plain hm]
    exact answers_mono (rdOperand_answers clean hs ((placed.pixels hm r hr tap ht p hp).trans sramSize_le_storeEnd)
      (fun h => absurd h noBlock)) (fun _ _ => trivial)

theorem rdA_answers {s : State} (hs : RegsOnly s₀ s) {sp r : Nat} (hsp : sp < d.ns) (hr : r < d.m) :
    Answers s₀ (s.rdA t d sp r) (fun a => d.mode = 0 → a = rowElems s₀ t d.a d.fa d.k sp r) := by
  unfold State.rdA
  split
  · next hm =>
    obtain ⟨hx, v, hv, _⟩ := mapReads_answers (f := fun s tap => s.rdTap t d r tap) (List.range d.taps)
      (fun s hs tap ht => rdTap_answers clean placed hs hm hr (List.mem_range.mp ht)) s hs
    exact ⟨hx, v.flatten, congrArg (Except.map List.flatten) hv, fun h => by omega⟩
  · next hm =>
    refine answers_mono (rdRow_answers clean hs (placed.a hm sp hsp r hr)) (fun a ha h0 => ?_)
    rw [ha, if_neg (by omega : ¬ d.mode = 3)]

theorem touchTap_answers {s : State} (hs : RegsOnly s₀ s) (hm : d.mode = 2) {r tap : Nat} (hr : r < d.m) (ht : tap < d.taps) (lo hi : Nat) :
    Answers s₀ (s.touchTap t d r lo hi tap) (fun _ => True) := by
  unfold State.touchTap
  split
  · exact ⟨hs, _, rfl, trivial⟩
  · next p hp =>
    dsimp only
    split
    · exact ⟨hs, _, rfl, trivial⟩
    · refine touch_answers clean hs ?_
      have := placed.pixels hm r hr tap ht p hp
      have := sramSize_le_storeEnd
      have := elemBytes_mono d.fa (Nat.min_le_right (hi - tap * d.chans) d.chans)
      have := elemBytes_mono d.fa (by omega : lo - tap * d.chans ≤ d.chans)
      omega

theorem touchA_answers {s : State} (hs : RegsOnly s₀ s) (hm : d.mode ≠ 3) {sp r lo hi : Nat} (hsp : sp < d.ns) (hr : r < d.m)
    (hlo : lo ≤ d.k) (hhi : hi ≤ d.k) : Answers s₀ (s.touchA t d sp r lo hi) (fun _ => True) := by
  unfold State.touchA
  split
  · next h2 =>
    exact runUntil_answers (List.range d.taps)
      (fun s hs tap ht => touchTap_answers clean placed hs h2 hr (List.mem_range.mp ht) lo hi) s hs
  · next h2 =>
    have fits := placed.a h2 sp hsp r hr
    rw [if_neg hm] at fits
    exact touchRow_answers clean hs fits hlo hhi

theorem rdAcc_answers {s : State} (hs : RegsOnly s₀ s) {sp r c0 n : Nat} (hsp : sp < d.ns) (hr : r < d.m) (hn : c0 + n ≤ d.n) :
    Answers s₀ (s.rdAcc t d sp r c0 n) (fun vs => vs.length ≤ n ∧ (d.accSrc = 0 → vs = List.replicate n none)) := by
  unfold State.rdAcc
  dsimp only
  split
  · exact ⟨hs, _, rfl, by simp, fun _ => rfl⟩
  · next h =>
    have := placed.accEntry h sp hsp r hr
    obtain ⟨hx, v, hv, _⟩ := rdTile_answers clean hs (n := 8 * n)
      (off := sramSize + 8 * (rowUnit (d.acc.getD 0 0) (d.acc.getD 1 0) (d.acc.getD 2 0) sp r + c0)) (by
        unfold accEntries at this
        unfold sramSize storeEnd
        omega)
    exact ⟨hx, _, congrArg (Except.map _) hv, by rw [List.length_map]; exact unpackElems_length_le _ _ _, fun h0 => by omega⟩
  · next h0 h1 =>
    obtain ⟨hw, row⟩ := placed.accRow h0 h1
    have := row sp hsp r hr
    have := sramSize_le_storeEnd
    have split : elemBytes d.facc c0 + elemBytes d.facc n ≤ elemBytes d.facc d.n := by
      refine Nat.le_trans ?_ (elemBytes_mono d.facc hn)
      obtain ⟨q, hq⟩ := Nat.dvd_of_mod_eq_zero hw
      simp only [elemBytes, ceilDiv, hq, Nat.mul_assoc, Nat.mul_add]
      omega
    obtain ⟨hx, v, hv, _⟩ := rdTile_answers clean hs (n := elemBytes d.facc n)
      (off := 64 * rowUnit (d.acc.getD 0 0) (d.acc.getD 1 0) (d.acc.getD 2 0) sp r + elemBytes d.facc c0) (by omega)
    exact ⟨hx, _, congrArg (Except.map _) hv, by rw [List.length_map]; exact unpackElems_length_le _ _ _, fun h => absurd h h0⟩

/-! ### Passes -/

/-- A pass before the last: its reads succeed, and a dense product takes no accumulator input. -/
theorem quadPass_answers {s : State} (hs : RegsOnly s₀ s) (hm : d.mode ≠ 3) (mask : List Byte) {c0 n kb : Nat} (hn : c0 + n ≤ d.n)
    (hk : kb < d.kPasses) : Answers s₀ (s.quadPass t d mask c0 n kb)
      (fun accs => Dense d → kb = 0 → ∀ r < d.m, (accs.getD r []).getD 0 [] = List.replicate n none) := by
  have lo : kb * d.kp ≤ d.k := by
    rw [QuadDesc.kPasses, if_neg hm] at hk
    exact mul_le_of_lt_ceilDiv hk
  have hi : min d.k (kb * d.kp + d.kp) ≤ d.k := Nat.min_le_left _ _
  have weights : ∀ s, RegsOnly s₀ s → ∀ sp ∈ List.range d.ns,
      Answers s₀ (runUntil (fun s c => s.touchRow t d.b d.fb sp (c0 + c) (kb * d.kp) (min d.k (kb * d.kp + d.kp))) s (List.range n)) (fun _ => True) :=
    fun s hs sp hsp => runUntil_answers _ (fun s hs c hc => by
      have fits := placed.b sp (List.mem_range.mp hsp) (c0 + c) (by rw [if_neg hm]; have := List.mem_range.mp hc; omega)
      rw [if_neg hm] at fits
      exact touchRow_answers clean hs fits lo hi) s hs
  obtain ⟨hx, _, hv, _⟩ := runUntil_answers (List.range d.ns) weights s hs
  unfold State.quadPass
  dsimp only
  rw [hv]
  dsimp only
  refine answers_mono (mapReads_answers (P := fun r acc => Dense d → kb = 0 → acc.getD 0 [] = List.replicate n none) _ (fun s hs r hr => ?_) _ hx)
    (fun accs h dense k0 r hr => forall₂_range_getD h hr [] dense k0)
  have hr := List.mem_range.mp hr
  by_cases masked : d.blockMasked mask r = true
  · rw [if_pos masked]
    refine ⟨regsOnly_trans hs (regsOnly_countSkip s t d r n), [], rfl, fun dense => ?_⟩
    rw [blockMasked_none dense.mask mask hr] at masked
    cases masked
  · rw [if_neg masked]
    refine answers_mono (answers_fed (mapReads_answers (P := fun _ vs => Dense d → kb = 0 → vs = List.replicate n none) _
      (fun s hs sp hsp => ?_) s hs) t d r kb n) (fun acc all dense k0 => forall₂_range_getD all (ns_pos d) [] dense k0)
    obtain ⟨hz, _, hv, _⟩ := touchA_answers clean placed hs hm (List.mem_range.mp hsp) hr lo hi
    rw [hv]
    by_cases k0 : kb = 0
    · simp only [if_pos k0]
      exact answers_mono (rdAcc_answers clean placed hz (List.mem_range.mp hsp) hr hn) (fun vs h dense _ => h.2 dense.acc)
    · simp only [if_neg k0]
      exact ⟨hz, [], rfl, fun _ h => absurd h k0⟩

/-- Row r of sub-product sp in the last pass (R64, R83). -/
theorem quadVals_answers {s : State} (hs : RegsOnly s₀ s) (acc : Option (List (Option Val))) (hacc : d.mode = 3 → acc = none) {c0 sp r : Nat}
    (cols : List (List Elem)) (hsp : sp < d.ns) (hr : r < d.m) (hn : c0 + (if d.mode = 3 then d.n else cols.length) ≤ d.n) :
    Answers s₀ (s.quadVals t d acc c0 cols sp r) (fun o => o.sp = sp ∧ o.r = r ∧ (o.vals.length ≤ if d.mode = 3 then d.n else cols.length) ∧
      (Dense d → (∀ vs, acc = some vs → vs = List.replicate cols.length none) →
        o.vals = cols.map (fun col => dotProduct d.g none (rowElems s₀ t d.a d.fa d.k sp r) col))) := by
  obtain ⟨hx, a, ha, hA⟩ := rdA_answers clean placed hs hsp hr
  unfold State.quadVals
  dsimp only
  rw [ha]
  cases acc with
  | some vs =>
    have h3 : d.mode ≠ 3 := fun h => Option.some_ne_none vs (hacc h)
    refine ⟨hx, ⟨sp, r, rowVals d a cols vs⟩, rfl, rfl, rfl, ?_, fun dense h => ?_⟩
    · rw [if_neg h3]
      exact rowVals_length_le_cols h3 a cols vs
    · rw [h vs rfl, rowVals_dense dense, hA dense.mode]
  | none =>
    obtain ⟨hy, vs, hvs, hlen, hnone⟩ := rdAcc_answers clean placed hx hsp hr hn
    dsimp only
    rw [hvs]
    refine ⟨hy, ⟨sp, r, rowVals d a cols vs⟩, rfl, rfl, rfl, (rowVals_length_le d a cols vs).trans hlen, fun dense _ => ?_⟩
    rw [hnone dense.acc, if_neg (mode_ne_three dense), rowVals_dense dense, hA dense.mode]

end

end Sys2Proof.Proofs
end

section
/-! The output rows of a product on a tile without errors: the last pass, the output blocks, and the element-wise mode (R83, R85, R90). -/
namespace Sys2Proof.Proofs

open Sys2Proof Sys2Proof.Machine Sys2Proof.Laws

/-! ### Lists -/

theorem forall₂_exists_left {α β : Type} {P : α → β → Prop} {l : List α} {m : List β} (h : List.Forall₂ P l m) {b : β} (hb : b ∈ m) :
    ∃ a ∈ l, P a b := by
  induction h with
  | nil => cases hb
  | cons hab _ ih =>
    rcases List.mem_cons.mp hb with rfl | hb
    · exact ⟨_, List.mem_cons_self, hab⟩
    · obtain ⟨a, ha, hp⟩ := ih hb
      exact ⟨a, List.mem_cons_of_mem _ ha, hp⟩

theorem forall₂_exists_right {α β : Type} {P : α → β → Prop} {l : List α} {m : List β} (h : List.Forall₂ P l m) {a : α} (ha : a ∈ l) :
    ∃ b ∈ m, P a b := forall₂_exists_left h.flip ha

theorem colStep_dense {d : QuadDesc} (dense : Dense d) : d.colStep = 128 := by
  rw [QuadDesc.colStep, if_neg (fun h => absurd (dense.mode.symm.trans h.1) (by decide)), np_dense dense]

/-- Blocks of np columns from the first of w columns on hold w columns at most. -/
theorem sum_blocks_le (np w q : Nat) : ((List.range q).map (fun i => min np (w - i * np))).sum ≤ w := by
  have upTo : ((List.range q).map (fun i => min np (w - i * np))).sum ≤ min (q * np) w := by
    induction q with
    | zero => simp
    | succ q ih =>
      rw [List.range_succ, List.map_append, List.sum_append, List.map_cons, List.map_nil, List.sum_singleton, Nat.succ_mul]
      omega
  omega

/-- The rows that row r of A gives in all sub-products. -/
structure RowsAt (s : State) (t : Nat) (d : QuadDesc) (c0 n r : Nat) (rows : List OutRow) : Prop where
  rowIn : ∀ o ∈ rows, RowIn d n o
  dense : Dense d → ∀ o ∈ rows, o.vals = denseRow s t d c0 n o.r
  made : Dense d → ∃ o ∈ rows, o.r = r

theorem rowsOf_flatten {s : State} {t : Nat} {d : QuadDesc} {c0 n : Nat} {oss : List (List OutRow)}
    (h : List.Forall₂ (RowsAt s t d c0 n) (List.range d.m) oss) : RowsOf s t d c0 n oss.flatten := by
  refine ⟨fun o ho => ?_, fun dense o ho => ?_, fun dense r hr => ?_⟩
  · obtain ⟨os, hos, ho⟩ := List.mem_flatten.mp ho
    obtain ⟨r, _, rows⟩ := forall₂_exists_left h hos
    exact rows.rowIn o ho
  · obtain ⟨os, hos, ho⟩ := List.mem_flatten.mp ho
    obtain ⟨r, _, rows⟩ := forall₂_exists_left h hos
    exact rows.dense dense o ho
  · obtain ⟨os, hos, rows⟩ := forall₂_exists_right h (List.mem_range.mpr hr)
    obtain ⟨o, ho, hor⟩ := rows.made dense
    exact ⟨o, List.mem_flatten.mpr ⟨os, hos, ho⟩, hor⟩

theorem gathers_flatten {s : State} {x : State × List (List OutRow) × Option Nat} {P : List (List OutRow) → Prop} {Q : List OutRow → Prop}
    (h : Gathers s x P) (i : ∀ oss, P oss → Q oss.flatten) : Gathers s (x.1, x.2.1.flatten, x.2.2) Q := by
  obtain ⟨hs, hnone, hp⟩ := h
  exact ⟨hs, hnone, i _ hp⟩

/-- The rows of an output block behind those before it, row by row. -/
def joinRows (before : Option (List OutRow)) (rows : List OutRow) : List OutRow :=
  match before with
  | none => rows
  | some os => (os.zip rows).map (fun p => { p.1 with vals := p.1.vals ++ p.2.vals })

/-- An output block without a failure, and the blocks after it. -/
theorem quadGroup_cons {s : State} {t : Nat} {d : QuadDesc} {mask : List Byte} {c : Nat} (h : (s.quadBlock t d mask c).2.2 = none)
    (before : Option (List OutRow)) (cs : List Nat) : s.quadGroup t d mask before (c :: cs) =
      (s.quadBlock t d mask c).1.quadGroup t d mask (some (joinRows before (s.quadBlock t d mask c).2.1)) cs := by
  conv_lhs => unfold State.quadGroup
  dsimp only
  rw [h]
  rfl

theorem rowIn_joinRows {d : QuadDesc} {before : Option (List OutRow)} {rows : List OutRow} {m n : Nat}
    (hb : ∀ os, before = some os → ∀ o ∈ os, RowIn d m o) (hr : ∀ o ∈ rows, RowIn d n o) : ∀ o ∈ joinRows before rows, RowIn d (m + n) o := by
  intro o ho
  cases before with
  | none =>
    obtain ⟨sp, r, vals⟩ := hr o ho
    exact ⟨sp, r, by omega⟩
  | some os =>
    obtain ⟨p, hp, rfl⟩ := List.mem_map.mp ho
    obtain ⟨h1, h2⟩ := List.of_mem_zip hp
    obtain ⟨sp, r, vals⟩ := hb os rfl p.1 h1
    refine ⟨sp, r, ?_⟩
    have := (hr p.2 h2).vals
    rw [List.length_append]
    omega

/-- Rows gathered without a failure drain whole. -/
theorem drains_of_gathers {s : State} {x : State × List OutRow × Option Nat} {P : List OutRow → Prop} (h : Gathers s x P) (k : EngCmd) (l : Loc)
    (d : QuadDesc) (mask : List Byte) (c0 : Nat) :
    ∃ u rows, RegsOnly s u ∧ P rows ∧ x.1.quadDrains k l d mask c0 x.2.1 x.2.2 = u.quadDrains k l d mask c0 rows none := by
  obtain ⟨hs, hnone, hp⟩ := h
  exact ⟨x.1, x.2.1, hs, hp, by rw [hnone]⟩

section
variable {s₀ : State} {t : TileId} {d : QuadDesc} (clean : CleanTile s₀ t) (placed : Placed d)
include clean placed

/-! ### The last pass -/

/-- The weights of the n columns from c0 on. -/
theorem weights_answers {s : State} (hs : RegsOnly s₀ s) (hm : d.mode ≠ 3) {c0 n : Nat} (hn : c0 + n ≤ d.n) :
    Answers s₀ (mapReads (fun s sp => mapReads (fun s c => s.rdRow t d.b d.fb d.k sp c) s ((List.range n).map (· + c0))) s (List.range d.ns))
      (List.Forall₂ (fun sp w => w = (List.range n).map (fun i => rowElems s₀ t d.b d.fb d.k sp (i + c0))) (List.range d.ns)) := by
  refine mapReads_answers _ (fun s hs sp hsp => ?_) s hs
  refine answers_mono (mapReads_answers (P := fun c v => v = rowElems s₀ t d.b d.fb d.k sp c) _ (fun s hs c hc => ?_) s hs) (fun w hw => ?_)
  · obtain ⟨i, hi, rfl⟩ := List.mem_map.mp hc
    have fits := placed.b sp (List.mem_range.mp hsp) (i + c0) (by rw [if_neg hm]; have := List.mem_range.mp hi; omega)
    rw [if_neg hm] at fits
    exact rdRow_answers clean hs fits
  · rw [forall₂_eq_map hw, List.map_map]
    rfl

/-- Row r of sub-product sp of the n columns from c0 on, where a dense product has taken no accumulator input (R64). -/
theorem lastRow_answers {s : State} (hs : RegsOnly s₀ s) (hm : d.mode ≠ 3) {c0 n sp r : Nat} (hn : c0 + n ≤ d.n) (hsp : sp < d.ns) (hr : r < d.m)
    (acc : Option (List (Option Val))) (hacc : Dense d → sp = 0 → ∀ vs, acc = some vs → vs = List.replicate n none) :
    Answers s₀ (s.quadVals t d acc c0 ((List.range n).map (fun i => rowElems s₀ t d.b d.fb d.k sp (i + c0))) sp r)
      (fun o => RowIn d n o ∧ o.r = r ∧ (Dense d → o.vals = denseRow s₀ t d c0 n o.r)) := by
  have len : ((List.range n).map (fun i => rowElems s₀ t d.b d.fb d.k sp (i + c0))).length = n := by rw [List.length_map, List.length_range]
  refine answers_mono (quadVals_answers clean placed hs acc (fun h => absurd h hm) _ hsp hr (by rw [if_neg hm, len]; exact hn)) (fun o h => ?_)
  obtain ⟨rfl, rfl, hlen, values⟩ := h
  rw [if_neg hm, len] at hlen
  refine ⟨⟨hsp, hr, hlen⟩, rfl, fun dense => ?_⟩
  have one : o.sp = 0 := sp_dense dense hsp
  rw [values dense (by rw [len]; exact hacc dense one), List.map_map, denseRow, one]
  rfl

/-- The last pass of n columns (R83, R85). -/
theorem quadLast_gathers {s : State} (hs : RegsOnly s₀ s) (hm : d.mode ≠ 3) (mask : List Byte) {c0 n : Nat} (hn : c0 + n ≤ d.n)
    (accs : Option (List AccRow))
    (hacc : ∀ as, accs = some as → Dense d → ∀ r < d.m, (as.getD r []).getD 0 [] = List.replicate n none) :
    Gathers s₀ (s.quadLast t d mask c0 n accs) (RowsOf s₀ t d c0 n) := by
  obtain ⟨hx, ws, hws, weights⟩ := weights_answers clean placed hs hm hn
  unfold State.quadLast
  dsimp only
  rw [hws]
  dsimp only
  refine gathers_flatten (gatherUntil_gathers (P := RowsAt s₀ t d c0 n) (List.range d.m) (fun s hs r hr => ?_) _ hx) (fun oss => rowsOf_flatten)
  have hr := List.mem_range.mp hr
  by_cases masked : d.blockMasked mask r = true
  · rw [if_pos masked]
    have unmasked : Dense d → False := fun dense => by
      rw [blockMasked_none dense.mask mask hr] at masked
      cases masked
    exact ⟨regsOnly_trans hs (regsOnly_countSkip s t d r n), [], rfl, fun o ho => absurd ho List.not_mem_nil, fun h => (unmasked h).elim,
      fun h => (unmasked h).elim⟩
  · rw [if_neg masked]
    refine answers_mono (answers_fed (mapReads_answers (P := fun _ o => RowIn d n o ∧ o.r = r ∧ (Dense d → o.vals = denseRow s₀ t d c0 n o.r)) _
      (fun s hs sp hsp => ?_) s hs) t d r (d.kPasses - 1) n) (fun os all => ⟨fun o ho => ?_, fun dense o ho => ?_, fun _ => ?_⟩)
    · have hsp := List.mem_range.mp hsp
      rw [forall₂_range_getD weights hsp []]
      refine lastRow_answers clean placed hs hm hn hsp hr _ (fun dense h0 vs hvs => ?_)
      obtain ⟨as, ha, rfl⟩ := Option.map_eq_some_iff.mp hvs
      rw [h0, hacc as ha dense r hr]
    · obtain ⟨_, _, rowIn, _⟩ := forall₂_exists_left all ho
      exact rowIn
    · obtain ⟨_, _, _, _, vals⟩ := forall₂_exists_left all ho
      exact vals dense
    · obtain ⟨o, ho, _, h, _⟩ := forall₂_exists_right all (List.mem_range.mpr (ns_pos d))
      exact ⟨o, ho, h⟩

/-! ### Output blocks -/

/-- One output block (R85). -/
theorem quadBlock_gathers {s : State} (hs : RegsOnly s₀ s) (hm : d.mode ≠ 3) (mask : List Byte) {c0 : Nat} (hc : c0 ≤ d.n) :
    Gathers s₀ (s.quadBlock t d mask c0) (RowsOf s₀ t d c0 (min d.np (d.n - c0))) := by
  have hn : c0 + min d.np (d.n - c0) ≤ d.n := by omega
  unfold State.quadBlock
  dsimp only
  split
  · exact quadLast_gathers clean placed hs hm mask hn none (fun as h => by cases h)
  · next several =>
    obtain ⟨hx, accs, hv, none₀⟩ := quadPass_answers clean placed hs hm mask hn (kb := 0) (by omega)
    obtain ⟨hy, _, hu, _⟩ := runUntil_answers (s₀ := s₀) (List.range (d.kPasses - 2))
      (f := fun s i => ((s.quadPass t d mask c0 (min d.np (d.n - c0)) (i + 1)).1,
        (s.quadPass t d mask c0 (min d.np (d.n - c0)) (i + 1)).2.map (fun _ => ()))) (fun s hs i hi => by
        have hi := List.mem_range.mp hi
        obtain ⟨hr, v, hv, _⟩ := quadPass_answers clean placed hs hm mask hn (kb := i + 1) (by omega)
        exact ⟨hr, (), congrArg (Except.map fun _ => ()) hv, trivial⟩) _ hx
    rw [hv]
    dsimp only
    rw [hu]
    refine quadLast_gathers clean placed hy hm mask hn (some accs) (fun as h dense r hr => ?_)
    cases h
    exact none₀ dense rfl r hr

/-- Output blocks one after the other (R83). -/
theorem quadGroup_gathers (hm : d.mode ≠ 3) (mask : List Byte) (w : Nat) (cs : List Nat) : ∀ (s : State) (before : Option (List OutRow)) (w₀ : Nat),
    RegsOnly s₀ s → (∀ c ∈ cs, c ≤ d.n) → (∀ os, before = some os → ∀ o ∈ os, RowIn d w₀ o) →
    w₀ + (cs.map (fun c => min d.np (d.n - c))).sum ≤ w → Gathers s₀ (s.quadGroup t d mask before cs) (fun rows => ∀ o ∈ rows, RowIn d w o) := by
  induction cs with
  | nil =>
    intro s before w₀ hs _ hb hw
    rw [List.map_nil, List.sum_nil] at hw
    refine ⟨hs, rfl, fun o ho => ?_⟩
    cases before with
    | none => cases ho
    | some os =>
      obtain ⟨sp, r, vals⟩ := hb os rfl o ho
      exact ⟨sp, r, by omega⟩
  | cons c r ih =>
    intro s before w₀ hs hc hb hw
    rw [List.map_cons, List.sum_cons] at hw
    obtain ⟨hx, hnone, rows⟩ := quadBlock_gathers clean placed hs hm mask (hc c List.mem_cons_self)
    rw [quadGroup_cons hnone]
    refine ih _ _ (w₀ + min d.np (d.n - c)) hx (fun c hc' => hc c (List.mem_cons_of_mem _ hc')) (fun os h => ?_) (by omega)
    cases h
    exact rowIn_joinRows hb rows.rowIn

/-- The output blocks whose rows drain together (R67, R83). -/
theorem quadStep_gathers {s : State} (hs : RegsOnly s₀ s) (hm : d.mode ≠ 3) (mask : List Byte) {c0 : Nat} (hc : c0 < d.n) :
    Gathers s₀ (s.quadGroup t d mask none ((List.range (ceilDiv (min d.colStep (d.n - c0)) d.np)).map (fun i => c0 + i * d.np)))
      (fun rows => (∀ o ∈ rows, RowIn d (d.n - c0) o) ∧ (Dense d → RowsOf s₀ t d c0 (min 128 (d.n - c0)) rows)) := by
  have inside : ∀ c ∈ (List.range (ceilDiv (min d.colStep (d.n - c0)) d.np)).map (fun i => c0 + i * d.np), c ≤ d.n := by
    intro c h
    obtain ⟨i, hi, rfl⟩ := List.mem_map.mp h
    have := mul_le_of_lt_ceilDiv (List.mem_range.mp hi)
    omega
  have width : 0 + (((List.range (ceilDiv (min d.colStep (d.n - c0)) d.np)).map (fun i => c0 + i * d.np)).map
      (fun c => min d.np (d.n - c))).sum ≤ d.n - c0 := by
    have blocks := sum_blocks_le d.np (d.n - c0) (ceilDiv (min d.colStep (d.n - c0)) d.np)
    rw [List.map_map, Nat.zero_add]
    simpa only [Function.comp_def, Nat.sub_add_eq] using blocks
  obtain ⟨hr, hnone, rowIn⟩ := quadGroup_gathers clean placed hm mask (d.n - c0) _ s none 0 hs inside (fun os h => by cases h) width
  refine ⟨hr, hnone, rowIn, fun dense => ?_⟩
  have one : ceilDiv (min 128 (d.n - c0)) 128 = 1 := by
    unfold ceilDiv
    omega
  obtain ⟨_, hb, rows⟩ := quadBlock_gathers clean placed hs hm mask (Nat.le_of_lt hc)
  rw [np_dense dense] at rows
  rw [colStep_dense dense, np_dense dense, one, List.range_one, List.map_cons, List.map_nil, Nat.zero_mul, Nat.add_zero, quadGroup_cons hb]
  exact rows

/-! ### Element-wise mode -/

/-- The element-wise mode drains a row of each row of A (R90). -/
theorem quadElementwise_drains {s : State} (hs : RegsOnly s₀ s) (hm : d.mode = 3) (k : EngCmd) :
    ∃ u rows, RegsOnly s₀ u ∧ (∀ o ∈ rows, RowIn d d.n o) ∧ s.quadElementwise k ⟨t, k.ctx⟩ d = u.quadDrains k ⟨t, k.ctx⟩ d [] 0 rows none := by
  unfold State.quadElementwise
  refine drains_of_gathers (gathers_mono (gatherUntil_gathers (P := fun _ o => RowIn d d.n o) _ (fun s hs r hr => ?_) s hs)
    (fun rows h o ho => (forall₂_exists_left h ho).choose_spec.2)) k ⟨t, k.ctx⟩ d [] 0
  have hr := List.mem_range.mp hr
  have fits := placed.b 0 (ns_pos d) r (by rw [if_pos hm]; exact hr)
  rw [if_pos hm] at fits
  obtain ⟨hx, v, hv, _⟩ := rdRow_answers clean hs fits
  dsimp only
  rw [hv]
  dsimp only
  refine answers_mono (answers_fed (quadVals_answers clean placed hx none (fun _ => rfl) [v] (ns_pos d) hr ?_) t d r 0 d.n) (fun o h => ?_)
  · rw [if_pos hm]
    omega
  · obtain ⟨hsp, rfl, hlen, _⟩ := h
    rw [if_pos hm] at hlen
    exact ⟨hsp ▸ ns_pos d, hr, hlen⟩

end

end Sys2Proof.Proofs
end

section
/-! The drain of a product on a tile without errors (R67, R68, R83): what is written, and that nothing else changes. -/
namespace Sys2Proof.Proofs

open Sys2Proof Sys2Proof.Machine Sys2Proof.Laws

/-! ### Work in a tile's memory -/

/-- Work that leaves every tile and the job as they are, gives no word of tile t an error, and changes bytes within the ranges alone. -/
structure Worked (t : TileId) (rs : List (Nat × Nat)) (s u : State) : Prop where
  tiles : u.tiles = s.tiles
  job : u.job = s.job
  clean : CleanTile u t
  bytes : SameBytesOutside rs s u

theorem worked_of_regsOnly {t : TileId} {rs : List (Nat × Nat)} {s u : State} (clean : CleanTile s t) (h : RegsOnly s u) : Worked t rs s u := by
  obtain ⟨r, rfl⟩ := h
  exact ⟨rfl, rfl, clean, fun _ _ => rfl⟩

theorem worked_trans {t : TileId} {rs : List (Nat × Nat)} {s u v : State} (h : Worked t rs s u) (k : Worked t rs u v) : Worked t rs s v :=
  ⟨k.tiles.trans h.tiles, k.job.trans h.job, k.clean, fun a ha => (k.bytes a ha).trans (h.bytes a ha)⟩

theorem worked_mono {t : TileId} {rs qs : List (Nat × Nat)} {s u : State} (h : Worked t rs s u) (i : ∀ r ∈ rs, r ∈ qs) : Worked t qs s u :=
  ⟨h.tiles, h.job, h.clean, fun a ha => h.bytes a (fun r hr => ha r (i r hr))⟩

/-- Bytes apart from the ranges read as before. -/
theorem worked_bytes {t : TileId} {rs : List (Nat × Nat)} {s u : State} (h : Worked t rs s u) {a n : Nat}
    (apart : ∀ r ∈ rs, ∀ b, r.1 ≤ b → b < r.1 + r.2 → a ≤ b → b < a + n → False) : u.bytes a n = s.bytes a n := by
  refine List.map_congr_left (fun i hi => h.bytes (a + i) (fun r hr hin => ?_))
  have := List.mem_range.mp hi
  exact apart r hr (a + i) hin.1 hin.2 (by omega) (by omega)

/-- A write within one of the ranges (R165). -/
theorem writeT0_worked {t : TileId} {rs : List (Nat × Nat)} {s : State} (clean : CleanTile s t) {off : Nat} (bs : List Byte)
    (fits : off + bs.length ≤ storeEnd) {x n : Nat} (hr : (sram t x, n) ∈ rs) (lo : x ≤ off) (hi : off + bs.length ≤ x + n) :
    (s.writeT0 (sram t off) bs).2 = true ∧ Worked t rs s (s.writeT0 (sram t off) bs).1 ∧
      ∀ b, (s.writeT0 (sram t off) bs).1.byte b = (s.poke (sram t off) bs).byte b := by
  obtain ⟨ok, ⟨m, p, q, only, hp, hq⟩, byte⟩ := writeT0_clean clean bs fits
  refine ⟨ok, ⟨?_, ?_, fun w hl hu => ?_, fun a ha => ?_⟩, byte⟩
  · rw [only]
  · rw [only]
  · rw [only]
    exact ⟨hp w (clean w hl hu).1, hq w (clean w hl hu).2⟩
  · have out := ha _ hr
    rw [sram_eq] at out
    rw [byte, byte_poke_out]
    rw [sram_eq]
    omega

theorem windowOf_congr {s u : State} (h : u.job = s.job) (t off n : Nat) : u.windowOf t off n = s.windowOf t off n := by
  simp only [State.windowOf, State.bufDesc, State.buffers, h]

/-! ### Packed elements -/

theorem width_eq (f : Fmt) : f.width = 4 ∨ f.width = 8 * (f.width / 8) := by cases f <;> decide

theorem leBytes_length (n v : Nat) : (leBytes n v).length = n := by
  induction n generalizing v with
  | zero => rfl
  | succ n ih => rw [leBytes, List.length_cons, ih]

theorem packNibbles_length (es : List Nat) : (packNibbles es).length = (es.length + 1) / 2 := by
  induction es using packNibbles.induct with
  | case1 a b r ih =>
    rw [packNibbles, List.length_cons, ih, List.length_cons, List.length_cons]
    omega
  | case2 a => simp [packNibbles]
  | case3 => rfl

theorem packElems_length {w : Nat} (h : w ≠ 4) (es : List Nat) : (packElems w es).length = w / 8 * es.length := by
  rw [packElems, if_neg h]
  induction es with
  | nil => rfl
  | cons e r ih => rw [List.map_cons, List.flatten_cons, List.length_append, ih, leBytes_length, List.length_cons, Nat.mul_succ, Nat.add_comm]

/-- The bytes of elements of a whole number of bytes. -/
theorem elemBytes_eq {code : Nat} (h : (elemFmt code).width ≠ 4) (n : Nat) : elemBytes code n = (elemFmt code).width / 8 * n := by
  obtain h4 | h8 := width_eq (elemFmt code)
  · exact absurd h4 h
  · have : (elemFmt code).width * n = 8 * ((elemFmt code).width / 8 * n) := by rw [← Nat.mul_assoc, ← h8]
    rw [elemBytes, ceilDiv, this]
    omega

/-- Elements from an even column on lie within their row. -/
theorem packElems_within (code : Nat) {c0 n : Nat} (es : List Nat) (even : c0 % 2 = 0) (hn : c0 + es.length ≤ n) :
    elemBytes code c0 + (packElems (elemFmt code).width es).length ≤ elemBytes code n := by
  by_cases h4 : (elemFmt code).width = 4
  · rw [packElems, if_pos h4, packNibbles_length, elemBytes, elemBytes, h4]
    unfold ceilDiv
    omega
  · rw [elemBytes_eq h4, elemBytes_eq h4, packElems_length h4, ← Nat.mul_add]
    exact Nat.mul_le_mul_left _ hn

/-! ### The final conversion -/

theorem encodeBlock_length_le (vs : List Val) (f : Fmt) (mode : Rnd) (inf : Bool) (draws : Nat → Nat) :
    (encodeBlock vs f mode inf draws).2.length ≤ vs.length := by
  unfold encodeBlock
  split
  · rw [List.length_map]
  · rw [List.length_zipWith]
    exact Nat.min_le_right _ _

theorem convert_length_le (d : QuadDesc) (draw : Nat → Nat) (vs : List (Val × Bool)) : (d.convert draw vs).1.length ≤ vs.length := by
  unfold QuadDesc.convert
  dsimp only
  split
  · rw [List.length_map]
  · split
    · rw [List.length_flatten, List.map_map, List.map_map]
      refine (List.sum_le_card_nsmul _ 32 (fun x hx => ?_)).trans ?_
      · obtain ⟨j, _, rfl⟩ := List.mem_map.mp hx
        simp only [Function.comp_apply, List.length_map]
        refine (encodeBlock_length_le _ _ _ _ _).trans ?_
        rw [List.length_map]
        exact List.length_take_le _ _
      · rw [List.length_map, List.length_range, smul_eq_mul]
        exact Nat.div_mul_le_self _ _
    · rw [List.length_map, List.length_zipWith]
      exact Nat.min_le_right _ _

/-- Scale codes: one for each whole block of a block-scaled format, and none otherwise (R40). -/
theorem convert_scales (d : QuadDesc) (draw : Nat → Nat) (vs : List (Val × Bool)) :
    (d.convert draw vs).2.2.length ≤ vs.length / 32 ∧ (isBlock d.fo = false → (d.convert draw vs).2.2 = []) := by
  unfold QuadDesc.convert
  dsimp only
  split
  · exact ⟨Nat.zero_le _, fun _ => rfl⟩
  · split
    · next h => exact ⟨by rw [List.length_map, List.length_map, List.length_range], fun hb => by rw [h] at hb; cases hb⟩
    · exact ⟨Nat.zero_le _, fun _ => rfl⟩

/-- A value of a dense product in the output format (R67). -/
def encodeOut (d : QuadDesc) (v : Val) : Nat := encodeVal (elemFmt d.fo) (convertVal v (elemFmt d.fo) d.mode' 0 d.ovf).1

theorem mode_ne_sr12 {d : QuadDesc} (h : d.rnd < 5) : d.mode' ≠ .sr12 := by
  have codes : ∀ n < 5, (Rnd.ofCode n).getD .rne ≠ .sr12 := by decide
  unfold QuadDesc.mode'
  split
  · decide
  · exact codes d.rnd h

theorem convert_dense {d : QuadDesc} (dense : Dense d) (draw : Nat → Nat) (vs : List (Val × Bool)) :
    (d.convert (fun i => if d.mode' = .sr12 then draw i else 0) vs).1 = vs.map (fun v => encodeOut d v.1) := by
  unfold QuadDesc.convert
  dsimp only
  rw [if_neg dense.noEntry, if_neg (by rw [dense.noBlock]; decide)]
  simp only [if_neg (mode_ne_sr12 dense.rnd)]
  refine List.ext_getElem (by simp) (fun i h1 h2 => ?_)
  simp [encodeOut]

end Sys2Proof.Proofs
end

section
/-! What the drain of a row writes (R67, R68, R82, R83), and an element of a dense product after it. -/
namespace Sys2Proof.Proofs

open Sys2Proof Sys2Proof.Machine Sys2Proof.Laws

/-- What a drain may change: the output, its scales, and its entries of the accumulator store. -/
def outs (t : Nat) (d : QuadDesc) : List (Nat × Nat) :=
  d.writes.map (fun r => (sram t r.1, r.2)) ++ (if d.dst then [(sram t (sramSize + 8 * d.outSpan.1), 8 * d.outSpan.2)] else [])

/-! ### Rows within their spans -/

theorem rowUnit_le (base stride bst : Nat) {subs rows sp r : Nat} (hsp : sp < subs) (hr : r < rows) :
    rowUnit base stride bst sp r ≤ base + ((subs - 1) * bst + (rows - 1) * stride) := by
  have := Nat.mul_le_mul_right bst (by omega : sp ≤ subs - 1)
  have := Nat.mul_le_mul_right stride (by omega : r ≤ rows - 1)
  unfold rowUnit
  omega

theorem le_rowUnit (base stride bst sp r : Nat) : base ≤ rowUnit base stride bst sp r := by
  unfold rowUnit
  omega

/-- A row lies in the bounding range of the rows. -/
theorem row_in_spanBytes (base stride bst len : Nat) {subs rows sp r : Nat} (hsp : sp < subs) (hr : r < rows) :
    (spanBytes base stride bst subs rows len).1 ≤ 64 * rowUnit base stride bst sp r ∧
      64 * rowUnit base stride bst sp r + len ≤
        (spanBytes base stride bst subs rows len).1 + (spanBytes base stride bst subs rows len).2 := by
  have := rowUnit_le base stride bst hsp hr
  have := le_rowUnit base stride bst sp r
  unfold spanBytes
  dsimp only
  omega

theorem row_in_spanEntries (base stride bst len : Nat) {subs rows sp r : Nat} (hsp : sp < subs) (hr : r < rows) :
    (spanEntries base stride bst subs rows len).1 ≤ rowUnit base stride bst sp r ∧
      rowUnit base stride bst sp r + len ≤
        (spanEntries base stride bst subs rows len).1 + (spanEntries base stride bst subs rows len).2 := by
  have := rowUnit_le base stride bst hsp hr
  have := le_rowUnit base stride bst sp r
  unfold spanEntries
  dsimp only
  omega

/-! ### Writing out a row -/

section
variable {s : State} {t : TileId} {d : QuadDesc} (clean : CleanTile s t) (placed : Placed d)
  (noWindow : d.dst = false → d.fo = 9 → s.windowOf t d.outSpan.1 d.outSpan.2 = none)
  {sp r c0 : Nat} (hsp : sp < d.ns) (hr : r < d.m) (even : c0 % 2 = 0) (es : List Nat) (he : c0 + es.length ≤ d.n)
include clean placed hsp hr he

/-- Entries of the accumulator store. -/
theorem entries_worked (hd : d.dst = true) :
    let a := sramSize + 8 * (rowUnit (d.c.getD 0 0) (d.c.getD 1 0) (d.c.getD 4 0) sp r + c0)
    (s.writeT0 (sram t a) (packElems 64 es)).2 = true ∧ Worked t (outs t d) s (s.writeT0 (sram t a) (packElems 64 es)).1 := by
  intro a
  have span : d.outSpan = spanEntries (d.c.getD 0 0) (d.c.getD 1 0) (d.c.getD 4 0) d.ns d.m d.n := if_pos hd
  have fits := placed.outEntry hd
  obtain ⟨lo, hi⟩ := row_in_spanEntries (d.c.getD 0 0) (d.c.getD 1 0) (d.c.getD 4 0) d.n hsp hr
  rw [← span] at lo hi
  have len : (packElems 64 es).length = 8 * es.length := packElems_length (by decide) es
  obtain ⟨ok, worked, _⟩ := writeT0_worked clean (rs := outs t d) (off := a) (packElems 64 es) (x := sramSize + 8 * d.outSpan.1) (n := 8 * d.outSpan.2)
    (by
      have whole : sramSize + 8 * accEntries = storeEnd := by decide
      omega)
    (by
      rw [outs, if_pos hd]
      exact List.mem_append_right _ List.mem_cons_self)
    (by omega) (by omega)
  exact ⟨ok, worked⟩

include even in
/-- Elements in SRAM. -/
theorem elements_worked (hd : d.dst = false) :
    let a := 64 * rowUnit (d.c.getD 0 0) (d.c.getD 1 0) (d.c.getD 4 0) sp r + elemBytes d.fo c0
    let bs := packElems (elemFmt d.fo).width es
    (s.writeT0 (sram t a) bs).2 = true ∧ Worked t (outs t d) s (s.writeT0 (sram t a) bs).1 ∧
      ∀ b, (s.writeT0 (sram t a) bs).1.byte b = (s.poke (sram t a) bs).byte b := by
  intro a bs
  have no : ¬ d.dst = true := by simp [hd]
  have span : d.outSpan = spanBytes (d.c.getD 0 0) (d.c.getD 1 0) (d.c.getD 4 0) d.ns d.m (elemBytes d.fo d.n) := if_neg no
  have fits := placed.outRow hd sp hsp r hr
  obtain ⟨lo, hi⟩ := row_in_spanBytes (d.c.getD 0 0) (d.c.getD 1 0) (d.c.getD 4 0) (elemBytes d.fo d.n) hsp hr
  rw [← span] at lo hi
  have within : elemBytes d.fo c0 + bs.length ≤ elemBytes d.fo d.n := packElems_within d.fo es even he
  have := sramSize_le_storeEnd
  refine writeT0_worked clean (rs := outs t d) bs (x := d.outSpan.1) (n := d.outSpan.2) (by omega) ?_ (by omega) (by omega)
  refine List.mem_append_left _ (List.mem_map.mpr ⟨d.outSpan, ?_, rfl⟩)
  rw [QuadDesc.writes, if_neg no]
  exact List.mem_append_left _ List.mem_cons_self

omit he in
/-- Scale codes. -/
theorem scales_worked (hb : isBlock d.fo = true) (sc : List Byte) (hsc : c0 / 32 + sc.length ≤ d.n / 32) :
    let a := 64 * rowUnit (d.c.getD 2 0) (d.c.getD 3 0) (d.c.getD 5 0) sp r + c0 / 32
    (s.writeT0 (sram t a) sc).2 = true ∧ Worked t (outs t d) s (s.writeT0 (sram t a) sc).1 := by
  intro a
  have fits := placed.outScale hb sp hsp r hr
  obtain ⟨lo, hi⟩ := row_in_spanBytes (d.c.getD 2 0) (d.c.getD 3 0) (d.c.getD 5 0) (d.n / 32) hsp hr
  have := sramSize_le_storeEnd
  obtain ⟨ok, worked, _⟩ := writeT0_worked clean (rs := outs t d) sc (off := a)
    (x := (spanBytes (d.c.getD 2 0) (d.c.getD 3 0) (d.c.getD 5 0) d.ns d.m (d.n / 32)).1)
    (n := (spanBytes (d.c.getD 2 0) (d.c.getD 3 0) (d.c.getD 5 0) d.ns d.m (d.n / 32)).2) (by omega) (by
      refine List.mem_append_left _ (List.mem_map.mpr ⟨spanBytes (d.c.getD 2 0) (d.c.getD 3 0) (d.c.getD 5 0) d.ns d.m (d.n / 32), ?_, rfl⟩)
      rw [QuadDesc.writes, if_pos hb]
      exact List.mem_append_right _ List.mem_cons_self) (by omega) (by omega)
  exact ⟨ok, worked⟩

include even noWindow in
/-- A row is written whole, and nothing beyond the output (R82, R83). -/
theorem writeOut_worked (k : EngCmd) (vs : List (Val × Bool)) (sc : List Nat)
    (hsc : sc ≠ [] → isBlock d.fo = true ∧ c0 / 32 + sc.length ≤ d.n / 32) :
    (s.writeOut ⟨t, k.ctx⟩ d sp r c0 vs es sc).2.2 = .ok () ∧ Worked t (outs t d) s (s.writeOut ⟨t, k.ctx⟩ d sp r c0 vs es sc).1 := by
  have window : (if d.fo = 9 then s.windowOf t d.outSpan.1 d.outSpan.2 else none) = none ∨ d.dst = true := by
    cases hd : d.dst with
    | true => exact .inr rfl
    | false =>
      refine .inl ?_
      split
      · next h9 => exact noWindow hd h9
      · rfl
  unfold State.writeOut
  dsimp only
  by_cases hd : d.dst = true
  · obtain ⟨ok, worked⟩ := entries_worked clean placed hsp hr es he hd
    rw [if_pos hd, if_pos ok]
    exact ⟨rfl, worked⟩
  · have hd' : d.dst = false := by simpa using hd
    obtain ⟨ok, worked, _⟩ := elements_worked clean placed hsp hr even es he hd'
    rw [if_neg hd, window.resolve_right hd]
    dsimp only
    rw [if_pos ok]
    dsimp only
    by_cases none : sc = []
    · rw [none]
      exact ⟨rfl, worked⟩
    · obtain ⟨hb, len⟩ := hsc none
      obtain ⟨ok', worked'⟩ := scales_worked worked.clean placed hsp hr hb (sc.map (BitVec.ofNat 8)) (by rw [List.length_map]; exact len)
      rw [if_neg (by simpa using none)]
      dsimp only at ok' worked' ⊢
      rw [if_pos ok']
      exact ⟨rfl, worked_trans worked worked'⟩

end

end Sys2Proof.Proofs
end

section
/-! The rows of a product drained in turn, and an element of a dense product after them (R64, R67, R68). -/
namespace Sys2Proof.Proofs

open Sys2Proof Sys2Proof.Machine Sys2Proof.Laws

/-! ### Elements among bytes -/

theorem getD_flatten_leBytes (q : Nat) (es : List Nat) : ∀ {i j : Nat}, i < es.length → j < q →
    ((es.map (leBytes q)).flatten).getD (q * i + j) 0 = (leBytes q (es.getD i 0)).getD j 0 := by
  induction es with
  | nil => exact fun hi => absurd hi (Nat.not_lt_zero _)
  | cons e r ih =>
    intro i j hi hj
    rw [List.map_cons, List.flatten_cons]
    cases i with
    | zero => rw [Nat.mul_zero, Nat.zero_add, List.getD_append _ _ _ _ (by rw [leBytes_length]; exact hj), List.getD_cons_zero]
    | succ i =>
      rw [List.getD_append_right _ _ _ _ (by rw [leBytes_length, Nat.mul_succ]; omega), leBytes_length, List.getD_cons_succ,
        show q * (i + 1) + j - q = q * i + j by rw [Nat.mul_succ]; omega]
      exact ih (Nat.lt_of_succ_lt_succ hi) hj

/-- An element among those written. -/
theorem bytes_of_poke_element {s u : State} {a w : Nat} {es : List Nat} (hw : w ≠ 4)
    (h : ∀ b, u.byte b = (s.poke a (packElems w es)).byte b) {i : Nat} (hi : i < es.length) :
    u.bytes (a + w / 8 * i) (w / 8) = leBytes (w / 8) (es.getD i 0) := by
  refine List.ext_getElem (by rw [State.bytes, List.length_map, List.length_range, leBytes_length]) (fun j hj hj' => ?_)
  have hq : j < w / 8 := by rw [leBytes_length] at hj'; exact hj'
  have hm := Nat.mul_le_mul_left (w / 8) (Nat.succ_le_of_lt hi)
  rw [Nat.mul_succ] at hm
  have len := packElems_length hw es
  have pack : packElems w es = (es.map (leBytes (w / 8))).flatten := if_neg hw
  simp only [State.bytes, List.getElem_map, List.getElem_range]
  rw [h, byte_poke, dif_pos (by omega), ← List.getD_eq_getElem _ 0, pack,
    show a + w / 8 * i + j - a = w / 8 * i + j by omega, getD_flatten_leBytes _ _ hi hq, List.getD_eq_getElem _ _ hj']

/-- Bytes apart from those written. -/
theorem bytes_of_poke_apart {s u : State} {a : Nat} {bs : List Byte} (h : ∀ b, u.byte b = (s.poke a bs).byte b) {b n : Nat}
    (apart : b + n ≤ a ∨ a + bs.length ≤ b) : u.bytes b n = s.bytes b n := by
  refine List.map_congr_left (fun i hi => ?_)
  have := List.mem_range.mp hi
  rw [h, byte_poke_out]
  omega

/-! ### The drain of a row -/

theorem regsOnly_raiseFlags (s : State) (l : Loc) (fs : List AFlags) : RegsOnly s (s.raiseFlags l fs) := by
  unfold State.raiseFlags
  extract_lets all a s₁ s₂ s₃ s₄
  have h₁ : RegsOnly s s₁ := ⟨_, rfl⟩
  exact regsOnly_trans (regsOnly_trans (regsOnly_trans (regsOnly_trans h₁ (regsOnly_count s₁ _ _)) (regsOnly_count s₂ _ _))
    (regsOnly_count s₃ _ _)) (regsOnly_count s₄ _ _)

/-- The SRAM offset of the elements from column c0 on of output row r of sub-product sp (R82, R87). -/
def outAt (d : QuadDesc) (sp r c0 : Nat) : Nat := 64 * rowUnit (d.c.getD 0 0) (d.c.getD 1 0) (d.c.getD 4 0) sp r + elemBytes d.fo c0

/-- Elements without scale codes are one write. -/
theorem writeOut_elements {s : State} {t : TileId} {d : QuadDesc} (hd : d.dst = false) (h9 : d.fo ≠ 9) (k : EngCmd) (sp r c0 : Nat)
    (vs : List (Val × Bool)) (es : List Nat) : (s.writeOut ⟨t, k.ctx⟩ d sp r c0 vs es []).1 =
      (s.writeT0 (sram t (outAt d sp r c0)) (packElems (elemFmt d.fo).width es)).1 := by
  unfold State.writeOut
  dsimp only
  rw [if_neg (by simp [hd]), if_neg h9]
  dsimp only [outAt]
  split <;> rfl

section
variable {s : State} {t : TileId} {d : QuadDesc} (clean : CleanTile s t) (placed : Placed d) (k : EngCmd) (mask : List Byte)
  {c0 : Nat} (even : c0 % 2 = 0) (hc : c0 ≤ d.n) {o : OutRow} (ho : RowIn d (d.n - c0) o)
include clean placed even hc ho

/-- The drain of a row succeeds, and changes its output alone. -/
theorem quadDrain_worked (noWindow : d.dst = false → d.fo = 9 → s.windowOf t d.outSpan.1 d.outSpan.2 = none) :
    (s.quadDrain k ⟨t, k.ctx⟩ d mask c0 o).2 = .ok () ∧ Worked t (outs t d) s (s.quadDrain k ⟨t, k.ctx⟩ d mask c0 o).1 := by
  obtain ⟨hsp, hr, hlen⟩ := ho
  unfold State.quadDrain
  extract_lets keys i0 e z
  split
  · exact ⟨rfl, worked_of_regsOnly clean (regsOnly_count s _ _)⟩
  · have elements : e.1.length ≤ o.vals.length := convert_length_le d _ o.vals
    obtain ⟨scales, noScales⟩ : e.2.2.length ≤ o.vals.length / 32 ∧ (isBlock d.fo = false → e.2.2 = []) := convert_scales d _ o.vals
    obtain ⟨ok, worked⟩ := writeOut_worked clean placed noWindow hsp hr even e.1 (by omega) k o.vals e.2.2 (fun h => by
      refine ⟨by_contra fun hb => h (noScales (by simpa using hb)), ?_⟩
      omega)
    exact ⟨ok, worked_trans worked (worked_of_regsOnly worked.clean (regsOnly_raiseFlags _ _ _))⟩

/-- The drain of a row of a dense product writes its elements. -/
theorem quadDrain_dense (dense : Dense d) (b : Nat) : (s.quadDrain k ⟨t, k.ctx⟩ d mask c0 o).1.byte b =
    (s.poke (sram t (outAt d o.sp o.r c0)) (packElems (elemFmt d.fo).width (o.vals.map (fun v => encodeOut d v.1)))).byte b := by
  obtain ⟨hsp, hr, hlen⟩ := ho
  have unmasked : ¬ d.masked mask o.r = true := by simp [QuadDesc.masked, dense.mask]
  unfold State.quadDrain
  extract_lets keys i0 e z
  rw [if_neg unmasked]
  have elements : e.1 = o.vals.map (fun v => encodeOut d v.1) := convert_dense dense _ o.vals
  have scales : e.2.2 = [] := (convert_scales d _ o.vals).2 dense.noBlock
  have written : z.1 = (s.writeT0 (sram t (outAt d o.sp o.r c0)) (packElems (elemFmt d.fo).width e.1)).1 := by
    show (s.writeOut ⟨t, k.ctx⟩ d o.sp o.r c0 o.vals e.1 e.2.2).1 = _
    rw [scales]
    exact writeOut_elements dense.dst dense.noEntry k o.sp o.r c0 o.vals e.1
  obtain ⟨_, _, byte⟩ := elements_worked clean placed hsp hr even e.1 (by rw [elements, List.length_map]; omega) dense.dst
  obtain ⟨r, hregs⟩ := regsOnly_raiseFlags z.1 ⟨t, k.ctx⟩ ((e.2.1.zip z.2.1).filterMap (fun p => if p.2 then some p.1 else none))
  dsimp only
  rw [hregs, ← elements]
  show z.1.byte b = _
  rw [written]
  exact byte b

end

/-! ### An element of a dense product -/

/-- Element c of output row r of a dense product stands in SRAM (R64, R67). -/
def ElementIs (s : State) (t : TileId) (d : QuadDesc) (r c : Nat) (u : State) : Prop :=
  u.bytes (sram t (outAt d 0 r c)) ((elemFmt d.fo).width / 8) =
    leBytes ((elemFmt d.fo).width / 8) (encodeOut d (dotProduct d.g none (rowElems s t d.a d.fa d.k 0 r) (rowElems s t d.b d.fb d.k 0 c)).1)

/-- Elements of different rows, or of other columns of one row, lie apart. -/
theorem elements_apart {q w r r' c c0 n cols : Nat} (base : Nat) (hn : c0 + n ≤ cols) (hc : c < cols) (stride : r = r' ∨ q * cols ≤ 64 * w)
    (other : ¬ (r' = r ∧ c0 ≤ c ∧ c < c0 + n)) :
    64 * (base + r * w) + q * c + q ≤ 64 * (base + r' * w) + q * c0 ∨
      64 * (base + r' * w) + q * c0 + q * n ≤ 64 * (base + r * w) + q * c := by
  have below : ∀ {a b : Nat}, a ≤ b → q * a ≤ q * b := Nat.mul_le_mul_left q
  have next : q * c + q = q * (c + 1) := rfl
  have last : q * c0 + q * n = q * (c0 + n) := (Nat.mul_add q c0 n).symm
  have rows : ∀ {a b : Nat}, a < b → a * w + w ≤ b * w := fun {a b} h => by
    rw [← Nat.succ_mul]
    exact Nat.mul_le_mul_right w h
  rcases Nat.lt_trichotomy r r' with h | h | h
  · have := rows h
    have := below (by omega : c + 1 ≤ cols)
    omega
  · subst h
    rcases Nat.lt_or_ge c c0 with hl | hl
    · have := below (by omega : c + 1 ≤ c0)
      omega
    · have := below (by omega : c0 + n ≤ c)
      omega
  · have := rows h
    have := below hn
    omega

section
variable {s u : State} {t : TileId} {d : QuadDesc} (clean : CleanTile u t) (placed : Placed d) (dense : Dense d) (k : EngCmd) (mask : List Byte)
  {c0 n : Nat} (even : c0 % 2 = 0) (hn : c0 + n ≤ d.n) {o : OutRow} (ho : RowIn d (d.n - c0) o) (vals : o.vals = denseRow s t d c0 n o.r)
include clean placed dense even hn ho vals

/-- The drain of a row of a dense product makes its elements. -/
theorem quadDrain_makes {c : Nat} (lo : c0 ≤ c) (hi : c < c0 + n) :
    ElementIs s t d o.r c (u.quadDrain k ⟨t, k.ctx⟩ d mask c0 o).1 := by
  have hsp : o.sp = 0 := sp_dense dense ho.sp
  have byte := quadDrain_dense clean placed k mask even (by omega) ho dense
  have len : (o.vals.map (fun v => encodeOut d v.1)).length = n := by rw [vals, denseRow, List.length_map, List.length_map, List.length_range]
  have element := bytes_of_poke_element dense.width byte (i := c - c0) (by omega)
  have place : sram t (outAt d o.sp o.r c0) + (elemFmt d.fo).width / 8 * (c - c0) = sram t (outAt d 0 o.r c) := by
    have : c = c0 + (c - c0) := by omega
    rw [hsp, outAt, outAt, elemBytes_eq dense.width, elemBytes_eq dense.width, sram_eq, sram_eq]
    conv_rhs => rw [this, Nat.mul_add]
    omega
  rw [place] at element
  rw [ElementIs, element, List.getD_eq_getElem _ _ (by omega)]
  simp only [vals, denseRow, List.getElem_map, List.getElem_range, Nat.sub_add_cancel lo]

/-- The drain of any row of a dense product keeps the elements that stand. -/
theorem quadDrain_keeps {r c : Nat} (hr : r < d.m) (hc : c < d.n) (h : ElementIs s t d r c u) :
    ElementIs s t d r c (u.quadDrain k ⟨t, k.ctx⟩ d mask c0 o).1 := by
  by_cases same : o.r = r ∧ c0 ≤ c ∧ c < c0 + n
  · obtain ⟨rfl, lo, hi⟩ := same
    exact quadDrain_makes clean placed dense k mask even hn ho vals lo hi
  · have hsp : o.sp = 0 := sp_dense dense ho.sp
    have byte := quadDrain_dense clean placed k mask even (by omega) ho dense
    have len : (packElems (elemFmt d.fo).width (o.vals.map (fun v => encodeOut d v.1))).length = (elemFmt d.fo).width / 8 * n := by
      rw [packElems_length dense.width, vals, denseRow, List.length_map, List.length_map, List.length_range]
    rw [ElementIs, bytes_of_poke_apart byte]
    · exact h
    · have one : r = o.r ∨ elemBytes d.fo d.n ≤ 64 * d.c.getD 1 0 := dense.apart.imp_left (fun hm => by have := ho.r; omega)
      rw [elemBytes_eq dense.width] at one
      have gap := elements_apart (d.c.getD 0 0) hn hc one same
      rw [len, hsp, sram_eq, sram_eq, outAt, outAt, rowUnit, rowUnit, elemBytes_eq dense.width, elemBytes_eq dense.width]
      omega

end

end Sys2Proof.Proofs
end

section
/-! A product from its first block to its last (R83, R85, R90), on a tile without errors. -/
namespace Sys2Proof.Proofs

open Sys2Proof Sys2Proof.Machine Sys2Proof.Laws

/-! ### Operands apart from the output (R84, row 9) -/

/-- No range that the command reads shares a byte with one that it writes. -/
def Apart (d : QuadDesc) (desc : Nat) : Prop := ∀ w ∈ d.writes, ∀ x ∈ d.reads desc, crosses w x = false

theorem operandElems_plain {code : Nat} (h : isBlock code = false) (n : Nat) (bs sc sc' : List Byte) :
    operandElems code n bs sc = operandElems code n bs sc' := by
  simp [operandElems, h]

section
variable {s u : State} {t : TileId} {d : QuadDesc} {desc : Nat} (worked : Worked t (outs t d) s u) (apart : Apart d desc) (dense : Dense d)
include worked apart dense

/-- The bytes of a range that the command reads stand. -/
theorem read_bytes {x : Nat × Nat} (hx : x ∈ d.reads desc) {off n : Nat} (lo : x.1 ≤ off) (hi : off + n ≤ x.1 + x.2) :
    u.bytes (sram t off) n = s.bytes (sram t off) n := by
  refine worked_bytes worked (fun r hr b h1 h2 h3 h4 => ?_)
  rw [outs, if_neg (by simp [dense.dst]), List.append_nil] at hr
  obtain ⟨w, hw, rfl⟩ := List.mem_map.mp hr
  have := of_decide_eq_false (apart w hw x hx)
  rw [sram_eq] at h1 h2 h3 h4
  omega

theorem rowElems_stand {o : List Nat} {code n rows r : Nat} (hr : r < rows)
    (elements : spanBytes (o.getD 0 0) (o.getD 1 0) (o.getD 4 0) d.ns rows (elemBytes code n) ∈ d.reads desc)
    (scales : isBlock code = true → spanBytes (o.getD 2 0) (o.getD 3 0) (o.getD 5 0) d.ns rows (ceilDiv n 32) ∈ d.reads desc) :
    rowElems u t o code n 0 r = rowElems s t o code n 0 r := by
  obtain ⟨lo, hi⟩ := row_in_spanBytes (o.getD 0 0) (o.getD 1 0) (o.getD 4 0) (elemBytes code n) (ns_pos d) hr
  rw [rowElems, rowElems, read_bytes worked apart dense elements lo hi]
  cases hb : isBlock code with
  | false => exact operandElems_plain hb _ _ _ _
  | true =>
    obtain ⟨lo, hi⟩ := row_in_spanBytes (o.getD 2 0) (o.getD 3 0) (o.getD 5 0) (ceilDiv n 32) (ns_pos d) hr
    rw [read_bytes worked apart dense (scales hb) lo hi]

/-- A dense product's rows are those of the operands as they stood at its acceptance. -/
theorem denseRow_stands {c0 n r : Nat} (hn : c0 + n ≤ d.n) (hr : r < d.m) : denseRow u t d c0 n r = denseRow s t d c0 n r := by
  have h2 : ¬ d.mode = 2 := by rw [dense.mode]; decide
  have h3 := mode_ne_three dense
  have a : rowElems u t d.a d.fa d.k 0 r = rowElems s t d.a d.fa d.k 0 r := rowElems_stand worked apart dense hr
    (by simp [QuadDesc.reads, h2, h3]) (fun hb => by simp [QuadDesc.reads, h2, h3, hb])
  refine List.map_congr_left (fun i hi => ?_)
  have := List.mem_range.mp hi
  have b : rowElems u t d.b d.fb d.k 0 (i + c0) = rowElems s t d.b d.fb d.k 0 (i + c0) :=
    rowElems_stand worked apart dense (by omega : i + c0 < d.n) (by simp [QuadDesc.reads, h3]) (fun hb => by simp [QuadDesc.reads, h3, hb])
  rw [a, b]

end

/-! ### Steps of columns -/

theorem colStep_values (d : QuadDesc) : d.colStep = 32 ∨ d.colStep = 16 ∨ d.colStep = 128 := by
  unfold QuadDesc.colStep QuadDesc.np
  split_ifs <;> simp

theorem colStep_pos (d : QuadDesc) : 0 < d.colStep := by
  have := colStep_values d
  omega

/-- Steps begin at even columns, so that no byte holds elements of two (R33). -/
theorem mul_colStep_even (d : QuadDesc) (j : Nat) : j * d.colStep % 2 = 0 := by
  rcases colStep_values d with h | h | h <;> (rw [h]; omega)

/-- The columns from c0 on whose rows drain together: their blocks, and the drain. -/
def columnStep (k : EngCmd) (l : Loc) (d : QuadDesc) (mask : List Byte) (c0 : Nat) (s : State) : State × Except Nat Unit :=
  let x := s.quadGroup l.tile d mask none ((List.range (ceilDiv (min d.colStep (d.n - c0)) d.np)).map (fun i => c0 + i * d.np))
  x.1.quadDrains k l d mask c0 x.2.1 x.2.2

theorem quadBlocks_columns {d : QuadDesc} (hm : d.mode ≠ 3) (s : State) (k : EngCmd) (l : Loc) (mask : List Byte) :
    s.quadBlocks k l d mask = runUntil (fun s j => columnStep k l d mask (j * d.colStep) s) s (List.range (ceilDiv d.n d.colStep)) := if_neg hm

/-! ### Rows in turn -/

section
variable {s : State} {t : TileId} {d : QuadDesc} (placed : Placed d) (k : EngCmd) (mask : List Byte)
  (noWindow : d.dst = false → d.fo = 9 → s.windowOf t d.outSpan.1 d.outSpan.2 = none)
include placed noWindow

/-- The drain of a row after other work on the output. -/
theorem rowStep_worked {c0 : Nat} (even : c0 % 2 = 0) (hc : c0 ≤ d.n) {o : OutRow} (ho : RowIn d (d.n - c0) o) (u : State)
    (h : Worked t (outs t d) s u) :
    (u.quadDrain k ⟨t, k.ctx⟩ d mask c0 o).2 = .ok () ∧ Worked t (outs t d) s (u.quadDrain k ⟨t, k.ctx⟩ d mask c0 o).1 := by
  obtain ⟨ok, worked⟩ := quadDrain_worked h.clean placed k mask even hc ho (fun hd h9 => by
    rw [windowOf_congr h.job]
    exact noWindow hd h9)
  exact ⟨ok, worked_trans h worked⟩

theorem quadDrains_worked {c0 : Nat} (even : c0 % 2 = 0) (hc : c0 ≤ d.n) {rows : List OutRow} (ho : ∀ o ∈ rows, RowIn d (d.n - c0) o) {u : State}
    (h : Worked t (outs t d) s u) :
    (u.quadDrains k ⟨t, k.ctx⟩ d mask c0 rows none).2 = .ok () ∧ Worked t (outs t d) s (u.quadDrains k ⟨t, k.ctx⟩ d mask c0 rows none).1 :=
  runUntil_keeps rows (fun u h o hr => rowStep_worked placed k mask noWindow even hc (ho o hr) u h) u h

section
variable (dense : Dense d) {c0 n : Nat} (even : c0 % 2 = 0) (hn : c0 + n ≤ d.n) {rows : List OutRow} (ho : ∀ o ∈ rows, RowIn d (d.n - c0) o)
  (vals : ∀ o ∈ rows, o.vals = denseRow s t d c0 n o.r) {u : State} (h : Worked t (outs t d) s u) {r c : Nat} (hr : r < d.m) (hc : c < d.n)
include dense even hn ho vals h hr hc

theorem quadDrains_keeps (standing : ElementIs s t d r c u) : ElementIs s t d r c (u.quadDrains k ⟨t, k.ctx⟩ d mask c0 rows none).1 :=
  (runUntil_keeps (I := fun u => Worked t (outs t d) s u ∧ ElementIs s t d r c u) rows (fun u hu o hor =>
    have step := rowStep_worked placed k mask noWindow even (by omega) (ho o hor) u hu.1
    ⟨step.1, step.2, quadDrain_keeps hu.1.clean placed dense k mask even hn (ho o hor) (vals o hor) hr hc hu.2⟩) u ⟨h, standing⟩).2.2

theorem quadDrains_makes (made : ∃ o ∈ rows, o.r = r) (lo : c0 ≤ c) (hi : c < c0 + n) :
    ElementIs s t d r c (u.quadDrains k ⟨t, k.ctx⟩ d mask c0 rows none).1 := by
  obtain ⟨o, hor, rfl⟩ := made
  exact runUntil_reaches (I := Worked t (outs t d) s) rows
    (fun u hu o hor => rowStep_worked placed k mask noWindow even (by omega) (ho o hor) u hu)
    (fun u hu hq o hor => quadDrain_keeps hu.clean placed dense k mask even hn (ho o hor) (vals o hor) hr hc hq) hor
    (fun u hu => quadDrain_makes hu.clean placed dense k mask even hn (ho o hor) (vals o hor) lo hi) u h

end

/-! ### Column steps in turn -/

omit noWindow in
/-- A step of columns is the drain of rows that are computed without a failure. -/
theorem columnStep_drains {c0 : Nat} (hm : d.mode ≠ 3) (hc : c0 < d.n) {u : State} (h : Worked t (outs t d) s u) :
    ∃ v rows, Worked t (outs t d) s v ∧ RegsOnly u v ∧ (∀ o ∈ rows, RowIn d (d.n - c0) o) ∧
      (Dense d → RowsOf u t d c0 (min 128 (d.n - c0)) rows) ∧ columnStep k ⟨t, k.ctx⟩ d mask c0 u = v.quadDrains k ⟨t, k.ctx⟩ d mask c0 rows none := by
  obtain ⟨v, rows, regs, ⟨rowIn, rowsOf⟩, step⟩ :=
    drains_of_gathers (quadStep_gathers h.clean placed (regsOnly_refl u) hm mask hc) k ⟨t, k.ctx⟩ d mask c0
  exact ⟨v, rows, worked_trans h (worked_of_regsOnly h.clean regs), regs, rowIn, rowsOf, step⟩

theorem columnStep_worked {j : Nat} (hm : d.mode ≠ 3) (hj : j < ceilDiv d.n d.colStep) {u : State} (h : Worked t (outs t d) s u) :
    (columnStep k ⟨t, k.ctx⟩ d mask (j * d.colStep) u).2 = .ok () ∧
      Worked t (outs t d) s (columnStep k ⟨t, k.ctx⟩ d mask (j * d.colStep) u).1 := by
  have hc := mul_lt_of_lt_ceilDiv (colStep_pos d) hj
  obtain ⟨v, rows, worked, _, rowIn, _, step⟩ := columnStep_drains placed k mask hm hc h
  rw [step]
  exact quadDrains_worked placed k mask noWindow (mul_colStep_even d j) (Nat.le_of_lt hc) rowIn worked

/-- All the output: no failure, and nothing beyond it changes. -/
theorem quadBlocks_worked (clean : CleanTile s t) : (s.quadBlocks k ⟨t, k.ctx⟩ d mask).2 = .ok () ∧
    Worked t (outs t d) s (s.quadBlocks k ⟨t, k.ctx⟩ d mask).1 := by
  have start : Worked t (outs t d) s s := worked_of_regsOnly clean (regsOnly_refl s)
  by_cases hm : d.mode = 3
  · obtain ⟨u, rows, regs, rowIn, drains⟩ := quadElementwise_drains clean placed (regsOnly_refl s) hm k
    rw [State.quadBlocks, if_pos hm, drains]
    exact quadDrains_worked placed k [] noWindow (c0 := 0) rfl (Nat.zero_le _) rowIn (worked_of_regsOnly clean regs)
  · rw [quadBlocks_columns hm]
    exact runUntil_keeps _ (fun u h j hj => columnStep_worked placed k mask noWindow hm (List.mem_range.mp hj) h) s start

section
variable (dense : Dense d) {desc : Nat} (apart : Apart d desc) {r c : Nat} (hr : r < d.m) (hc : c < d.n)
include dense apart hr hc

theorem columnStep_keeps {j : Nat} (hj : j < ceilDiv d.n d.colStep) {u : State} (h : Worked t (outs t d) s u) (standing : ElementIs s t d r c u) :
    ElementIs s t d r c (columnStep k ⟨t, k.ctx⟩ d mask (j * d.colStep) u).1 := by
  have hc0 := mul_lt_of_lt_ceilDiv (colStep_pos d) hj
  obtain ⟨v, rows, worked, regs, rowIn, rowsOf, step⟩ := columnStep_drains placed k mask (mode_ne_three dense) hc0 h
  rw [step]
  refine quadDrains_keeps placed k mask noWindow dense (mul_colStep_even d j) (n := min 128 (d.n - j * d.colStep)) (by omega) rowIn (fun o ho => ?_) worked hr hc ?_
  · rw [(rowsOf dense).dense dense o ho, denseRow_stands h apart dense (by omega) (rowIn o ho).r]
  · rw [ElementIs, regsOnly_bytes regs]
    exact standing

theorem columnStep_makes {c0 : Nat} (even : c0 % 2 = 0) (lo : c0 ≤ c) (hi : c < c0 + 128) {u : State} (h : Worked t (outs t d) s u) :
    ElementIs s t d r c (columnStep k ⟨t, k.ctx⟩ d mask c0 u).1 := by
  obtain ⟨v, rows, worked, regs, rowIn, rowsOf, step⟩ := columnStep_drains placed k mask (mode_ne_three dense) (by omega : c0 < d.n) h
  rw [step]
  refine quadDrains_makes placed k mask noWindow dense even (n := min 128 (d.n - c0)) (by omega) rowIn (fun o ho => ?_) worked hr hc
    ((rowsOf dense).all dense r hr) lo (by omega)
  rw [(rowsOf dense).dense dense o ho, denseRow_stands h apart dense (by omega) (rowIn o ho).r]

/-- An element of a dense product after all its blocks. -/
theorem quadBlocks_element (clean : CleanTile s t) : ElementIs s t d r c (s.quadBlocks k ⟨t, k.ctx⟩ d mask).1 := by
  have hm := mode_ne_three dense
  have step := colStep_dense dense
  have lo : c / 128 * d.colStep ≤ c := by
    rw [step]
    omega
  have hi : c < c / 128 * d.colStep + 128 := by
    rw [step]
    omega
  rw [quadBlocks_columns hm]
  refine runUntil_reaches (I := Worked t (outs t d) s) _
    (fun u h j hj => columnStep_worked placed k mask noWindow hm (List.mem_range.mp hj) h)
    (fun u h standing j hj => columnStep_keeps placed k mask noWindow dense apart hr hc (List.mem_range.mp hj) h standing)
    (List.mem_range.mpr (lt_ceilDiv_of_mul_lt (colStep_pos d) (Nat.lt_of_le_of_lt lo hc)))
    (fun u h => columnStep_makes placed k mask noWindow dense apart hr hc (mul_colStep_even d _) lo hi h) s
    (worked_of_regsOnly clean (regsOnly_refl s))

end

end

end Sys2Proof.Proofs
end

section
/-! The product command (R80, R84, R85, R100): what the table of R84 lets pass, and a product on a tile without errors. -/
namespace Sys2Proof.Proofs

open Sys2Proof Sys2Proof.Machine Sys2Proof.Laws

/-! ### What the table of R84 lets pass -/

/-- A row of a table that does not apply leaves the rows after it. -/
theorem row_passed {α : Type} {c : Prop} [Decidable c] {x : α} {r : Option α} (h : (if c then some x else r) = none) : ¬ c ∧ r = none := by
  by_cases hc : c
  · rw [if_pos hc] at h
    cases h
  · rw [if_neg hc] at h
    exact ⟨hc, h⟩

theorem row_mem_rowRanges (base stride bst len : Nat) {subs rows sp r : Nat} (hsp : sp < subs) (hr : r < rows) :
    (64 * rowUnit base stride bst sp r, len) ∈ rowRanges base stride bst subs rows len :=
  List.mem_flatMap.mpr ⟨sp, List.mem_range.mpr hsp, List.mem_map.mpr ⟨r, List.mem_range.mpr hr, rfl⟩⟩

/-- A range that engines may access lies in SRAM (R84, R249). -/
theorem sramOk_fits {s : State} {t off n : Nat} (h : s.sramOk t off n = true) : off + n ≤ sramSize := by
  rw [State.sramOk, Bool.and_eq_true, decide_eq_true_eq] at h
  exact h.1

/-- A command that row 8 lets pass addresses nothing beyond SRAM and accumulator store. -/
theorem quadRange_passed {s : State} {t : TileId} {d : QuadDesc} {desc : Nat} (h : s.quadRange t d desc = false)
    (noWindow : d.dst = false → d.fo = 9 → s.windowOf t d.outSpan.1 d.outSpan.2 = none) :
    (∀ x ∈ d.readRows desc, x.1 + x.2 ≤ sramSize) ∧ (d.accSrc = 2 → ∀ x ∈ d.accRows, x.1 + x.2 ≤ sramSize) ∧
    (∀ x ∈ d.writeRows, x.1 + x.2 ≤ sramSize) ∧ (d.accSrc = 1 → d.accSpan.1 + d.accSpan.2 ≤ accEntries) ∧
    (d.dst = true → d.outSpan.1 + d.outSpan.2 ≤ accEntries) ∧ (d.usesWork = true → d.work + d.workLen ≤ accEntries) := by
  have window : (!d.dst && decide (d.fo = 9) && (s.windowOf t d.outSpan.1 d.outSpan.2).isSome && s.learning (s.reg (rTileStep t)).toNat) = false := by
    by_cases hd : d.dst = false ∧ d.fo = 9
    · simp [noWindow hd.1 hd.2]
    · simp only [not_and] at hd
      cases hdst : d.dst with
      | true => rfl
      | false => simp [hd hdst]
  unfold State.quadRange at h
  dsimp only at h
  rw [window] at h
  simp only [Bool.not_eq_false', Bool.and_eq_true, Bool.or_eq_true, List.all_eq_true, Bool.false_or, decide_eq_true_eq, Bool.not_eq_true'] at h
  obtain ⟨⟨⟨⟨⟨reads, accRows⟩, writes⟩, accSpan⟩, outSpan⟩, work⟩ := h
  refine ⟨fun x hx => sramOk_fits (reads x hx), fun h2 x hx => sramOk_fits (accRows.resolve_left (not_not.mpr h2) x hx),
    fun x hx => sramOk_fits (writes x hx), fun h1 => accSpan.resolve_left (not_not.mpr h1), fun hd => outSpan.resolve_left (by simp [hd]),
    fun hw => work.resolve_left (by simp [hw])⟩

/-- The ranges of the rows of an operand (R82, R87). -/
def operandRanges (d : QuadDesc) (o : List Nat) (rows n code : Nat) : List (Nat × Nat) :=
  rowRanges (o.getD 0 0) (o.getD 1 0) (o.getD 4 0) d.ns rows (elemBytes code n) ++
    (if isBlock code then rowRanges (o.getD 2 0) (o.getD 3 0) (o.getD 5 0) d.ns rows (ceilDiv n 32) else [])

theorem rowFits_of_ranges {d : QuadDesc} {o : List Nat} {rows n code : Nat} (h : ∀ x ∈ operandRanges d o rows n code, x.1 + x.2 ≤ sramSize)
    {sp r : Nat} (hsp : sp < d.ns) (hr : r < rows) : RowFits o code n sp r := by
  refine ⟨h _ (List.mem_append_left _ (row_mem_rowRanges _ _ _ _ hsp hr)),
    fun hb => h (64 * rowUnit (o.getD 2 0) (o.getD 3 0) (o.getD 5 0) sp r, ceilDiv n 32) (List.mem_append_right _ ?_)⟩
  rw [if_pos hb]
  exact row_mem_rowRanges _ _ _ _ hsp hr

/-- The rows that a command reads, operand by operand (R84). -/
theorem readRows_eq (d : QuadDesc) (desc : Nat) : d.readRows desc =
    (if d.mode = 2 then d.pixels.map (fun p => (64 * d.a.getD 0 0 + p * 64 * d.a.getD 1 0, elemBytes d.fa d.chans))
      else operandRanges d d.a d.m (if d.mode = 3 then d.n else d.k) d.fa) ++
    operandRanges d d.b (if d.mode = 3 then d.m else d.n) (if d.mode = 3 then d.n else d.k) d.fb ++
    (if d.maskm = 0 then [] else [(64 * d.mask, ceilDiv (if d.maskm = 1 then d.m else ceilDiv d.m 16) 8)]) ++ [(desc, 64)] := by
  unfold QuadDesc.readRows
  by_cases h3 : d.mode = 3
  · simp only [h3, if_true, operandRanges]
  · simp only [h3, if_false, operandRanges]

/-- A command that the table lets pass is placed (rows 1, 2, 4, 7 and 8). -/
theorem placed_of_passed {s : State} {t : TileId} {d : QuadDesc} {cmt : Bool} {movr desc : Nat} (h : s.quadReject t cmt movr desc d = none)
    (noWindow : d.dst = false → d.fo = 9 → s.windowOf t d.outSpan.1 d.outSpan.2 = none) (src : d.accSrc < 4) : Placed d := by
  obtain ⟨codes, h⟩ := row_passed h
  obtain ⟨accFmt, h⟩ := row_passed h
  obtain ⟨entry, h⟩ := row_passed h
  obtain ⟨sizes, h⟩ := row_passed h
  obtain ⟨_, h⟩ := row_passed h
  obtain ⟨_, h⟩ := row_passed h
  obtain ⟨mode, h⟩ := row_passed h
  obtain ⟨range, _⟩ := row_passed h
  obtain ⟨reads, accRows, writes, accSpan, outSpan, work⟩ := quadRange_passed (Bool.eq_false_iff.mpr range) noWindow
  rw [readRows_eq] at reads
  simp only [List.mem_append, or_imp, forall_and] at reads
  obtain ⟨⟨⟨a, b⟩, mask⟩, _⟩ := reads
  refine
    { rows := by omega
      cols := by omega
      a := fun h2 sp hsp r hr => rowFits_of_ranges (fun x hx => a x (by rw [if_neg h2]; exact hx)) hsp hr
      pixels := fun h2 r hr tap ht p hp => ?_
      plain := fun h2 => ?_
      b := fun sp hsp c hc => rowFits_of_ranges b hsp hc
      mask := fun h0 => mask _ (by rw [if_neg h0]; exact List.mem_singleton_self _)
      accEntry := fun h1 sp hsp r hr => ?_
      accRow := fun h0 h1 => ?_
      outEntry := outSpan
      outRow := fun hd sp hsp r hr =>
        writes (64 * rowUnit (d.c.getD 0 0) (d.c.getD 1 0) (d.c.getD 4 0) sp r, elemBytes d.fo d.n) (List.mem_append_left _ ?_)
      outScale := fun hb sp hsp r hr =>
        writes (64 * rowUnit (d.c.getD 2 0) (d.c.getD 3 0) (d.c.getD 5 0) sp r, d.n / 32) (List.mem_append_right _ ?_)
      work := work }
  · refine a (64 * d.a.getD 0 0 + p * 64 * d.a.getD 1 0, elemBytes d.fa d.chans) ?_
    rw [if_pos h2]
    exact List.mem_map.mpr ⟨p, List.mem_flatten.mpr ⟨_, List.mem_map.mpr ⟨r, List.mem_range.mpr hr, rfl⟩,
      List.mem_filterMap.mpr ⟨tap, List.mem_range.mpr ht, hp⟩⟩, rfl⟩
  · by_contra hb
    exact mode (by simp [QuadDesc.modeBad, h2, Bool.eq_true_of_not_eq_false hb])
  · have fits := accSpan h1
    rw [QuadDesc.accSpan, if_pos h1] at fits
    exact ((row_in_spanEntries _ _ _ d.n hsp hr).2).trans fits
  · have h2 : d.accSrc = 2 := by omega
    refine ⟨?_, fun sp hsp r hr => accRows h2 _ (row_mem_rowRanges _ _ _ _ hsp hr)⟩
    have formats : d.facc = 1 ∨ d.facc = 2 ∨ d.facc = 9 := by omega
    rcases formats with h | h | h <;> (rw [h]; rfl)
  · rw [if_neg (by simp [hd])]
    exact row_mem_rowRanges _ _ _ _ hsp hr
  · rw [if_pos hb]
    exact row_mem_rowRanges _ _ _ _ hsp hr

/-- The reads of a command that the table lets pass lie apart from its writes (row 9). -/
theorem apart_of_passed {s : State} {t : TileId} {d : QuadDesc} {cmt : Bool} {movr desc : Nat} (h : s.quadReject t cmt movr desc d = none) :
    Apart d desc := by
  obtain ⟨_, h⟩ := row_passed h
  obtain ⟨_, h⟩ := row_passed h
  obtain ⟨_, h⟩ := row_passed h
  obtain ⟨_, h⟩ := row_passed h
  obtain ⟨_, h⟩ := row_passed h
  obtain ⟨_, h⟩ := row_passed h
  obtain ⟨_, h⟩ := row_passed h
  obtain ⟨_, h⟩ := row_passed h
  obtain ⟨overlap, _⟩ := row_passed h
  intro w hw x hx
  by_contra hc
  refine overlap ?_
  have shared : d.writes.any (fun w => (d.reads desc).any (crosses w)) = true :=
    List.any_eq_true.mpr ⟨w, hw, List.any_eq_true.mpr ⟨x, hx, Bool.eq_true_of_not_eq_false hc⟩⟩
  simp [QuadDesc.overlap, shared]

/-! ### The work region -/

theorem freeWork_worked {t : TileId} {rs : List (Nat × Nat)} {x len : Nat} (hr : (sram t (sramSize + 8 * x), 8 * len) ∈ rs)
    (fits : x + len ≤ accEntries) (n : Nat) : ∀ (s : State) (base : Nat), CleanTile s t → x ≤ base → base + n ≤ x + len →
    Worked t rs s (s.freeWork t base n) := by
  induction n with
  | zero => exact fun s base clean _ _ => worked_of_regsOnly clean (regsOnly_refl s)
  | succ n ih =>
    intro s base clean lo hi
    have whole : sramSize + 8 * accEntries = storeEnd := by decide
    have drawn : Worked t rs s s.draw.2 := ⟨rfl, rfl, clean, fun _ _ => rfl⟩
    rw [State.freeWork]
    obtain ⟨_, worked, _⟩ := writeT0_worked drawn.clean (rs := rs) (off := sramSize + 8 * base) (leBytes 8 ((s.draw).1.toNat % 2 ^ 36))
      (by rw [leBytes_length]; omega) hr (by omega) (by rw [leBytes_length]; omega)
    exact worked_trans (worked_trans drawn worked) (ih _ (base + 1) worked.clean (by omega) (by omega))

/-! ### The command -/

/-- The descriptor that a product names (R80). -/
def descOf (s : State) (t : TileId) (k : EngCmd) : QuadDesc :=
  QuadDesc.ofWords ((chunks 8 8 (s.bytes (sram t (64 * cmdFld k.word 63 47)) 64)).map leVal) (cmdFld k.word 46 38)

/-- The mask of a command, which one without a mask does not read (R95). -/
def maskOf (s : State) (t : TileId) (d : QuadDesc) : List Byte :=
  if d.maskm = 0 then [] else s.bytes (sram t (64 * d.mask)) (ceilDiv (if d.maskm = 1 then d.m else ceilDiv d.m 16) 8)

/-- The command as it is accepted, with its nominal cycles and its descriptor (R97). -/
def productOf (s : State) (t : TileId) (k : EngCmd) : Active :=
  { Active.of k (s.quadCycles t (descOf s t k) (maskOf s t (descOf s t k))) with
    desc := (chunks 8 8 (s.bytes (sram t (64 * cmdFld k.word 63 47)) 64)).map leVal }

/-- A product's output, computed and drained after its acceptance. -/
def productDrained (s : State) (t : TileId) (k : EngCmd) : State × Except Nat Unit :=
  (s.accept t 0 (productOf s t k)).quadBlocks k ⟨t, k.ctx⟩ (descOf s t k) (maskOf s t (descOf s t k))

theorem mask_read {s : State} {t : TileId} {d : QuadDesc} (clean : CleanTile s t) (placed : Placed d) :
    (if d.maskm = 0 then (s, .ok []) else s.rdTile t (64 * d.mask) (ceilDiv (if d.maskm = 1 then d.m else ceilDiv d.m 16) 8)) =
      (s, (.ok (maskOf s t d) : Except Nat (List Byte))) := by
  unfold maskOf
  by_cases h : d.maskm = 0
  · rw [if_pos h, if_pos h]
  · rw [if_neg h, if_neg h]
    exact rdTile_clean clean ((placed.mask h).trans sramSize_le_storeEnd)

section
variable {s : State} {t : TileId} {k : EngCmd} (clean : CleanTile s t) (room : (s.tile t).active[0].length < 2) (hop : cmdOp k.word = 1)
  (desc : s.sramOk t (64 * cmdFld k.word 63 47) 64 = true)
include clean desc

theorem descriptor_read : s.rdTile t (64 * cmdFld k.word 63 47) 64 = (s, .ok (s.bytes (sram t (64 * cmdFld k.word 63 47)) 64)) :=
  rdTile_clean clean ((sramOk_fits desc).trans sramSize_le_storeEnd)

include room hop

/-- A product with a descriptor in SRAM that the table of R84 rejects. -/
theorem quadWork_rejected (feed bp thr : Nat) {cause row : Nat}
    (h : s.quadReject t (cmdCmt k.word) (cmdFld k.word 46 38) (64 * cmdFld k.word 63 47) (descOf s t k) = some (cause, row)) :
    State.quadWork t feed bp thr k s = s.rejectCmd t 0 k cause row := by
  have full : ¬ 2 ≤ ((s.tile t).act 0).length := Nat.not_le.mpr room
  unfold State.quadWork
  refine (if_neg full).trans ((if_neg (not_not.mpr hop)).trans ((if_neg (by rw [desc]; decide)).trans ?_))
  rw [descriptor_read clean desc]
  extract_lets stop x src
  have bytes : x.2 = .ok (s.bytes (sram t (64 * cmdFld k.word 63 47)) 64) := rfl
  simp -zeta only [bytes]
  extract_lets words d y lvl
  have rejected : x.1.quadReject t (cmdCmt k.word) (cmdFld k.word 46 38) (64 * cmdFld k.word 63 47) d = some (cause, row) := h
  simp -zeta only [rejected]
  rfl

/-- One that the table lets pass is accepted, computed and drained; then it counts, and its work region is free. -/
theorem quadWork_accepted (feed bp thr : Nat) (placed : Placed (descOf s t k))
    (h : s.quadReject t (cmdCmt k.word) (cmdFld k.word 46 38) (64 * cmdFld k.word 63 47) (descOf s t k) = none)
    (drained : (productDrained s t k).2 = .ok ()) :
    ∃ u, RegsOnly (productDrained s t k).1 u ∧ State.quadWork t feed bp thr k s =
      if (descOf s t k).usesWork then u.freeWork t (descOf s t k).work (descOf s t k).workLen else u := by
  refine ⟨(productDrained s t k).1.quadCounts t (s.runLevel t) (descOf s t k) (maskOf s t (descOf s t k)) (productDrained s t k).2.isOk feed bp thr,
    regsOnly_trans (regsOnly_trans (regsOnly_count _ _ _) (regsOnly_count _ _ _)) (regsOnly_count _ _ _), ?_⟩
  have full : ¬ 2 ≤ ((s.tile t).act 0).length := Nat.not_le.mpr room
  unfold State.quadWork
  refine (if_neg full).trans ((if_neg (not_not.mpr hop)).trans ((if_neg (by rw [desc]; decide)).trans ?_))
  rw [descriptor_read clean desc]
  extract_lets stop x src
  have bytes : x.2 = .ok (s.bytes (sram t (64 * cmdFld k.word 63 47)) 64) := rfl
  simp -zeta only [bytes]
  extract_lets words d y lvl
  have passed : x.1.quadReject t (cmdCmt k.word) (cmdFld k.word 46 38) (64 * cmdFld k.word 63 47) d = none := h
  simp -zeta only [passed]
  have read : y = (s, .ok (maskOf s t d)) := mask_read clean placed
  clear_value y
  subst read
  dsimp -zeta only
  extract_lets src' act z u v
  have done : z.2 = .ok () := drained
  simp -zeta only [done]
  rfl

end

end Sys2Proof.Proofs
end

section
/-! The matrix product (R64, R80 to R85, R100). -/
namespace Sys2Proof.Proofs

open Sys2Proof Sys2Proof.Machine Sys2Proof.Laws

/-- What a whole product may change. -/
def productRanges (t : Nat) (d : QuadDesc) : List (Nat × Nat) :=
  outs t d ++ (if d.usesWork then [(sram t (sramSize + 8 * d.work), 8 * d.workLen)] else [])

/-- A cause of R154 that names an engine, and a row in its field. -/
abbrev EngineCause (p : Nat × Nat) : Prop := (5 ≤ p.1 ∧ p.1 ≤ 8) ∧ p.2 < 256

/-- What each row of a table satisfies, the row that applies does. -/
theorem row_found {c : Prop} [Decidable c] {x y : Nat × Nat} {r : Option (Nat × Nat)} (h : (if c then some x else r) = some y) (hx : EngineCause x)
    (hr : r = some y → EngineCause y) : EngineCause y := by
  by_cases hc : c
  · rw [if_pos hc] at h
    cases h
    exact hx
  · rw [if_neg hc] at h
    exact hr h

/-- The causes of the table's rows, and of the rule of R143. -/
theorem quadReject_cause {s : State} {t : TileId} {d : QuadDesc} {cmt : Bool} {movr desc cause row : Nat}
    (h : s.quadReject t cmt movr desc d = some (cause, row)) : EngineCause (cause, row) := by
  refine row_found h (by decide) fun h => row_found h (by decide) fun h => row_found h (by decide) fun h => ?_
  refine row_found h (by decide) fun h => row_found h (by decide) fun h => row_found h (by decide) fun h => ?_
  refine row_found h (by decide) fun h => row_found h (by decide) fun h => row_found h (by decide) fun h => ?_
  exact row_found h (by decide) fun h => by cases h

section
variable {s u : State} {t : TileId} {d : QuadDesc} (placed : Placed d)
include placed

/-- The work region, where the command uses it, is left free (R85). -/
theorem region_worked (clean : CleanTile u t) :
    Worked t (if d.usesWork then [(sram t (sramSize + 8 * d.work), 8 * d.workLen)] else []) u
      (if d.usesWork then u.freeWork t d.work d.workLen else u) := by
  by_cases uses : d.usesWork = true
  · rw [if_pos uses, if_pos uses]
    exact freeWork_worked List.mem_cons_self (placed.work uses) _ u _ clean (Nat.le_refl _) (Nat.le_refl _)
  · rw [if_neg uses, if_neg uses]
    exact worked_of_regsOnly clean (regsOnly_refl u)

/-- The work region lies apart from the elements in SRAM (R79). -/
theorem region_element {v : State} (dense : Dense d)
    (worked : Worked t (if d.usesWork then [(sram t (sramSize + 8 * d.work), 8 * d.workLen)] else []) u v) {r c : Nat} (hr : r < d.m) (hc : c < d.n)
    (h : ElementIs s t d r c u) : ElementIs s t d r c v := by
  rw [ElementIs, worked_bytes worked]
  · exact h
  · intro x hx b h1 _ _ h4
    by_cases uses : d.usesWork = true
    · rw [if_pos uses] at hx
      obtain rfl := List.mem_singleton.mp hx
      have row := placed.outRow dense.dst 0 (ns_pos d) r hr
      have last := Nat.mul_le_mul_left ((elemFmt d.fo).width / 8) (Nat.succ_le_of_lt hc)
      rw [Nat.mul_succ] at last
      rw [elemBytes_eq dense.width] at row
      rw [sram_eq, outAt, elemBytes_eq dense.width] at h4
      rw [sram_eq] at h1
      omega
    · rw [if_neg uses] at hx
      cases hx

end

section
variable {s : State} {t : TileId} {k : EngCmd} (clean : CleanTile s t) (room : (s.tile t).active[0].length < 2)
  (hop : cmdOp k.word = 1) (desc : s.sramOk t (64 * cmdFld k.word 63 47) 64 = true) {d : QuadDesc} (hd : descOf s t k = d)
  (h : s.quadReject t (cmdCmt k.word) (cmdFld k.word 46 38) (64 * cmdFld k.word 63 47) d = none)
  (noWindow : d.dst = false → d.fo = 9 → s.windowOf t d.outSpan.1 d.outSpan.2 = none)
include clean room hop desc hd h noWindow

/-- A product on a tile without errors that the table lets pass: what it may change, and each element of a dense one. -/
theorem quadWork_worked (feed bp thr : Nat) :
    Worked t (productRanges t d) (s.accept t 0 (productOf s t k)) (State.quadWork t feed bp thr k s) ∧
    (Dense d → ∀ r < d.m, ∀ c < d.n, ElementIs (s.accept t 0 (productOf s t k)) t d r c (State.quadWork t feed bp thr k s)) := by
  have src : d.accSrc < 4 := hd ▸ Nat.mod_lt _ (by decide)
  have placed : Placed d := placed_of_passed h noWindow src
  have accepted : CleanTile (s.accept t 0 (productOf s t k)) t := clean
  have window : d.dst = false → d.fo = 9 → (s.accept t 0 (productOf s t k)).windowOf t d.outSpan.1 d.outSpan.2 = none := noWindow
  obtain ⟨drained, worked⟩ := quadBlocks_worked placed k (maskOf s t d) window accepted
  have element := quadBlocks_element placed k (maskOf s t d) window
  subst hd
  obtain ⟨u, regs, run⟩ := quadWork_accepted clean room hop desc feed bp thr placed h drained
  have region := region_worked placed (regsOnly_clean regs worked.clean)
  rw [run]
  refine ⟨worked_trans (worked_mono (worked_trans worked (worked_of_regsOnly worked.clean regs)) fun r hr => List.mem_append_left _ hr)
    (worked_mono region fun r hr => List.mem_append_right _ hr), fun dense r hr c hc => region_element placed dense region hr hc ?_⟩
  rw [ElementIs, regsOnly_bytes regs]
  exact element dense (apart_of_passed h) hr hc accepted

end

/-- The ranges of a product, by device address. -/
theorem mem_productRanges {t : TileId} {d : QuadDesc} {r : Nat × Nat} (h : r ∈ productRanges t d) :
    r ∈ d.writes.map (fun r => (t.val * 0x800000 + r.1, r.2)) ++
      (if d.dst then [(t.val * 0x800000 + 0x600000 + 8 * d.outSpan.1, 8 * d.outSpan.2)] else []) ++
      (if d.usesWork then [(t.val * 0x800000 + 0x600000 + 8 * d.work, 8 * d.workLen)] else []) := by
  have entry : ∀ n, sram t (sramSize + 8 * n) = t.val * 0x800000 + 0x600000 + 8 * n := fun n => (Nat.add_assoc _ _ _).symm
  rw [productRanges, outs, entry, entry] at h
  exact h

/-- The operand elements of row r of A or B, by device address (R81, R82). -/
def operandRow (s : State) (t : TileId) (n : Nat) (o : List Nat) (code r : Nat) : List Elem :=
  operandElems code n (s.bytes (t.val * 0x800000 + 64 * (o.getD 0 0 + r * o.getD 1 0)) (elemBytes code n))
    (s.bytes (t.val * 0x800000 + 64 * (o.getD 2 0 + r * o.getD 3 0)) (ceilDiv n 32))

theorem operandRow_accept (s : State) (t u : TileId) (e : Fin 6) (a : Active) (n : Nat) (o : List Nat) (code r : Nat) :
    operandRow (s.accept u e a) t n o code r = operandRow s t n o code r := rfl

theorem rowElems_zero (s : State) (t : TileId) (o : List Nat) (code n r : Nat) : rowElems s t o code n 0 r = operandRow s t n o code r := by
  simp only [rowElems, operandRow, rowUnit, Nat.zero_mul, Nat.add_zero]
  rfl

/-- The element of a dense product, by device address (R64, R67). -/
theorem element_bytes {s u : State} {t : TileId} {d : QuadDesc} (dense : Dense d) {r c : Nat} (h : ElementIs s t d r c u) :
    u.bytes (t.val * 0x800000 + 64 * (d.c.getD 0 0 + r * d.c.getD 1 0) + (elemFmt d.fo).width / 8 * c) ((elemFmt d.fo).width / 8) =
      leBytes ((elemFmt d.fo).width / 8)
        (encodeOut d (dotProduct d.g none (operandRow s t d.k d.a d.fa r) (operandRow s t d.k d.b d.fb c)).1) := by
  have place : sram t (outAt d 0 r c) = t.val * 0x800000 + 64 * (d.c.getD 0 0 + r * d.c.getD 1 0) + (elemFmt d.fo).width / 8 * c := by
    rw [outAt, elemBytes_eq dense.width, rowUnit, Nat.zero_mul, Nat.add_zero]
    exact (Nat.add_assoc _ _ _).symm
  rw [ElementIs, place, rowElems_zero, rowElems_zero] at h
  exact h

/-- Settles O24: the table judges the command, every read and write of one that it lets pass succeeds within its ranges, and the rows of a
dense product are drained as the step rule gives them. -/
theorem products : Obligations.Products := by
  intro s t k rest feed bp thr ready clean room off movr base d entries desc
  have run : exec (.product t feed bp thr) s = .next (State.quadWork t feed bp thr k s) :=
    congrArg Host.Outcome.next (atHead_run ready rfl (State.quadWork t feed bp thr))
  obtain ⟨queue, hop, _⟩ := ready
  refine ⟨fun c row h => ?_, fun h noWindow => ?_⟩
  · obtain ⟨cause, small⟩ := quadReject_cause h
    refine ⟨_, run, ?_⟩
    rw [quadWork_rejected clean room hop desc feed bp thr h]
    exact rejectCmd_rejected queue cause small
  · obtain ⟨worked, element⟩ := quadWork_worked clean room hop desc rfl h noWindow feed bp thr
    refine ⟨_, run, accepted_of_tiles (accept_accepted (productOf s t k) queue rfl rfl) worked.tiles,
      fun a ha => worked.bytes a (fun r hr => ha r (mem_productRanges hr)), ?_⟩
    intro h0 hm ha hd h9 hb hw hr stride f n elems r hr' c hc
    have dense : Dense d := ⟨h0, hm, ha, hd, h9, hb, hw, hr, stride⟩
    have e := element_bytes dense (element dense r hr' c hc)
    rw [operandRow_accept, operandRow_accept, encodeOut] at e
    exact e

end Sys2Proof.Proofs
end

section
/-! What the engines that work on streams in SRAM share (R104, R105, R118): reads and a write on a tile without errors (R165), the flags of
results (R56), and what acceptance leaves of a tile that is changed further. -/
namespace Sys2Proof.Proofs

open Sys2Proof Sys2Proof.Machine Sys2Proof.Laws

/-! ### Reads -/

/-- A row read from a tile without errors; the machine does not change (R40, R82). -/
theorem rdOperand_clean {s : State} {t : TileId} (clean : CleanTile s t) {off soff code n : Nat} (row : off + elemBytes code n ≤ storeEnd)
    (scales : isBlock code = true → soff + ceilDiv n 32 ≤ storeEnd) :
    s.rdOperand t off soff code n =
      (s, .ok (operandElems code n (s.bytes (sram t off) (elemBytes code n)) (s.bytes (sram t soff) (ceilDiv n 32)))) := by
  unfold State.rdOperand
  simp only [rdTile_clean clean row]
  by_cases hb : isBlock code = true
  · simp only [hb, if_true, rdTile_clean clean (scales hb)]
  · rw [if_neg hb, operandElems_plain (Bool.eq_false_iff.mpr hb)]

/-- Reads in turn that succeed and leave the machine as it is. -/
theorem mapReads_eq_map {α β : Type} {f : State → α → State × Except Nat β} {g : α → β} {s : State} {l : List α}
    (h : ∀ a ∈ l, f s a = (s, .ok (g a))) : mapReads f s l = (s, .ok (l.map g)) := by
  induction l with
  | nil => rfl
  | cons a r ih =>
    have head := h a List.mem_cons_self
    have tail := ih (fun b hb => h b (List.mem_cons_of_mem a hb))
    simp only [mapReads, head, tail, List.map_cons]

theorem operandElems_length_le (code n : Nat) (bs sc : List Byte) : (operandElems code n bs sc).length ≤ n := by
  have short := unpackElems_length_le (elemFmt code).width n bs
  unfold operandElems
  dsimp only
  split
  · rw [List.length_zipWith, List.length_range]
    exact Nat.min_le_left _ _
  · rwa [List.length_map, List.length_map]

/-! ### A write -/

theorem bytesOnly_tiles {s u : State} (h : BytesOnly s u) : u.tiles = s.tiles := by
  obtain ⟨m, p, q, rfl, _⟩ := h
  rfl

theorem bytesOnly_reg {s u : State} (h : BytesOnly s u) (a : Nat) : u.reg a = s.reg a := by
  obtain ⟨m, p, q, rfl, _⟩ := h
  rfl

theorem bytesOnly_clean {s u : State} {t : TileId} (h : BytesOnly s u) (clean : CleanTile s t) : CleanTile u t := by
  obtain ⟨m, p, q, rfl, hp, hq⟩ := h
  exact fun w lo hi => ⟨hp w (clean w lo hi).1, hq w (clean w lo hi).2⟩

/-- The bytes written read back. -/
theorem bytes_of_poke_self {s u : State} {a : Nat} {bs : List Byte} (h : ∀ b, u.byte b = (s.poke a bs).byte b) : u.bytes a bs.length = bs := by
  refine List.ext_getElem (by rw [State.bytes, List.length_map, List.length_range]) (fun i _ hi => ?_)
  simp only [State.bytes, List.getElem_map, List.getElem_range]
  rw [h, byte_poke, dif_pos (by omega)]
  simp only [Nat.add_sub_cancel_left]

/-- Bytes outside a range that holds those written. -/
theorem sameBytesOutside_of_poke {s u : State} {a n : Nat} {bs : List Byte} (h : ∀ b, u.byte b = (s.poke a bs).byte b) (hn : bs.length ≤ n) :
    SameBytesOutside [(a, n)] s u := by
  intro b hb
  have out := hb _ List.mem_cons_self
  rw [h, byte_poke_out]
  dsimp only at out
  omega

/-- A row of at most n elements takes no more than the bytes of n. -/
theorem packElems_length_le (code : Nat) {n : Nat} {es : List Nat} (h : es.length ≤ n) :
    (packElems (elemFmt code).width es).length ≤ elemBytes code n := by
  have := packElems_within code (c0 := 0) es rfl (by omega : 0 + es.length ≤ n)
  omega

/-! ### The flags of results -/

theorem tileReg_ne (t b : Nat) {off b' off' : Nat} (h : 0x1000 * b + off ≠ 0x1000 * b' + off') : tileReg t b off ≠ tileReg t b' off' := by
  unfold tileReg
  omega

/-- The context's flags take those of the results; they are sticky (R57). -/
theorem reg_raiseFlags_self (s : State) (l : Loc) (fs : List AFlags) : (s.raiseFlags l fs).reg (rAflag l.tile l.ctx) =
    s.reg (rAflag l.tile l.ctx) ||| BitVec.ofNat 64 (fs.foldl AFlags.or .none).bits := by
  have hc := l.ctx.isLt
  unfold State.raiseFlags
  simp only [reg_count]
  rw [rAflag, if_neg (tileReg_ne _ _ (by omega)), if_neg (tileReg_ne _ _ (by omega)), if_neg (tileReg_ne _ _ (by omega)),
    if_neg (tileReg_ne _ _ (by omega)), reg_setReg_self]

/-- Registers outside block 0 of the tile stand. -/
theorem reg_raiseFlags_block (s : State) (l : Loc) (fs : List AFlags) {b off : Nat} (hb : 0 < b) :
    (s.raiseFlags l fs).reg (tileReg l.tile b off) = s.reg (tileReg l.tile b off) := by
  have hc := l.ctx.isLt
  unfold State.raiseFlags
  simp only [reg_count, reg_setReg]
  rw [rAflag, if_neg (tileReg_ne _ _ (by omega)), if_neg (tileReg_ne _ _ (by omega)), if_neg (tileReg_ne _ _ (by omega)),
    if_neg (tileReg_ne _ _ (by omega)), if_neg (tileReg_ne _ _ (by omega))]

theorem regsOnly_tiles {s u : State} (h : RegsOnly s u) : u.tiles = s.tiles := by
  obtain ⟨r, rfl⟩ := h
  rfl

theorem regsOnly_byte {s u : State} (h : RegsOnly s u) (b : Nat) : u.byte b = s.byte b := by
  obtain ⟨r, rfl⟩ := h
  rfl

/-! ### Acceptance -/

theorem tile_congr {u v : State} (same : v.tiles = u.tiles) (n : Nat) : v.tile n = u.tile n := by rw [State.tile, same, State.tile]

/-- Acceptance of a command with nothing set but its nominal cycles. -/
theorem accept_of_accepted {s : State} {t : TileId} {e : Fin 6} {k : EngCmd} {rest : List EngCmd} (hq : (s.tile t).queues[e] = k :: rest)
    (cycles : Nat) : Accepted t e k rest true (progressed e (s.ctx ⟨t, k.ctx⟩)) s (s.accept t e (Active.of k cycles)) :=
  accept_accepted (Active.of k cycles) hq rfl rfl

theorem byte_accept (s : State) (t : TileId) (e : Fin 6) (a : Active) (b : Nat) : (s.accept t e a).byte b = s.byte b := by
  rw [State.accept, State.engProgress, byte_updCtx, byte_updTile, State.popHead, byte_updTile]

theorem bytes_accept (s : State) (t : TileId) (e : Fin 6) (a : Active) (b n : Nat) : (s.accept t e a).bytes b n = s.bytes b n := by
  simp only [State.bytes, byte_accept]

theorem byte_poke_accept (s : State) (t : TileId) (e : Fin 6) (x : Active) (a : Nat) (bs : List Byte) (b : Nat) :
    ((s.accept t e x).poke a bs).byte b = (s.poke a bs).byte b := by
  rw [byte_poke, byte_poke, byte_accept]

theorem clean_accept {s : State} {t : TileId} (clean : CleanTile s t) (e : Fin 6) (a : Active) : CleanTile (s.accept t e a) t := by
  have words : (s.accept t e a).upset = s.upset ∧ (s.accept t e a).poison = s.poison := by
    simp only [State.accept, State.engProgress, State.popHead, updCtx_upset, updCtx_poison, updTile_upset, updTile_poison, and_self]
  rwa [CleanTile, words.1, words.2]

/-- An engine without an accepted command. -/
theorem not_busy {x : Tile} {e : Fin 6} (idle : x.act e = []) : ¬ (!(x.act e).isEmpty) = true := by
  rw [idle]
  decide

/-- A change of the tile that leaves its queues, its accepted commands and its contexts leaves an acceptance. -/
theorem accepted_updTile {t : TileId} {e : Fin 6} {k : EngCmd} {rest : List EngCmd} {fin : Bool} {c : Ctx} {s u : State}
    (h : Accepted t e k rest fin c s u) {f : Tile → Tile} (queues : ∀ x, (f x).queues = x.queues) (active : ∀ x, (f x).active = x.active)
    (ctxs : ∀ x, (f x).ctxs = x.ctxs) : Accepted t e k rest fin c s (u.updTile t f) := by
  obtain ⟨hq, ha, hf, hn, hc, hi⟩ := h
  refine ⟨?_, ?_, fun g hg => ?_, fun n h => ?_, ?_, fun i h => ?_⟩
  · rwa [tile_updTile_self, queues]
  · rwa [tile_updTile_self, active]
  · rw [tile_updTile_self, queues, active]
    exact hf g hg
  · rw [tile_updTile, if_neg h]
    exact hn n h
  · rwa [ctx_updTile _ _ _ ctxs]
  · rw [ctx_updTile _ _ _ ctxs]
    exact hi i h

end Sys2Proof.Proofs
end

section
/-! The row engine (R117 to R122). -/
namespace Sys2Proof.Proofs

open Sys2Proof Sys2Proof.Machine Sys2Proof.Laws

/-- The instructions of the row engine run its work on the command at the head of its queue (R118, R138). -/
theorem row_instruction {i : Instr} {t : TileId} {op : Nat} (h : engineRow i = some (t, 2, op)) :
    ∃ mine, mine op = true ∧ ∀ s, exec i s = .next (s.atHead t 2 mine (State.rowWork t)) := by
  unfold engineRow at h
  split at h <;> simp only [Option.some.injEq, Prod.mk.injEq, reduceCtorEq, Fin.reduceEq, false_and, and_false, true_and] at h
  all_goals
    obtain ⟨rfl, rfl⟩ := h
    exact ⟨_, rfl, fun s => rfl⟩

/-- The causes of the table's rows, and of the rule of R143. -/
theorem rowReject_cause {s : State} {t : TileId} {k : EngCmd} {r : RowCmd} {cause row : Nat} (h : s.rowReject t k r = some (cause, row)) :
    EngineCause (cause, row) := by
  refine row_found h (by decide) fun h => row_found h (by decide) fun h => row_found h (by decide) fun h => ?_
  refine row_found h (by decide) fun h => row_found h (by decide) fun h => ?_
  cases h

/-- The rows that a command reads and the row that it writes lie in SRAM, in formats without scales (R122). -/
structure RowPlaced (r : RowCmd) : Prop where
  plain : isBlock r.fx = false
  reads : ∀ x ∈ r.reads, x.1 + elemBytes r.fx r.n ≤ storeEnd
  out : r.op ≠ 5 → 64 * r.o + elemBytes r.fo r.n ≤ storeEnd

theorem rowPlaced_of_passed {s : State} {t : TileId} {k : EngCmd} {r : RowCmd} (h : s.rowReject t k r = none) : RowPlaced r := by
  obtain ⟨codes, h⟩ := row_passed h
  obtain ⟨range, h⟩ := row_passed h
  simp only [Bool.or_eq_true, not_or, List.any_eq_true, not_exists, not_and, Bool.and_eq_true, decide_eq_true_eq, Bool.not_eq_true',
    Bool.not_eq_false] at range
  obtain ⟨reads, out⟩ := range
  refine ⟨?_, fun x hx => ?_, fun hop => ?_⟩
  · simp only [isBlock, decide_eq_false_iff_not]
    omega
  · have fits := sramOk_fits (reads x hx)
    have size : x.2 = elemBytes r.fx r.n := by
      unfold RowCmd.reads at hx
      split at hx
      · cases hx
      · split at hx <;> simp only [List.mem_cons, List.not_mem_nil, or_false] at hx
        · obtain rfl | rfl := hx <;> rfl
        · rw [hx]
    rw [size] at fits
    exact fits.trans sramSize_le_storeEnd
  · have fits := sramOk_fits (out hop)
    rw [RowCmd.out, if_neg hop] at fits
    exact fits.trans sramSize_le_storeEnd

/-! ### Sizes -/

theorem rowOp_length (f : Val → Exact × AFlags) (xs : List Val) : (rowOp f xs).1.length = xs.length := by
  simp only [rowOp, List.length_map]

theorem rowOp2_length_le (f : Val → Val → Exact × AFlags) (xs ys : List Val) :
    (rowOp2 f xs ys).1.length ≤ xs.length ∧ (rowOp2 f xs ys).1.length ≤ ys.length := by
  simp only [rowOp2, List.length_map, List.length_zipWith]
  omega

/-- An operation gives no more elements than its row has. -/
theorem compute_length_le (r : RowCmd) (xs gs : List Val) (eps : Val) (stat : Nat × Nat) : (r.compute xs gs eps stat).1.1.length ≤ xs.length := by
  have fwd : (normFwd xs r.n eps).1.1.length = xs.length := by
    simp only [normFwd, normStats, rowOp_length]
  have bwd : (normBwd xs gs r.n (v32 stat.1) (v32 stat.2)).1.length ≤ xs.length := by
    simp only [normBwd, rowOp_length]
    exact (rowOp2_length_le _ _ _).1.trans (by simp only [rowOp_length, le_refl])
  have sfwd : (smaxFwd xs).1.1.length = xs.length := by
    simp only [smaxFwd, smaxExp, rowOp_length]
  have sbwd : (smaxBwd xs gs (v32 stat.1) (v32 stat.2)).1.length ≤ xs.length := by
    simp only [smaxBwd]
    exact (rowOp2_length_le _ _ _).1.trans (by simp only [smaxExp, rowOp_length, le_refl])
  unfold RowCmd.compute
  split
  · exact fwd.le
  · exact bwd
  · exact sfwd.le
  · exact sbwd

/-! ### The run -/

/-- The values of a row in SRAM (R118). -/
def rowValues (s : State) (t : TileId) (r : RowCmd) (b : Nat) : List Val :=
  (operandElems r.fx r.n (s.bytes (sram t (64 * b)) (elemBytes r.fx r.n)) []).map (·.1)

/-- What the operation gives for the rows in memory and the statistics of its slot. -/
def rowResult (s : State) (t : TileId) (k : EngCmd) (r : RowCmd) : Flagged (List Val) × Option (Nat × Nat) :=
  r.compute (rowValues s t r r.x) (if r.back then rowValues s t r r.g else []) (v32 ((k.ops[3]).toNat % 2 ^ 32))
    ((s.tile t).side.get (fun _ => (0, 0)) r.slot)

/-- A forward operation has statistics for its slot, and a backward one none (R119). -/
theorem rowResult_forward {r : RowCmd} (h : r.op = 1 ∨ r.op = 3) (s : State) (t : TileId) (k : EngCmd) :
    ∃ v, (rowResult s t k r).2 = some v := by
  rcases h with h | h <;> exact ⟨_, by simp only [rowResult, RowCmd.compute, h]; rfl⟩

theorem rowResult_backward {r : RowCmd} (h : r.op = 2 ∨ r.op = 4) (s : State) (t : TileId) (k : EngCmd) : (rowResult s t k r).2 = none := by
  rcases h with h | h <;> simp only [rowResult, RowCmd.compute, h]

/-- The results delivered into the output's format, with their flags (R118). -/
def rowOut (s : State) (t : TileId) (k : EngCmd) (r : RowCmd) : List (Nat × AFlags) :=
  (rowResult s t k r).1.1.map (fun v => deliver (.val v, .none) (elemFmt r.fo) ((Rnd.ofCode r.rnd).getD .rne) 0 false)

/-- The bytes of the row that the operation writes. -/
def rowBytes (s : State) (t : TileId) (k : EngCmd) (r : RowCmd) : List Byte := packElems (elemFmt r.fo).width ((rowOut s t k r).map (·.1))

/-- Leaves statistics, if there are some, in a slot (R119). -/
def storeStats (t : TileId) (slot : Nat) (v : Option (Nat × Nat)) (s : State) : State :=
  match v with
  | some v => s.updTile t (fun x => x.setSlot slot v)
  | none => s

theorem rowBytes_length_le (s : State) (t : TileId) (k : EngCmd) (r : RowCmd) : (rowBytes s t k r).length ≤ elemBytes r.fo r.n := by
  refine packElems_length_le _ ?_
  rw [List.length_map, rowOut, List.length_map]
  refine (compute_length_le ..).trans ?_
  rw [rowValues, List.length_map]
  exact operandElems_length_le ..

/-- What a command's reads answer (R118). -/
def rowReads (s : State) (t : TileId) (r : RowCmd) : List (List Elem) :=
  r.reads.map (fun p => operandElems r.fx r.n (s.bytes (sram t p.1) (elemBytes r.fx r.n)) [])

theorem rowReads_clean {s : State} {t : TileId} {r : RowCmd} (clean : CleanTile s t) (placed : RowPlaced r) :
    mapReads (fun s p => s.rdOperand t p.1 0 r.fx r.n) s r.reads = (s, .ok (rowReads s t r)) := by
  have scales : isBlock r.fx = true → 0 + ceilDiv r.n 32 ≤ storeEnd := fun h => by rw [placed.plain] at h; cases h
  refine mapReads_eq_map (fun p hp => ?_)
  rw [rdOperand_clean clean (placed.reads p hp) scales, operandElems_plain placed.plain]

theorem rowReads_values (s : State) (t : TileId) {r : RowCmd} (hop : r.op ≠ 5) :
    ((rowReads s t r).getD 0 []).map (·.1) = rowValues s t r r.x ∧
      ((rowReads s t r).getD 1 []).map (·.1) = if r.back then rowValues s t r r.g else [] := by
  rw [rowReads, RowCmd.reads, if_neg hop]
  cases r.back
  · exact ⟨rfl, rfl⟩
  · exact ⟨rfl, rfl⟩

/-- An operation but SLOT_CLR on a tile without errors: its row is written, its flags are raised, and its statistics are kept. -/
theorem rowRun_clean {s : State} {t : TileId} {k : EngCmd} {r : RowCmd} (clean : CleanTile s t) (placed : RowPlaced r) (hop : r.op ≠ 5) :
    ∃ u, u.tiles = s.tiles ∧ (∀ b, u.byte b = (s.poke (sram t (64 * r.o)) (rowBytes s t k r)).byte b) ∧
      State.rowRun t k r s = storeStats t r.slot (rowResult s t k r).2 u := by
  obtain ⟨ok, only, byte⟩ := writeT0_clean clean (off := 64 * r.o) (rowBytes s t k r)
    (Nat.le_trans (Nat.add_le_add_left (rowBytes_length_le s t k r) _) (placed.out hop))
  have regs := regsOnly_raiseFlags (s.writeT0 (sram t (64 * r.o)) (rowBytes s t k r)).1 (k.loc t)
    ((rowResult s t k r).1.2 ++ (rowOut s t k r).map (·.2))
  refine ⟨_, (regsOnly_tiles regs).trans (bytesOnly_tiles only), fun b => (regsOnly_byte regs b).trans (byte b), ?_⟩
  obtain ⟨first, second⟩ := rowReads_values s t hop
  have out : r.out = (64 * r.o, elemBytes r.fo r.n) := if_neg hop
  unfold State.rowRun
  simp only [rowReads_clean clean placed, first, second, out]
  exact if_pos ok

/-! ### The command -/

/-- A command that the table of R122 rejects. -/
theorem rowWork_rejected {s : State} {t : TileId} {k : EngCmd} (idle : (s.tile t).active[2] = []) {cause row : Nat}
    (h : s.rowReject t k (RowCmd.ofWord k.word) = some (cause, row)) : State.rowWork t k s = s.rejectCmd t 2 k cause row := by
  unfold State.rowWork
  refine (if_neg (not_busy (e := 2) idle)).trans ?_
  rw [h]

/-- Clears a slot's valid flag (R119). -/
def clearSlot (slot : Nat) (x : Tile) : Tile := { x with sideValid := without x.sideValid slot }

theorem clearSlot_side (slot : Nat) (x : Tile) : (clearSlot slot x).side = x.side := rfl

theorem mem_clearSlot (slot n : Nat) (x : Tile) : n ∈ (clearSlot slot x).sideValid ↔ n ∈ x.sideValid ∧ n ≠ slot := by
  rw [clearSlot, without, List.mem_filter, decide_eq_true_eq]

/-- The nominal cycles of a command (R118). -/
def rowCycles (r : RowCmd) : Nat := 16 + rowPasses r.op * ceilDiv r.n 32

/-- A command that the table lets pass is accepted; then its operation runs (R138). -/
theorem rowWork_accepted {s : State} {t : TileId} {k : EngCmd} (idle : (s.tile t).active[2] = []) {r : RowCmd} (hr : RowCmd.ofWord k.word = r)
    (h : s.rowReject t k r = none) : State.rowWork t k s =
      if r.op = 5 then (s.accept t 2 (Active.of k (rowCycles r))).updTile t (clearSlot r.slot)
      else State.rowRun t k r (s.accept t 2 (Active.of k (rowCycles r))) := by
  subst hr
  unfold State.rowWork
  refine (if_neg (not_busy (e := 2) idle)).trans ?_
  rw [h]
  rfl

/-- Acceptance leaves the side memory and the slots' flags. -/
theorem accept_side (s : State) (t : TileId) (e : Fin 6) (a : Active) :
    ((s.accept t e a).tile t).side = (s.tile t).side ∧ ((s.accept t e a).tile t).sideValid = (s.tile t).sideValid := by
  rw [tile_accept]
  exact ⟨rfl, rfl⟩

theorem rowResult_accept (s : State) (t : TileId) (e : Fin 6) (a : Active) (k : EngCmd) (r : RowCmd) :
    rowResult (s.accept t e a) t k r = rowResult s t k r := by
  simp only [rowResult, rowValues, bytes_accept, (accept_side s t e a).1]

/-! ### Statistics -/

theorem storeStats_accepted {t : TileId} {e : Fin 6} {k : EngCmd} {rest : List EngCmd} {fin : Bool} {c : Ctx} {s u : State}
    (h : Accepted t e k rest fin c s u) (slot : Nat) (v : Option (Nat × Nat)) : Accepted t e k rest fin c s (storeStats t slot v u) := by
  cases v with
  | none => exact h
  | some v => exact accepted_updTile h (fun _ => rfl) (fun _ => rfl) (fun _ => rfl)

theorem storeStats_byte (t : TileId) (slot : Nat) (v : Option (Nat × Nat)) (s : State) (b : Nat) : (storeStats t slot v s).byte b = s.byte b := by
  cases v <;> rfl

theorem storeStats_slot (t : TileId) (slot : Nat) (v : Nat × Nat) (s : State) :
    ((storeStats t slot (some v) s).tile t).side.get (fun _ => (0, 0)) slot = v ∧
      slot ∈ ((storeStats t slot (some v) s).tile t).sideValid := by
  rw [storeStats, tile_updTile_self]
  refine ⟨smap_get_put_self _ _ _ _, ?_⟩
  rw [Tile.setSlot, withOne]
  split
  · assumption
  · exact List.mem_append_right _ List.mem_cons_self

section
variable {s : State} {t : TileId} {k : EngCmd} {rest : List EngCmd} (queue : (s.tile t).queues[(2 : Fin 6)] = k :: rest)
  (idle : (s.tile t).active[2] = []) {r : RowCmd} (hr : RowCmd.ofWord k.word = r) (h : s.rowReject t k r = none)
include queue idle hr h

/-- SLOT_CLR clears its slot's flag, and nothing else of the side memory (R119). -/
theorem slotClr_done (clear : r.op = 5) :
    Accepted t 2 k rest true (progressed 2 (s.ctx ⟨t, k.ctx⟩)) s (State.rowWork t k s) ∧ SameBytes s (State.rowWork t k s) ∧
      ((State.rowWork t k s).tile t).side = (s.tile t).side ∧
      ∀ n, n ∈ ((State.rowWork t k s).tile t).sideValid ↔ n ∈ (s.tile t).sideValid ∧ n ≠ r.slot := by
  obtain ⟨side, valid⟩ := accept_side s t 2 (Active.of k (rowCycles r))
  have kept := accepted_updTile (accept_of_accepted queue (rowCycles r)) (f := clearSlot r.slot) (fun _ => rfl) (fun _ => rfl) (fun _ => rfl)
  rw [rowWork_accepted idle hr h, if_pos clear, tile_updTile_self]
  refine ⟨kept, fun b => by rw [byte_updTile, byte_accept], (clearSlot_side ..).trans side, fun n => ?_⟩
  rw [mem_clearSlot, valid]

/-- Another operation writes its row, and leaves its statistics, if it has some, in its slot (R119, R121). -/
theorem rowWork_done (clean : CleanTile s t) (hop : r.op ≠ 5) : ∃ u, Accepted t 2 k rest true (progressed 2 (s.ctx ⟨t, k.ctx⟩)) s u ∧
      (u.tile t).side = (s.tile t).side ∧ (u.tile t).sideValid = (s.tile t).sideValid ∧
      (∀ b, u.byte b = (s.poke (sram t (64 * r.o)) (rowBytes s t k r)).byte b) ∧
      State.rowWork t k s = storeStats t r.slot (rowResult s t k r).2 u := by
  obtain ⟨side, valid⟩ := accept_side s t 2 (Active.of k (rowCycles r))
  obtain ⟨u, tiles, byte, done⟩ := rowRun_clean (k := k) (clean_accept clean 2 (Active.of k (rowCycles r))) (rowPlaced_of_passed h) hop
  refine ⟨u, accepted_of_tiles (accept_of_accepted queue (rowCycles r)) tiles, ?_, ?_, fun b => ?_, ?_⟩
  · rw [tile_congr tiles, side]
  · rw [tile_congr tiles, valid]
  · rw [byte, byte_poke_accept, rowBytes, rowOut, rowResult_accept, rowBytes, rowOut]
  · rw [rowWork_accepted idle hr h, if_neg hop, done, rowResult_accept]

end

/-- Settles O23: the table judges the command; the row of one that it lets pass is written by one write after its reads, and its statistics
follow the operation's direction. -/
theorem rowCommands : Obligations.RowCommands := by
  intro s t i op k rest hi ready clean idle r l row y es dst at'
  obtain ⟨mine, hm, instr⟩ := row_instruction hi
  have run : exec i s = .next (State.rowWork t k s) := (instr s).trans (congrArg Host.Outcome.next (atHead_run ready hm _))
  obtain ⟨queue, hop, _⟩ := ready
  have code : r.op = op := hop
  subst code
  refine ⟨fun h => ⟨_, run, ?_⟩, fun c d h => ⟨_, run, ?_⟩⟩
  · by_cases clear : r.op = 5
    · obtain ⟨accepted, bytes, side, valid⟩ := slotClr_done queue idle rfl h clear
      have dir : ¬ (r.op = 1 ∨ r.op = 3) ∧ ¬ (r.op = 2 ∨ r.op = 4) := by rw [clear]; decide
      exact ⟨accepted, fun h => absurd clear h, fun h => absurd h dir.1, fun h => absurd h dir.2, fun _ => ⟨bytes, side, valid⟩⟩
    · obtain ⟨u, accepted, side, valid, byte, done⟩ := rowWork_done queue idle rfl h clean clear
      have result : y = rowResult s t k r := rfl
      have written : dst = rowBytes s t k r := congrArg (packElems _) (List.map_map ..).symm
      rw [done]
      refine ⟨storeStats_accepted accepted _ _, fun _ => ⟨?_, ?_⟩, fun forward => ?_, fun back => ?_, fun h => absurd h clear⟩
      · rw [written]
        exact bytes_of_poke_self fun b => (storeStats_byte ..).trans (byte b)
      · exact sameBytesOutside_of_poke (fun b => (storeStats_byte ..).trans (byte b)) (rowBytes_length_le s t k r)
      · obtain ⟨v, hv⟩ := rowResult_forward forward s t k
        obtain ⟨slot, flag⟩ := storeStats_slot t r.slot v u
        rw [result, hv]
        exact ⟨⟨v, rfl, slot⟩, flag⟩
      · rw [rowResult_backward back]
        exact ⟨side, valid⟩
  · obtain ⟨cause, small⟩ := rowReject_cause h
    rw [rowWork_rejected idle h]
    exact rejectCmd_rejected queue cause small

end Sys2Proof.Proofs
end

section
/-! The vector engine: what a command reads, computes and writes on a tile without errors (R103 to R107, R110, R122). -/
namespace Sys2Proof.Proofs

open Sys2Proof Sys2Proof.Machine Sys2Proof.Laws

/-! ### The table (R122) -/

/-- The causes of the table's rows, and of the rule of R143. -/
theorem vecReject_cause {s : State} {t : TileId} {k : EngCmd} {v : VecCmd} {cause row : Nat} (h : s.vecReject t k v = some (cause, row)) :
    EngineCause (cause, row) := by
  refine row_found h (by decide) fun h => row_found h (by decide) fun h => row_found h (by decide) fun h => ?_
  refine row_found h (by decide) fun h => row_found h (by decide) fun h => row_found h (by decide) fun h => ?_
  cases h

/-- Only CVT takes block-scaled formats. -/
theorem op_of_isBlock {v : VecCmd} (codes : ¬ v.codesBad = true) (h : isBlock v.fa = true ∨ isBlock v.fd = true) : v.op = 13 := by
  by_contra hop
  simp only [isBlock, decide_eq_true_eq] at h
  simp only [VecCmd.codesBad, if_neg hop, Bool.or_eq_true, not_or] at codes
  obtain ⟨_, formats⟩ := codes
  split at formats
  · simp only [Bool.or_eq_true, Bool.not_eq_true', decide_eq_false_iff_not, not_or, not_not] at formats
    omega
  · simp only [decide_eq_true_eq] at formats
    omega

/-- The streams of a command that the table lets pass lie in SRAM, with their scale codes, of which each belongs to a whole block. -/
structure VecPlaced (v : VecCmd) : Prop where
  block : isBlock v.fd = true → v.op = 13
  source : ∀ f ∈ v.srcs, isBroadcast f = false → 64 * f + elemBytes v.fa v.n ≤ storeEnd
  scales : isBlock v.fa = true → ceilDiv v.n 32 = v.n / 32 ∧ 64 * v.b + v.n / 32 ≤ storeEnd
  out : ∀ w ∈ v.outs, w.1 + w.2.1 ≤ storeEnd

theorem vecPlaced_of_passed {s : State} {t : TileId} {k : EngCmd} {v : VecCmd} (h : s.vecReject t k v = none) : VecPlaced v := by
  obtain ⟨codes, h⟩ := row_passed h
  obtain ⟨blocks, h⟩ := row_passed h
  obtain ⟨range, h⟩ := row_passed h
  have fits : ∀ w ∈ v.streams ++ v.outs, w.1 + w.2.1 ≤ storeEnd := by
    intro w hw
    simp only [State.vecAddrBad, Bool.or_eq_true, not_or, List.any_eq_true, not_exists, not_and] at range
    obtain ⟨⟨_, ok⟩, _⟩ := range
    have inside := ok w hw
    rw [Bool.not_eq_true', Bool.not_eq_false] at inside
    exact (sramOk_fits inside).trans sramSize_le_storeEnd
  refine ⟨fun hb => op_of_isBlock codes (Or.inr hb), fun f hf hn => ?_, fun hb => ?_, fun w hw => fits w (List.mem_append_right _ hw)⟩
  · have stream : (64 * f, v.bytesOf v.fa, (elemFmt v.fa).width) ∈ v.streams :=
      List.mem_append_left _ (List.mem_map.mpr ⟨f, List.mem_filter.mpr ⟨hf, by rw [hn]; rfl⟩, rfl⟩)
    exact fits _ (List.mem_append_left _ stream)
  · have hop := op_of_isBlock codes (Or.inl hb)
    have stream : (64 * v.b, v.n / 32, 8) ∈ v.streams := List.mem_append_right _ (by rw [if_pos ⟨hop, hb⟩]; exact List.mem_cons_self)
    refine ⟨?_, fits _ (List.mem_append_left _ stream)⟩
    have whole : v.n % 32 = 0 := by
      by_contra part
      exact blocks (by simp [VecCmd.blockBad, hop, hb, part])
    unfold ceilDiv
    omega

/-! ### Operands (R103, R106) -/

/-- A stream without scales does not look at the scale codes, and one with scales has one for each whole block (R40). -/
theorem operandElems_codes {v : VecCmd} (placed : VecPlaced v) (s : State) (a : Nat) (bs : List Byte) :
    operandElems v.fa v.n bs (s.bytes a (ceilDiv v.n 32)) = operandElems v.fa v.n bs (s.bytes a (v.n / 32)) := by
  by_cases hb : isBlock v.fa = true
  · rw [(placed.scales hb).1]
  · exact operandElems_plain (Bool.eq_false_iff.mpr hb) ..

theorem vecOperands_clean {s : State} {t : TileId} (k : EngCmd) {v : VecCmd} (clean : CleanTile s t) (placed : VecPlaced v) :
    s.vecOperands t k v = (s, .ok (v.srcs.map (vecOperand s t k v))) := by
  refine mapReads_eq_map (fun f hf => ?_)
  rw [vecOperand]
  by_cases hn : isBroadcast f = true
  · rw [if_pos hn, if_pos hn]
  · rw [if_neg hn, if_neg hn, rdOperand_clean clean (placed.source f hf (Bool.eq_false_iff.mpr hn))
      (fun hb => (placed.scales hb).1 ▸ (placed.scales hb).2)]
    rw [operandElems_codes placed]
    rfl

theorem vecSources_cases (op : Nat) : vecSources op = 1 ∨ vecSources op = 2 ∨ vecSources op = 3 := by
  unfold vecSources
  split
  · exact Or.inr (Or.inr rfl)
  · split
    · exact Or.inl rfl
    · exact Or.inr (Or.inl rfl)

/-- Element i of the operands: a source that the operation does not have supplies +0. -/
theorem srcs_element (v : VecCmd) (g : Nat → List Val) (i : Nat) :
    ((v.srcs.map g).getD 0 []).getD i Val.zero = (g v.a).getD i Val.zero ∧
    ((v.srcs.map g).getD 1 []).getD i Val.zero = (if 2 ≤ vecSources v.op then (g v.b).getD i Val.zero else Val.zero) ∧
    ((v.srcs.map g).getD 2 []).getD i Val.zero = (if vecSources v.op = 3 then (g v.c).getD i Val.zero else Val.zero) := by
  unfold VecCmd.srcs
  rcases vecSources_cases v.op with h | h | h <;> rw [h] <;> exact ⟨rfl, rfl, rfl⟩

/-! ### Results (R106, R107, R110) -/

/-- Element i of source field f. -/
def vecArg (s : State) (t : TileId) (k : EngCmd) (v : VecCmd) (f i : Nat) : Val := (vecOperand s t k v f).getD i Val.zero

/-- The exact results of a command's elements. -/
def vecResults (s : State) (t : TileId) (k : EngCmd) (v : VecCmd) : List (Exact × AFlags) :=
  (List.range v.n).map (fun i => v.result (vecArg s t k v v.a i) (if 2 ≤ vecSources v.op then vecArg s t k v v.b i else Val.zero)
    (if vecSources v.op = 3 then vecArg s t k v v.c i else Val.zero))

/-- The command's output. -/
def vecOut (s : State) (t : TileId) (k : EngCmd) (v : VecCmd) : VecOut :=
  v.deliverAll (s.keys t ((k.ops[2]).toNat % 2 ^ 32) ((k.ops[2]).toNat / 2 ^ 32)) (vecResults s t k v)

/-- The halves of a register (R53). -/
theorem halves (g : Word) : fld g.toNat 31 0 = g.toNat % 2 ^ 32 ∧ fld g.toNat 63 32 = g.toNat / 2 ^ 32 := by
  have := g.isLt
  simp only [fld, Nat.shiftRight_eq_div_pow]
  omega

/-- At most an element for each result, a scale code for each whole block, and none in a format without scales (R40). -/
theorem deliverAll_sizes (v : VecCmd) (keys : SrKeys) (rs : List (Exact × AFlags)) :
    (v.deliverAll keys rs).es.length ≤ rs.length ∧ (v.deliverAll keys rs).sc.length ≤ rs.length / 32 ∧
      (isBlock v.fd = false → (v.deliverAll keys rs).sc = []) := by
  unfold VecCmd.deliverAll
  dsimp only
  split
  · next hb =>
    refine ⟨?_, by simp only [List.length_map, List.length_range, le_refl], fun h => by rw [hb] at h; cases h⟩
    rw [List.length_flatten, List.map_map, List.map_map]
    refine (List.sum_le_card_nsmul _ 32 (fun x hx => ?_)).trans ?_
    · obtain ⟨j, _, rfl⟩ := List.mem_map.mp hx
      simp only [Function.comp_apply, List.length_map]
      exact (encodeBlock_length_le _ _ _ _ _).trans (List.length_take_le _ _)
    · simp only [List.length_map, List.length_range, smul_eq_mul]
      exact Nat.div_mul_le_self _ _
  · refine ⟨?_, Nat.zero_le _, fun _ => rfl⟩
    simp only [List.length_map, List.length_zipWith, List.length_range, Nat.min_self, le_refl]

theorem vecOut_sizes (s : State) (t : TileId) (k : EngCmd) (v : VecCmd) :
    (vecOut s t k v).es.length ≤ v.n ∧ (vecOut s t k v).sc.length ≤ v.n / 32 ∧ (isBlock v.fd = false → (vecOut s t k v).sc = []) := by
  have len : (vecResults s t k v).length = v.n := by rw [vecResults, List.length_map, List.length_range]
  have sizes := deliverAll_sizes v (s.keys t ((k.ops[2]).toNat % 2 ^ 32) ((k.ops[2]).toNat / 2 ^ 32)) (vecResults s t k v)
  rwa [len] at sizes

/-! ### The write (R104, R105) -/

/-- A command's output stands in memory, and no byte outside its ranges has changed. -/
structure VecWritten (t : TileId) (v : VecCmd) (o : VecOut) (s u : State) : Prop where
  elements : v.dst ≠ noDst → (o.sc = [] ∨ sram t (64 * v.c) + o.sc.length ≤ sram t (64 * v.dst) ∨
    sram t (64 * v.dst) + (packElems (elemFmt v.fd).width o.es).length ≤ sram t (64 * v.c)) →
    u.bytes (sram t (64 * v.dst)) (packElems (elemFmt v.fd).width o.es).length = packElems (elemFmt v.fd).width o.es
  scales : v.dst ≠ noDst → u.bytes (sram t (64 * v.c)) o.sc.length = o.sc.map (BitVec.ofNat 8)
  outside : SameBytesOutside (v.outs.map (fun r => (sram t r.1, r.2.1))) s u

theorem bytes_congr {s u : State} (h : ∀ b, u.byte b = s.byte b) (a n : Nat) : u.bytes a n = s.bytes a n := by
  simp only [State.bytes, h]

theorem vecWritten_congr {t : TileId} {v : VecCmd} {o : VecOut} {s s' u u' : State} (h : VecWritten t v o s u) (hs : ∀ b, s'.byte b = s.byte b)
    (hu : ∀ b, u'.byte b = u.byte b) : VecWritten t v o s' u' := by
  refine ⟨fun hd apart => ?_, fun hd => ?_, fun a ha => ?_⟩
  · rw [bytes_congr hu, h.elements hd apart]
  · rw [bytes_congr hu, h.scales hd]
  · rw [hu, hs, h.outside a ha]

theorem sameBytesOutside_trans {rs : List (Nat × Nat)} {s u v : State} (h : SameBytesOutside rs s u) (k : SameBytesOutside rs u v) :
    SameBytesOutside rs s v := fun a ha => (k a ha).trans (h a ha)

theorem sameBytesOutside_of_mem {rs : List (Nat × Nat)} {r : Nat × Nat} (hr : r ∈ rs) {s u : State} (h : SameBytesOutside [r] s u) :
    SameBytesOutside rs s u := fun a ha => h a (fun _ hx => List.mem_singleton.mp hx ▸ ha r hr)

theorem vecWrite_clean {s : State} {t : TileId} {v : VecCmd} {o : VecOut} (clean : CleanTile s t) (placed : VecPlaced v)
    (elements : o.es.length ≤ v.n) (codes : o.sc.length ≤ v.n / 32) (plain : isBlock v.fd = false → o.sc = []) :
    (s.vecWrite t v o).2 = true ∧ BytesOnly s (s.vecWrite t v o).1 ∧ VecWritten t v o s (s.vecWrite t v o).1 := by
  unfold State.vecWrite
  by_cases hd : v.dst = noDst
  · rw [if_pos hd]
    exact ⟨rfl, bytesOnly_refl s, ⟨fun h => absurd hd h, fun h => absurd hd h, fun _ _ => rfl⟩⟩
  · have outs : v.outs = (64 * v.dst, elemBytes v.fd v.n, (elemFmt v.fd).width) ::
        (if v.op = 13 ∧ isBlock v.fd then [(64 * v.c, v.n / 32, 8)] else []) := if_neg hd
    have first : (sram t (64 * v.dst), elemBytes v.fd v.n) ∈ v.outs.map (fun r => (sram t r.1, r.2.1)) := by
      rw [outs]
      exact List.mem_cons_self
    have len := packElems_length_le v.fd elements
    have fits := placed.out _ (by rw [outs]; exact List.mem_cons_self)
    obtain ⟨ok, only, byte⟩ := writeT0_clean clean (off := 64 * v.dst) (packElems (elemFmt v.fd).width o.es) (by dsimp only at fits; omega)
    have outside := sameBytesOutside_of_mem first (sameBytesOutside_of_poke byte len)
    rw [if_neg hd]
    by_cases none : o.sc = []
    · simp only [none, List.isEmpty_nil, Bool.true_or, if_true]
      exact ⟨ok, only, ⟨fun _ _ => bytes_of_poke_self byte, fun _ => by rw [none]; rfl, outside⟩⟩
    · have hb : isBlock v.fd = true := Bool.eq_true_of_not_eq_false fun h => none (plain h)
      have scales : (64 * v.c, v.n / 32, 8) ∈ v.outs := by
        rw [outs, if_pos ⟨placed.block hb, hb⟩]
        exact List.mem_cons_of_mem _ List.mem_cons_self
      have len' : (o.sc.map (BitVec.ofNat 8)).length = o.sc.length := List.length_map _
      have fits' := placed.out _ scales
      obtain ⟨ok', only', byte'⟩ := writeT0_clean (bytesOnly_clean only clean) (off := 64 * v.c) (o.sc.map (BitVec.ofNat 8))
        (by dsimp only at fits'; omega)
      have second : (sram t (64 * v.c), v.n / 32) ∈ v.outs.map (fun r => (sram t r.1, r.2.1)) := List.mem_map.mpr ⟨_, scales, rfl⟩
      have outside' := sameBytesOutside_of_mem second (sameBytesOutside_of_poke byte' (len'.trans_le codes))
      have two : ¬ (o.sc.isEmpty || !(s.writeT0 (sram t (64 * v.dst)) (packElems (elemFmt v.fd).width o.es)).2) = true := by
        rw [ok, List.isEmpty_eq_false_iff.mpr none]
        decide
      dsimp only
      rw [if_neg two]
      refine ⟨ok', bytesOnly_trans only only', ⟨fun _ apart => ?_, fun _ => len' ▸ bytes_of_poke_self byte', sameBytesOutside_trans outside outside'⟩⟩
      rw [bytes_of_poke_apart byte', bytes_of_poke_self byte]
      rw [len']
      exact (apart.resolve_left none).symm

end Sys2Proof.Proofs
end

section
/-! The reduction unit and the vector commands (R103 to R116, R122). -/
namespace Sys2Proof.Proofs

open Sys2Proof Sys2Proof.Machine Sys2Proof.Laws

/-! ### What a reduction changes of an acceptance -/

section
variable {t : TileId} {e : Fin 6} {k : EngCmd} {rest : List EngCmd} {fin : Bool} {c : Ctx} {s u : State} (h : Accepted t e k rest fin c s u)
include h

/-- A change of the command's context. -/
theorem accepted_updCtx (f : Ctx → Ctx) : Accepted t e k rest fin (f c) s (u.updCtx ⟨t, k.ctx⟩ f) := by
  obtain ⟨hq, ha, hf, hn, hc, hi⟩ := h
  have tile : (u.updCtx ⟨t, k.ctx⟩ f).tile t = (u.tile t).setCtx k.ctx (f (u.ctx ⟨t, k.ctx⟩)) := by
    rw [State.updCtx, tile_setCtx, if_pos rfl]
  refine ⟨?_, ?_, fun g hg => ?_, fun n h => ?_, ?_, fun i h => ?_⟩
  · rw [tile]
    exact hq
  · rw [tile]
    exact ha
  · rw [tile]
    exact hf g hg
  · rw [State.updCtx, tile_setCtx, if_neg h]
    exact hn n h
  · rw [ctx_updCtx_self, hc]
  · rw [ctx_updCtx, if_neg (fun same => h (congrArg Loc.ctx same))]
    exact hi i h

/-- A change of the only command that the engine has accepted, which leaves what it is and whether it runs. -/
theorem accepted_mapAct (idle : (s.tile t).active[e] = []) {f : Active → Active}
    (keeps : ∀ a, (f a).cmd = a.cmd ∧ (f a).stopped = a.stopped ∧ (f a).done = a.done) :
    Accepted t e k rest fin c s (u.updTile t (fun x => x.setAct e ((x.act e).map f))) ∧
      ∃ a ∈ ((u.updTile t (fun x => x.setAct e ((x.act e).map f))).tile t).active[e], a.cmd = k ∧ ∃ b, a = f b := by
  obtain ⟨hq, ⟨a, ha, cmd, stopped, done⟩, hf, hn, hc, hi⟩ := h
  obtain ⟨keepCmd, keepStopped, keepDone⟩ := keeps a
  have one : (u.tile t).act e = [a] := by
    rw [idle] at ha
    exact ha
  have active : ∀ g : Fin 6, ((u.updTile t (fun x => x.setAct e ((x.act e).map f))).tile t).active[g] =
      if g = e then [f a] else (u.tile t).active[g] := by
    intro g
    rw [tile_updTile_self, active_setAct, one, List.map_singleton]
  refine ⟨⟨?_, ⟨f a, ?_, keepCmd.trans cmd, keepStopped.trans stopped, keepDone.trans done⟩, fun g hg => ⟨?_, ?_⟩, fun n h => ?_, ?_, fun i h => ?_⟩,
    f a, ?_, keepCmd.trans cmd, a, rfl⟩
  · rw [tile_updTile_self]
    exact hq
  · rw [active, if_pos rfl, idle, List.nil_append]
  · rw [tile_updTile_self]
    exact (hf g hg).1
  · rw [active, if_neg hg]
    exact (hf g hg).2
  · rw [tile_updTile, if_neg h]
    exact hn n h
  · rwa [ctx_updTile _ _ _ (fun _ => by rfl)]
  · rw [ctx_updTile _ _ _ (fun _ => by rfl)]
    exact hi i h
  · rw [active, if_pos rfl]
    exact List.mem_cons_self

end

/-! ### The reduction (R113, R115, R116) -/

/-- The state after a command's elements, from the context's or a fresh one. -/
def reduced (cfg : RuCfg) (before : RunState) (vs : List Val) : RunState :=
  vs.foldl (fun st y => (st.advance cfg y).1) (if cfg.acc then before else RunState.fresh)

/-- That state, with the clamps and saturations on the way (R115). -/
def tallied (cfg : RuCfg) (before : RunState) (vs : List Val) : RunState × Nat :=
  vs.foldl (fun st x => let y := st.1.advance cfg x; (y.1, st.2 + y.2)) (if cfg.acc then before else RunState.fresh, 0)

theorem foldl_tally_state (cfg : RuCfg) (vs : List Val) : ∀ p : RunState × Nat,
    (vs.foldl (fun st x => let y := st.1.advance cfg x; (y.1, st.2 + y.2)) p).1 = vs.foldl (fun st y => (st.advance cfg y).1) p.1 := by
  induction vs with
  | nil => exact fun _ => rfl
  | cons x r ih => exact fun p => ih _

/-- Counting does not change the state. -/
theorem tallied_state (cfg : RuCfg) (before : RunState) (vs : List Val) : (tallied cfg before vs).1 = reduced cfg before vs :=
  foldl_tally_state cfg vs _

/-- An accepted command with summaries that wait for its completion. -/
def withSums (base : Nat) (sums : List (Word × BitVec 2)) (a : Active) : Active := { a with sbase := base, sums := sums }

theorem reduce_eq (s : State) (l : Loc) (cfg : RuCfg) (vs : List Val) : s.reduce l cfg vs =
    ((s.count (tileReg l.tile 3 0x040) (tallied cfg (s.ctx l).ru vs).2).updCtx l (fun k => { k with ru := reduced cfg (s.ctx l).ru vs })).updTile
      l.tile (fun x => x.setAct 1 ((x.act 1).map (withSums cfg.base ((reduced cfg (s.ctx l).ru vs).summaries cfg)))) := by
  rw [← tallied_state]
  rfl

theorem reduce_byte (s : State) (l : Loc) (cfg : RuCfg) (vs : List Val) (b : Nat) : (s.reduce l cfg vs).byte b = s.byte b := by
  rw [reduce_eq, byte_updTile, byte_updCtx, byte_count]

/-- A reduction counts its clamps in a register of block 3 alone. -/
theorem reduce_reg (s : State) (l : Loc) (cfg : RuCfg) (vs : List Val) {a : Nat} (ha : a ≠ tileReg l.tile 3 0x040) :
    (s.reduce l cfg vs).reg a = s.reg a := by
  rw [reduce_eq, reg_updTile, reg_updCtx, reg_count, if_neg ha]

theorem reduce_accepted {t : TileId} {k : EngCmd} {rest : List EngCmd} {fin : Bool} {c : Ctx} {s u : State}
    (h : Accepted t 1 k rest fin c s u) (idle : (s.tile t).active[(1 : Fin 6)] = []) (cfg : RuCfg) (vs : List Val) :
    Accepted t 1 k rest fin { c with ru := reduced cfg c.ru vs } s (u.reduce ⟨t, k.ctx⟩ cfg vs) ∧
      ∃ a ∈ ((u.reduce ⟨t, k.ctx⟩ cfg vs).tile t).active[(1 : Fin 6)], a.cmd = k ∧ a.sbase = cfg.base ∧
        a.sums = (reduced cfg c.ru vs).summaries cfg := by
  have ⟨_, _, _, _, before, _⟩ := h
  have counted := accepted_of_tiles h (count_tiles u (tileReg t 3 0x040) (tallied cfg c.ru vs).2)
  have moved := accepted_updCtx counted (fun x => { x with ru := reduced cfg c.ru vs })
  obtain ⟨accepted, a, ha, cmd, b, hb⟩ := accepted_mapAct moved idle (f := withSums cfg.base ((reduced cfg c.ru vs).summaries cfg))
    (fun _ => ⟨rfl, rfl, rfl⟩)
  rw [reduce_eq, before]
  exact ⟨accepted, a, ha, cmd, by rw [hb]; exact ⟨rfl, rfl⟩⟩

/-- The reduction of a command's elements, where one is configured. -/
def reduceWith (cfg : Option RuCfg) (l : Loc) (vs : List Val) (s : State) : State :=
  match cfg with
  | some c => s.reduce l c vs
  | none => s

theorem reduceWith_byte (cfg : Option RuCfg) (l : Loc) (vs : List Val) (s : State) (b : Nat) : (reduceWith cfg l vs s).byte b = s.byte b := by
  cases cfg with
  | none => rfl
  | some c => exact reduce_byte ..

theorem reduceWith_reg (cfg : Option RuCfg) (l : Loc) (vs : List Val) (s : State) {a : Nat} (ha : a ≠ tileReg l.tile 3 0x040) :
    (reduceWith cfg l vs s).reg a = s.reg a := by
  cases cfg with
  | none => rfl
  | some c => exact reduce_reg s l c vs ha

/-! ### The command -/

/-- A command that the table of R122 rejects. -/
theorem vecWork_rejected {s : State} {t : TileId} {k : EngCmd} (idle : (s.tile t).active[1] = []) {cause row : Nat}
    (h : s.vecReject t k (VecCmd.ofWord k.word) = some (cause, row)) : State.vecWork t k s = s.rejectCmd t 1 k cause row := by
  unfold State.vecWork
  refine (if_neg (not_busy (e := 1) idle)).trans ?_
  rw [h]

/-- The machine after the elements of a command: its flags are raised, and they are counted (R56, R110). -/
def vecRaised (t : TileId) (l : Loc) (v : VecCmd) (o : VecOut) (s : State) : State := (s.raiseFlags l o.fl).count (tileReg t 2 0x040) v.n

theorem vecOut_accept (s : State) (t : TileId) (e : Fin 6) (a : Active) (k : EngCmd) (v : VecCmd) :
    vecOut (s.accept t e a) t k v = vecOut s t k v := by
  have keys : (s.accept t e a).keys t = s.keys t := by
    funext lane base
    simp only [State.keys, State.accept, State.engProgress, State.popHead, updCtx_job, updTile_job, reg_updCtx, reg_updTile]
  simp only [vecOut, vecResults, vecArg, vecOperand, bytes_accept, keys]

/-- A command that the table lets pass is accepted; on a tile without errors its output is written, and then its flags are raised, its elements
are counted and reduced. -/
theorem vecWork_accepted {s : State} {t : TileId} {k : EngCmd} (idle : (s.tile t).active[1] = []) (clean : CleanTile s t) {v : VecCmd}
    (hv : VecCmd.ofWord k.word = v) (h : s.vecReject t k v = none) :
    ∃ u, BytesOnly (s.accept t 1 (Active.of k v.cycles)) u ∧ VecWritten t v (vecOut s t k v) (s.accept t 1 (Active.of k v.cycles)) u ∧
      State.vecWork t k s = reduceWith (k.ruCfg v) ⟨t, k.ctx⟩ (vecOut s t k v).vs (vecRaised t ⟨t, k.ctx⟩ v (vecOut s t k v) u) := by
  have placed := vecPlaced_of_passed h
  have cleanA := clean_accept clean 1 (Active.of k v.cycles)
  obtain ⟨elements, codes, plain⟩ := vecOut_sizes s t k v
  obtain ⟨ok, only, written⟩ := vecWrite_clean cleanA placed elements codes plain
  refine ⟨_, only, written, ?_⟩
  have wrote : ¬ (!((s.accept t 1 (Active.of k v.cycles)).vecWrite t v (vecOut s t k v)).2) = true := by
    rw [ok]
    decide
  rw [← vecOut_accept s t 1 (Active.of k v.cycles)] at wrote ⊢
  obtain ⟨low, high⟩ := halves k.ops[2]
  subst hv
  unfold State.vecWork
  refine (if_neg (not_busy (e := 1) idle)).trans ?_
  rw [h]
  dsimp only
  rw [vecOperands_clean k cleanA placed]
  simp only [srcs_element, low, high]
  refine (if_neg wrote).trans ?_
  cases k.ruCfg (VecCmd.ofWord k.word) <;> rfl

/-! ### The rows -/

/-- A row of the vector engine: its instruction runs the engine's work on its operation code, whose result is as given (R106, R107). -/
structure VecRow (t : TileId) (x : Instr × Nat × (Rnd → Nat → Val → Val → Val → Exact × AFlags)) : Prop where
  runs : ∃ mine, mine x.2.1 = true ∧ ∀ s, exec x.1 s = .next (s.atHead t 1 mine (State.vecWork t))
  result : ∀ v : VecCmd, v.op = x.2.1 → ∀ a b c, v.result a b c = x.2.2 v.mode v.rnd a b c

/-- What a command that the table lets pass leaves. -/
theorem vecWork_done {s : State} {t : TileId} {k : EngCmd} {rest : List EngCmd} (queue : (s.tile t).queues[(1 : Fin 6)] = k :: rest)
    (idle : (s.tile t).active[1] = []) (clean : CleanTile s t) {v : VecCmd} (hv : VecCmd.ofWord k.word = v) (h : s.vecReject t k v = none) :
    ∃ u, State.vecWork t k s = reduceWith (k.ruCfg v) ⟨t, k.ctx⟩ (vecOut s t k v).vs u ∧
      Accepted t 1 k rest true (progressed 1 (s.ctx ⟨t, k.ctx⟩)) s u ∧ VecWritten t v (vecOut s t k v) s u ∧
      u.reg (rAflag t k.ctx) = s.reg (rAflag t k.ctx) ||| BitVec.ofNat 64 ((vecOut s t k v).fl.foldl AFlags.or .none).bits ∧
      u.reg (tileReg t 2 0x040) = countUp (s.reg (tileReg t 2 0x040)) v.n := by
  obtain ⟨u, only, written, run⟩ := vecWork_accepted idle clean hv h
  have flags := regsOnly_raiseFlags u ⟨t, k.ctx⟩ (vecOut s t k v).fl
  have regs : ∀ a, u.reg a = s.reg a := fun a => by
    rw [bytesOnly_reg only, State.accept, State.engProgress, reg_updCtx, reg_updTile, State.popHead, reg_updTile]
  refine ⟨_, run, accepted_of_tiles (accept_of_accepted queue v.cycles) ?_, vecWritten_congr written ?_ ?_, ?_, ?_⟩
  · rw [vecRaised, count_tiles, regsOnly_tiles flags, bytesOnly_tiles only]
  · exact fun b => (byte_accept ..).symm
  · exact fun b => by rw [vecRaised, byte_count, regsOnly_byte flags]
  · have other : rAflag t k.ctx ≠ tileReg t 2 0x040 := tileReg_ne _ _ (by omega)
    rw [vecRaised, reg_count, if_neg other, reg_raiseFlags_self u ⟨t, k.ctx⟩, regs]
  · rw [vecRaised, reg_count, if_pos rfl, reg_raiseFlags_block u ⟨t, k.ctx⟩ _ (by decide), regs]

/-- Settles O22: the table judges the command; the output of one that it lets pass is written after its reads, and its flags, its count and its
reduction leave memory as written. -/
theorem vectorCommands : Obligations.VectorCommands := by
  intro s t k rest clean idle rows
  have isRow : ∀ x ∈ rows, VecRow t x := by
    simp only [rows, List.mem_cons, List.not_mem_nil, or_false, forall_eq_or_imp, forall_eq]
    and_intros
    all_goals
      refine ⟨⟨_, rfl, fun _ => rfl⟩, fun v h a b c => ?_⟩
      unfold VecCmd.result
      rw [h] <;> rfl
  intro x hx ready v l arg g30 o dst out flags moved
  obtain ⟨⟨mine, hm, instr⟩, result⟩ := isRow x hx
  have run : exec x.1 s = .next (State.vecWork t k s) := (instr s).trans (congrArg Host.Outcome.next (atHead_run ready hm _))
  obtain ⟨queue, hop, _⟩ := ready
  refine ⟨fun h => ⟨_, run, ?_⟩, fun c d h => ⟨_, run, ?_⟩⟩
  · have same : o = vecOut s t k v := congrArg (v.deliverAll _) (List.map_congr_left fun i _ => (result v hop _ _ _).symm)
    obtain ⟨u, done, accepted, written, aflag, count⟩ := vecWork_done queue idle clean (v := v) rfl h
    rw [← same] at done written aflag
    rw [done]
    have final : VecWritten t v o s (reduceWith (k.ruCfg v) ⟨t, k.ctx⟩ o.vs u) := vecWritten_congr written (fun _ => rfl) (reduceWith_byte _ _ _ _)
    refine ⟨?_, final.elements, final.scales, final.outside, ?_, ?_⟩
    · cases k.ruCfg v with
      | none => exact ⟨moved, accepted, rfl⟩
      | some cfg =>
        obtain ⟨reduced, a, ha, cmd, base, sums⟩ := reduce_accepted accepted idle cfg o.vs
        exact ⟨_, reduced, rfl, a, ha, cmd, base, sums⟩
    · have other : rAflag t k.ctx ≠ tileReg t 3 0x040 := tileReg_ne _ _ (by omega)
      rw [reduceWith_reg _ ⟨t, k.ctx⟩ _ _ other, aflag]
    · rw [reduceWith_reg _ ⟨t, k.ctx⟩ _ _ (tileReg_ne _ _ (by omega)), count]
  · obtain ⟨cause, small⟩ := vecReject_cause h
    rw [vecWork_rejected idle h]
    exact rejectCmd_rejected queue cause small

end Sys2Proof.Proofs
end

section
/-! The issue slot of a scalar instruction (R127, R128) and the functions that the tables of R129 and R134 name. -/
namespace Sys2Proof.Proofs

open Sys2Proof Sys2Proof.Machine Sys2Proof.Laws

/-! ### The issue slot (R127, R128) -/

section
variable {i : Instr} {s : State} {l : Loc} {g : Guard} {legal : Bool}

/-- An instruction whose only effect is on its own context, its guard holding. -/
theorem completes_slotCtx {f : Ctx → Ctx} {c : Ctx} (run : exec i s = .next (s.slotCtx l g legal f)) (hl : legal = true)
    (hc : s.canIssue l = true) (hg : (s.ctx l).passes g = true) (result : f (s.ctx l) = c) : Completes i s (Turn l c.next s) := by
  subst hl result
  exact ⟨_, run, slotCtx_acts s l g f hc hg⟩

/-- An instruction in its slot whose guard holds acts after the turn's count. -/
theorem completes_slot {act : State → State} {P : State → Prop} (run : exec i s = .next (s.slot l g legal act)) (hl : legal = true)
    (hc : s.canIssue l = true) (hg : (s.ctx l).passes g = true) (done : P (act (s.issued l))) : Completes i s P := by
  subst hl
  exact ⟨_, run, by rwa [slot_acts s l g act hc hg]⟩

/-- The slot of an instruction whose only effect is on its own context. -/
theorem slotCtx_eq (s : State) (l : Loc) (g : Guard) (legal : Bool) (f : Ctx → Ctx) :
    s.slotCtx l g legal f = s.slotRaw l g legal (fun s => ((s.issued l).updCtx l f).advance l) := by
  rw [State.slotCtx, State.slot]

/-- An illegal instruction faults whatever its guard. -/
theorem slotRaw_illegal {act : State → State} (hl : legal = false) (hc : s.canIssue l = true) : InsnFaulted l 1 s (s.slotRaw l g legal act) := by
  have slot : s.slotRaw l g legal act = (s.issued l).insnFault l 1 := by simp [State.slotRaw, hc, hl]
  rw [slot]
  exact insnFault_insnFaulted s l 1 (by decide)

/-- An instruction whose guard is false takes the slot. -/
theorem slotRaw_skipped {act : State → State} (hl : legal = true) (hc : s.canIssue l = true) (hg : (s.ctx l).passes g = false) :
    Turn l (s.ctx l).next s (s.slotRaw l g legal act) := by
  have slot : s.slotRaw l g legal act = (s.issued l).setCtx l (s.ctx l).next := by
    simp [State.slotRaw, hc, hl, hg, State.advance, State.updCtx]
  rw [slot]
  exact turn_issued s l _

theorem completes_illegal {f : Ctx → Ctx} (run : exec i s = .next (s.slotCtx l g legal f)) (hl : legal = false) (hc : s.canIssue l = true) :
    Completes i s (InsnFaulted l 1 s) :=
  ⟨_, run, by rw [slotCtx_eq]; exact slotRaw_illegal hl hc⟩

end

/-! ### Registers and predicates (R124) -/

/-- A bit of a predicate register after a write of one. -/
theorem rp_wp (c : Ctx) (n k : BitVec 3) (b : Bool) : (c.wp n b).rp k = if k = n ∧ n ≠ 0 then b else c.rp k := by
  by_cases hn : n = 0
  · rw [hn, if_neg (fun h => h.2 rfl)]
    rfl
  · by_cases hk : k = 0
    · rw [hk, if_neg (fun h => hn h.1.symm)]
      rfl
    · have bit : (1#8 <<< n.toNat).getLsbD k.toNat = decide (k = n) := by
        have same : k = n ↔ k.toNat - n.toNat = 0 ∧ ¬ k.toNat < n.toNat := by
          rw [← BitVec.toNat_inj]
          omega
        rw [BitVec.getLsbD_shiftLeft, BitVec.getLsbD_one, decide_eq_true (by omega : k.toNat < 8)]
        simp only [same, Bool.decide_and, decide_not, Bool.true_and, Nat.zero_lt_succ, decide_true]
        exact Bool.and_comm _ _
      rw [if_congr (and_iff_left hn) rfl rfl]
      simp only [Ctx.wp, Ctx.rp, if_neg hn, if_neg hk]
      cases b
      · rw [if_neg Bool.false_ne_true, BitVec.getLsbD_and, BitVec.getLsbD_not, bit, decide_eq_true (by omega : k.toNat < 8)]
        by_cases h : k = n <;> simp [h]
      · rw [if_pos rfl, BitVec.getLsbD_or, bit]
        by_cases h : k = n <;> simp [h]

/-- Settles O3: each register and predicate after a write. -/
theorem registerWritesOfAContext : Obligations.RegisterWritesOfAContext := by
  intro c v b
  refine ⟨rg_zero c, wg_zero c v, rfl, rfl, fun n k hn => ?_, fun n k hn => ?_, fun n => ?_, fun n => ?_⟩
  · rw [rg_wg, if_congr (and_iff_left hn) rfl rfl]
  · rw [rp_wp, if_congr (and_iff_left hn) rfl rfl]
  · unfold Ctx.wg
    split
    · exact ⟨c.g, rfl⟩
    · exact ⟨_, rfl⟩
  · unfold Ctx.wp
    split
    · exact ⟨c.p, rfl⟩
    · exact ⟨_, rfl⟩

/-! ### The ALU group (R129) -/

/-- The codes of the table. -/
theorem aluFn_isSome (fn : BitVec 7) (a b : Word) : (aluFn fn a b).isSome = decide (fn.toNat ≤ 0x10) := by
  unfold aluFn
  dsimp only
  split <;> simp_all
  omega

/-- The high half of an unsigned product. -/
theorem mulHigh_eq (a b : Word) : BitVec.ofNat 64 (a.toNat * b.toNat / 2 ^ 64) = (a.zeroExtend 128 * b.zeroExtend 128).extractLsb' 64 64 := by
  apply BitVec.eq_of_toNat_eq
  have := Nat.mul_lt_mul'' a.isLt b.isLt
  simp only [BitVec.truncate_eq_setWidth, BitVec.toNat_ofNat, BitVec.extractLsb'_toNat, BitVec.toNat_mul, BitVec.toNat_setWidth, Nat.shiftRight_eq_div_pow]
  rw [Nat.mod_eq_of_lt (by have := a.isLt; omega : a.toNat < 2 ^ 128), Nat.mod_eq_of_lt (by have := b.isLt; omega : b.toNat < 2 ^ 128),
    Nat.mod_eq_of_lt (by omega : a.toNat * b.toNat < 2 ^ 128)]

/-- The high half of a signed product. -/
theorem mulHighSigned_eq (a b : Word) :
    BitVec.ofInt 64 (a.toInt * b.toInt / 2 ^ 64) = (a.signExtend 128 * b.signExtend 128).extractLsb' 64 64 := by
  have wide : ∀ x : Word, x.signExtend 128 = BitVec.ofInt 128 x.toInt := fun _ => rfl
  apply BitVec.eq_of_toNat_eq
  rw [wide, wide, ← BitVec.ofInt_mul, BitVec.extractLsb'_toNat, BitVec.toNat_ofInt, BitVec.toNat_ofInt, Nat.shiftRight_eq_div_pow]
  generalize a.toInt * b.toInt = p
  omega

/-- The population count of the low bits. -/
theorem popGo_eq (a : Word) (k : Nat) : popGo a.toNat k = ((List.range k).filter (fun i => a.getLsbD i)).length := by
  induction k with
  | zero => rfl
  | succ k ih =>
    have bit : bitOf a.toNat k = a.getLsbD k := by
      rw [bitOf, BitVec.getLsbD, Nat.testBit_eq_decide_div_mod_eq, Nat.shiftRight_eq_div_pow]
    rw [popGo, ih, List.range_succ, List.filter_append, List.length_append, bit, Nat.add_comm, List.filter_singleton]
    cases a.getLsbD k <;> rfl

/-- The leading zeros of a number between two powers of two. -/
theorem leadingZeros_eq {a : Word} {z : Nat} (h : z < 64) (lo : 2 ^ (63 - z) ≤ a.toNat) (hi : a.toNat < 2 ^ (64 - z)) :
    63 - a.toNat.log2 = z := by
  have pos := Nat.two_pow_pos (63 - z)
  have : a.toNat.log2 = 63 - z := (Nat.log2_eq_iff (by omega)).mpr ⟨lo, by rwa [show 63 - z + 1 = 64 - z by omega]⟩
  omega

end Sys2Proof.Proofs
end

section
/-! What the scalar instructions that change their own context only leave of it (R128 to R134, R141). -/
namespace Sys2Proof.Proofs

open Sys2Proof Sys2Proof.Machine Sys2Proof.Laws

/-- Two choices between the same values agree where the values differ. -/
theorem ite_eq_ite_of_ne {α : Type} {p q : Prop} [Decidable p] [Decidable q] {x y : α} (h : x ≠ y → (p ↔ q)) :
    (if p then x else y) = if q then x else y := by
  by_cases e : x = y
  · rw [e, ite_self, ite_self]
  · exact if_congr (h e) rfl rfl

theorem ult_of_ne {a b : Word} (h : a ≠ b) : a.toNat ≤ b.toNat ↔ a.ult b = true := by
  have : a.toNat ≠ b.toNat := fun e => h (BitVec.eq_of_toNat_eq e)
  rw [BitVec.ult, decide_eq_true_eq]
  omega

theorem slt_of_ne {a b : Word} (h : a ≠ b) : a.toInt ≤ b.toInt ↔ a.slt b = true := by
  have : a.toInt ≠ b.toInt := fun e => h (BitVec.eq_of_toInt_eq e)
  rw [BitVec.slt, decide_eq_true_eq]
  omega

/-- Settles O4: the table of R129 row by row, the leading zeros and the codes that are none. -/
theorem aluGroupResults : Obligations.AluGroupResults := by
  intro s l g rd ra rb hc hg a b n writes
  have acts : ∀ fn v, aluFn fn a b = some v → writes fn v := fun fn v h =>
    completes_slotCtx rfl (((aluFn_isSome fn 0 0).trans (aluFn_isSome fn a b).symm).trans (congrArg Option.isSome h)) hc hg
      (congrArg (fun o : Option Word => (s.ctx l).wg rd (o.getD 0)) h)
  refine ⟨?_, fun z hz => acts _ _ ?_, fun fn h => completes_illegal rfl ?_ hc⟩
  · simp only [List.mem_cons, List.not_mem_nil, or_false, forall_eq_or_imp, forall_eq]
    exact ⟨acts _ _ rfl, acts _ _ rfl, acts _ _ rfl, acts _ _ rfl, acts _ _ rfl, acts _ _ rfl, acts _ _ rfl, acts _ _ rfl, acts _ _ rfl,
      acts _ _ (congrArg some (mulHigh_eq a b)), acts _ _ (congrArg some (mulHighSigned_eq a b)),
      acts _ _ (congrArg some (ite_eq_ite_of_ne ult_of_ne)), acts _ _ (congrArg some (ite_eq_ite_of_ne fun h => ult_of_ne h.symm)),
      acts _ _ (congrArg some (ite_eq_ite_of_ne slt_of_ne)), acts _ _ (congrArg some (ite_eq_ite_of_ne fun h => slt_of_ne h.symm)),
      acts _ _ (congrArg (fun k => some (BitVec.ofNat 64 k)) (popGo_eq a 64))⟩
  · refine congrArg (fun k => some (BitVec.ofNat 64 k)) ?_
    rcases hz with ⟨h0, rfl⟩ | ⟨hz, lo, hi⟩
    · exact if_pos h0
    · refine (if_neg fun h0 => ?_).trans (leadingZeros_eq hz lo hi)
      rw [h0] at lo
      exact absurd lo (Nat.not_le.mpr (Nat.two_pow_pos _))
  · rw [aluFn_isSome]
    exact decide_eq_false (by omega)

/-! ### The immediate forms (R128) -/

/-- IMM12 of `shi` with [11:8] zero: the operation and the amount. -/
theorem toNat_shi (k n : BitVec 6) : (k ++ n).toNat = 64 * k.toNat + n.toNat := by
  rw [BitVec.toNat_append, ← Nat.shiftLeft_add_eq_or_of_lt n.isLt, Nat.shiftLeft_eq]
  omega

theorem shi_legal {k n : BitVec 6} (h : k.toNat < 3) : decide (fld (k ++ n).toNat 11 8 = 0 ∧ fld (k ++ n).toNat 7 6 ≠ 3) = true := by
  have := n.isLt
  rw [toNat_shi, decide_eq_true_eq]
  simp only [fld, Nat.shiftRight_eq_div_pow]
  omega

theorem shiResult_append {k n : BitVec 6} (h : k.toNat < 3) (a : Word) :
    shiResult (k ++ n) a = if k = 0 then a <<< n.toNat else if k = 1 then a >>> n.toNat else a.sshiftRight n.toNat := by
  have amount : (k ++ n).toNat % 64 = n.toNat := by
    rw [toNat_shi]
    omega
  have op : fld (k ++ n).toNat 7 6 = k.toNat := by
    rw [toNat_shi]
    simp only [fld, Nat.shiftRight_eq_div_pow]
    omega
  unfold shiResult
  rw [amount, op]
  simp only [← BitVec.toNat_inj]
  have cases3 : k.toNat = 0 ∨ k.toNat = 1 ∨ k.toNat = 2 := by omega
  rcases cases3 with e | e | e <;> simp [e]

/-- The bits that `movw` leaves. -/
theorem movwResult_eq (q : BitVec 2) (z : Bool) (imm : BitVec 16) {old v : Word}
    (h : ∀ i < 64, v.getLsbD i = if 16 * q.toNat ≤ i ∧ i < 16 * q.toNat + 16 then imm.getLsbD (i - 16 * q.toNat) else !z && old.getLsbD i) :
    movwResult q z imm old = v := by
  refine BitVec.eq_of_getLsbD_eq fun i hi => ?_
  have mask : ∀ j, (0xFFFF : Word).getLsbD j = decide (j < 16) := fun j => by
    have e : (0xFFFF : Word) = (BitVec.allOnes 16).setWidth 64 := by decide
    rw [e, BitVec.getLsbD_setWidth, BitVec.getLsbD_allOnes]
    by_cases hj : j < 16 <;> simp [hj]
    omega
  have width := imm.getLsbD_of_ge (i - 16 * q.toNat)
  have bits : (movwResult q z imm old).getLsbD i =
      ((!z && old.getLsbD i && !(!decide (i < 16 * q.toNat) && decide (i - 16 * q.toNat < 16))) ||
        (!decide (i < 16 * q.toNat) && imm.getLsbD (i - 16 * q.toNat))) := by
    unfold movwResult
    rw [BitVec.getLsbD_or, BitVec.getLsbD_shiftLeft, BitVec.zeroExtend, BitVec.getLsbD_setWidth, decide_eq_true hi,
      decide_eq_true (by omega : i - 16 * q.toNat < 64), Bool.true_and, Bool.true_and]
    cases z
    · rw [if_neg Bool.false_ne_true, BitVec.getLsbD_and, BitVec.getLsbD_not, BitVec.getLsbD_shiftLeft, mask, decide_eq_true hi, Bool.true_and,
        Bool.true_and, Bool.not_false, Bool.true_and]
    · rw [if_pos rfl, show (0 : Word) = 0#64 from rfl, BitVec.getLsbD_zero, Bool.not_true, Bool.false_and, Bool.false_and]
  rw [bits, h i hi]
  by_cases lo : i < 16 * q.toNat
  · simp [lo, Nat.not_le.mpr lo]
  · by_cases up : i - 16 * q.toNat < 16
    · simp [lo, up, Nat.not_lt.mp lo, show i < 16 * q.toNat + 16 by omega]
    · simp [lo, up, width (by omega), show ¬ i < 16 * q.toNat + 16 by omega]

/-- Settles O5: each immediate form writes its result. -/
theorem immediateResults : Obligations.ImmediateResults := by
  intro s l g rd ra hc hg a writes
  have shifts : ∀ k n : BitVec 6, k.toNat < 3 → ∀ v, shiResult (k ++ n) a = v → writes (.shi l g rd ra (k ++ n)) v := fun k n hk v h =>
    completes_slotCtx rfl (shi_legal hk) hc hg (congrArg ((s.ctx l).wg rd) h)
  refine ⟨fun imm => ⟨?_, ?_, ?_, ?_⟩, fun n => ⟨?_, ?_, ?_⟩, fun q z imm v h => ?_⟩
  · exact completes_slotCtx rfl rfl hc hg rfl
  · exact completes_slotCtx rfl rfl hc hg rfl
  · exact completes_slotCtx rfl rfl hc hg rfl
  · exact completes_slotCtx rfl rfl hc hg rfl
  · exact shifts 0 n (by decide) _ (shiResult_append (by decide) a)
  · exact shifts 1 n (by decide) _ (shiResult_append (by decide) a)
  · exact shifts 2 n (by decide) _ (shiResult_append (by decide) a)
  · exact completes_slotCtx rfl rfl hc hg (congrArg ((s.ctx l).wg rd) (movwResult_eq q z imm h))

/-! ### The tests (R134) -/

theorem sIdx_ofNat (n : Fin 16) : sIdx (BitVec.ofNat 5 n.val) = n := by
  refine Fin.ext ?_
  have := n.isLt
  simp only [sIdx, BitVec.toNat_ofNat]
  omega

theorem toNat_ofNat_summary (n : Fin 16) : (BitVec.ofNat 5 n.val).toNat < 16 := by
  have := n.isLt
  rw [BitVec.toNat_ofNat]
  omega

theorem pIdx_zeroExtend (x : BitVec 3) : pIdx (x.zeroExtend 5) = x := by
  simp [pIdx]

/-- A comparison of KIND U or S is legal for the first six conditions (R134). -/
theorem condLegal_integer (float : Bool) {kind : BitVec 2} (h : kind.toNat ≤ 1) (cond : BitVec 3) :
    condLegal float kind.toNat cond.toNat = decide (cond.toNat ≤ 5) := by
  have two : kind.toNat = 0 ∨ kind.toNat = 1 := by omega
  rcases two with e | e <;> rw [e] <;> rfl

/-- Conditions 6 and 7 are codes of KIND F alone (R134). -/
theorem condLegal_beyond (float : Bool) {kind cond : Nat} (hk : kind ≠ 2) (h : 5 < cond) : condLegal float kind cond = false := by
  unfold condLegal
  split
  · exact decide_eq_false (by omega)
  · exact decide_eq_false (by omega)
  · exact absurd rfl hk
  · rfl

/-- Under KIND F a NaN makes every condition false but ≠ and unordered (R134). -/
theorem condVal_nan {a b : Val} (h : a.isNan = true ∨ b.isNan = true) (cond : BitVec 3) :
    condVal cond.toNat a b = decide (cond = 1 ∨ cond = 6) := by
  have un : (a.isNan || b.isNan) = true := by rcases h with h | h <;> simp [h]
  simp only [condVal, un]
  split <;> simp_all [← BitVec.toNat_inj]

/-- Settles O6: each test writes its condition, and the codes that it does not take are illegal. -/
theorem testResults : Obligations.TestResults := by
  intro s l g pd ra rb hc hg c a b sets table
  have integer : ∀ x y, ∀ e ∈ table x y, e.2.1.toNat ≤ 1 ∧ e.1.toNat ≤ 5 ∧ condHolds e.2.1.toNat e.1.toNat x y = e.2.2 := by
    intro x y
    simp only [table, List.mem_cons, List.not_mem_nil, or_false, forall_eq_or_imp, forall_eq]
    simp [condHolds, BitVec.ult, BitVec.ule, BitVec.slt, BitVec.sle, BitVec.toNat_inj, BitVec.toInt_inj]
  have summary : ∀ (n : Fin 16) (cond : BitVec 3) (kind : BitVec 2) (v : Bool), condLegal true kind.toNat cond.toNat = true →
      condHolds kind.toNat cond.toNat c.s[n] b = v → sets (.stest l g pd (BitVec.ofNat 5 n.val) rb cond kind 0) v := fun n cond kind v legal h =>
    completes_slotCtx rfl (by rw [legal, decide_eq_true (toNat_ofNat_summary n)]; rfl) hc hg
      (congrArg (c.wp pd) ((congrArg (fun k : Fin 16 => condHolds kind.toNat cond.toNat c.s[k] b) (sIdx_ofNat n)).trans h))
  refine ⟨fun e he => ?_, fun n e he => ?_, fun n cond h => ?_, fun n ha hb => ?_, fun x y => ?_, ?_, fun cond kind h => ?_, fun n cond kind h => ?_⟩
  · obtain ⟨kind, cond, holds⟩ := integer a b e he
    exact completes_slotCtx rfl (by simp [condLegal_integer false kind, cond]) hc hg (congrArg (c.wp pd) holds)
  · obtain ⟨kind, cond, holds⟩ := integer c.s[n] b e he
    exact summary n e.1 e.2.1 e.2.2 (by rw [condLegal_integer true kind, decide_eq_true cond]) holds
  · exact summary n cond 2 _ rfl (condVal_nan h cond)
  · simp only [List.mem_cons, List.not_mem_nil, or_false, forall_eq_or_imp, forall_eq]
    have float : ∀ (cond : BitVec 3) (v : Bool), condVal cond.toNat (decodeFmt .fp64 c.s[n].toNat) (decodeFmt .fp64 b.toNat) = v →
        sets (.stest l g pd (BitVec.ofNat 5 n.val) rb cond 2 0) v := fun cond v h => summary n cond 2 v rfl h
    generalize decodeFmt .fp64 c.s[n].toNat = x at ha float ⊢
    generalize decodeFmt .fp64 b.toNat = y at hb float ⊢
    refine ⟨float _ _ ?_, float _ _ ?_, float _ _ ?_, float _ _ ?_, float _ _ ?_, float _ _ ?_, float _ _ ?_, float _ _ ?_⟩
    all_goals simp [condVal, ha, hb]
  · have logic : ∀ (op : BitVec 3) (v : Bool), plogFn (op.toNat % 4) (c.rp x) (c.rp y) = v →
        sets (.plog l g pd (x.zeroExtend 5) (y.zeroExtend 5) op 0 0) v := fun op v h =>
      completes_slotCtx rfl rfl hc hg
        (show c.wp pd (plogFn (op.toNat % 4) (c.rp (pIdx (x.zeroExtend 5))) (c.rp (pIdx (y.zeroExtend 5)))) = _ by
          rw [pIdx_zeroExtend, pIdx_zeroExtend, h])
    simp only [List.mem_cons, List.not_mem_nil, or_false, forall_eq_or_imp, forall_eq]
    exact ⟨logic _ _ rfl, logic _ _ rfl, logic _ _ rfl, logic _ _ rfl⟩
  · exact completes_slotCtx rfl rfl hc hg rfl
  · refine completes_illegal rfl ?_ hc
    by_cases float : kind = 2
    · rw [float]
      rfl
    · have none : condLegal false kind.toNat cond.toNat = false := by
        rcases h with h | rfl | h
        · exact absurd h float
        · rfl
        · exact condLegal_beyond false (fun e => float (BitVec.eq_of_toNat_eq e)) h
      rw [none, Bool.false_and]
  · refine completes_illegal rfl ?_ hc
    have none : condLegal true kind.toNat cond.toNat = false := by
      rcases h with rfl | ⟨float, h⟩
      · rfl
      · exact condLegal_beyond true (fun e => float (BitVec.eq_of_toNat_eq e)) h
    rw [none, Bool.false_and, Bool.false_and]

/-! ### Branches (R128) -/

theorem pcOf_of_toNat {a : Word} {p : BitVec 24} (h : a.toNat = p.toNat) : pcOf a = p := by
  have := p.isLt
  rw [pcOf, if_pos (by omega), h, BitVec.ofNat_toNat, BitVec.setWidth_eq]

/-- The target of a branch within 24 bits. -/
theorem branch_eq {c : Ctx} {off : BitVec 22} {p : BitVec 24} (h : (c.pc.toNat : Int) + 4 * off.toInt = p.toNat) : c.branch off = { c with pc := p } := by
  have target : pcOf (c.pc.zeroExtend 64 + 4 * off.signExtend 64) = p := by
    have := c.pc.isLt
    have := p.isLt
    have e : c.pc.zeroExtend 64 + 4 * off.signExtend 64 = BitVec.ofInt 64 (p.toNat : Int) := by
      rw [← h, BitVec.ofInt_add, BitVec.ofInt_mul, BitVec.signExtend, BitVec.ofInt_natCast, BitVec.ofNat_toNat]
      rfl
    exact pcOf_of_toNat (by rw [e]; simp; omega)
  rw [Ctx.branch, target]

theorem pc_wg (c : Ctx) (n : BitVec 5) (v : Word) (p : BitVec 24) : { c.wg n v with pc := p } = ({ c with pc := p } : Ctx).wg n v := by
  unfold Ctx.wg
  split <;> rfl

/-- Settles O7: the targets within 24 bits, the links, and the misaligned target. -/
theorem branchResults : Obligations.BranchResults := by
  intro s l g hc hg c link
  have pcTurn : ∀ (i : Instr) (f : Ctx → Ctx) (d : Ctx), exec i s = .next (s.slot l g true (fun s => s.updCtx l f)) → f c = d →
      Completes i s (Turn l d s) := fun i f d run h =>
    completes_slot run rfl hc hg (by rw [State.updCtx, ctx_issued, h]; exact turn_issued s l d)
  refine ⟨fun off p h => ⟨?_, ?_⟩, fun rd ra imm p h aligned => ?_, fun rd ra imm h => ?_⟩
  · exact pcTurn _ _ _ rfl (branch_eq h)
  · exact pcTurn _ _ _ rfl (congrArg (fun d : Ctx => d.wg 27 link) (branch_eq h))
  · have target : (c.rg ra + 4 * sext12 imm) = p.zeroExtend 64 := h
    refine completes_slot rfl rfl hc hg ?_
    have jump : State.jump l rd ra imm (s.issued l) = (s.issued l).setCtx l (({ c with pc := p } : Ctx).wg rd link) := by
      have small : (p.zeroExtend 64).toNat = p.toNat := BitVec.toNat_setWidth_of_le (by decide)
      rw [State.jump, ctx_issued, target, if_neg (by rw [small]; omega), pcOf_of_toNat small]
      exact congrArg _ (pc_wg c rd link p)
    rw [jump]
    exact turn_issued s l _
  · refine completes_slot rfl rfl hc hg ?_
    have jump : State.jump l rd ra imm (s.issued l) = (s.issued l).insnFault l 2 := by
      rw [State.jump, ctx_issued]
      exact if_pos h
    rw [jump]
    exact insnFault_insnFaulted s l 2 (by decide)

/-! ### Summary registers and token counters (R116, R124, R141) -/

/-- Settles O8: the moves between general registers, summary registers and token counters. -/
theorem summaryAndTokenMoves : Obligations.SummaryAndTokenMoves := by
  intro s l g rd ra hc hg c does
  refine ⟨fun n => ⟨?_, ?_⟩, ?_, fun inc => ?_⟩
  · exact completes_slotCtx rfl rfl hc hg (congrArg (fun k => c.wg rd c.s[k]) (sIdx_ofNat n))
  · exact completes_slotCtx rfl rfl hc hg (congrArg (fun k : Fin 16 => c.ws k (c.rg ra) 3) (sIdx_ofNat n))
  · exact completes_slotCtx rfl rfl hc hg rfl
  · exact completes_slotCtx rfl rfl hc hg rfl

end Sys2Proof.Proofs
end

section
/-! Scalar loads and stores (R131, R165), and what every scalar instruction does in its slot (R127, R128). -/
namespace Sys2Proof.Proofs

open Sys2Proof Sys2Proof.Machine Sys2Proof.Laws

/-! ### What the count of a turn leaves -/

theorem byte_issued (s : State) (l : Loc) (a : Nat) : (s.issued l).byte a = s.byte a := by
  rw [issued_eq, byte_updTile, byte_count]

theorem bytes_issued (s : State) (l : Loc) (a n : Nat) : (s.issued l).bytes a n = s.bytes a n := bytes_congr (byte_issued s l) a n

theorem sramOk_issued (s : State) (l : Loc) (t a n : Nat) : (s.issued l).sramOk t a n = s.sramOk t a n := by
  obtain ⟨r, x, h⟩ := regsTiles_issued s l
  rw [h]
  rfl

theorem upset_issued (s : State) (l : Loc) : (s.issued l).upset = s.upset := by
  obtain ⟨r, x, h⟩ := regsTiles_issued s l
  rw [h]

theorem poison_issued (s : State) (l : Loc) : (s.issued l).poison = s.poison := by
  obtain ⟨r, x, h⟩ := regsTiles_issued s l
  rw [h]

theorem cleanT0_issued {s : State} {a n : Nat} (h : CleanT0 s a n) (l : Loc) : CleanT0 (s.issued l) a n := by
  unfold CleanT0
  rwa [upset_issued, poison_issued]

theorem contextHeld_of_issued {s t : State} {l : Loc} (h : ContextHeld l (s.issued l) t) : ContextHeld l s t := by
  obtain ⟨mode, wait, pc, g, others, reg⟩ := h
  rw [ctx_issued] at pc g
  rw [reg_issued_ne s l (rCflt_ne_rCntInsn l)] at reg
  exact ⟨mode, wait, pc, g, fun k hk => (others k hk).trans (ctx_issued s l k), reg⟩

/-! ### Loads (R131) -/

section
variable {s : State} {l : Loc} {n : Nat} {rd ra : BitVec 5} {imm : BitVec 12}

theorem accessFault_aligned {t a : Nat} (aligned : a % n = 0) (fits : s.sramOk t a n = true) : s.accessFault t a n = none := by
  rw [State.accessFault, if_neg (not_not.mpr aligned), if_pos fits]

theorem accessFault_misaligned {t a : Nat} (h : a % n ≠ 0) : s.accessFault t a n = some 2 := if_pos h

theorem accessFault_beyond {t a : Nat} (aligned : a % n = 0) (h : sramSize < a + n) : s.accessFault t a n = some 3 := by
  rw [State.accessFault, if_neg (not_not.mpr aligned), if_neg (by rw [sramOk_of_beyond h]; decide)]

/-- A load of bytes without an error. -/
theorem load_clean (ok : s.accessFault l.tile ((s.ctx l).addrOf ra imm) n = none)
    (clean : CleanT0 s (sram l.tile ((s.ctx l).addrOf ra imm)) n) : State.load l n rd ra imm s =
      s.setCtx l ((s.ctx l).wg rd (BitVec.ofNat 64 (leVal (s.bytes (sram l.tile ((s.ctx l).addrOf ra imm)) n)))).next := by
  rw [State.load, ok, readT0_clean s _ _ clean]
  dsimp only
  rw [State.advance, State.updCtx, State.updCtx, ctx_setCtx_self, setCtx_setCtx]

theorem load_fault {cause : Nat} (h : s.accessFault l.tile ((s.ctx l).addrOf ra imm) n = some cause) :
    State.load l n rd ra imm s = s.insnFault l cause := by
  rw [State.load, h]

/-- A load of a poisoned word. -/
theorem load_poisoned (hn : n ≠ 0) (ok : s.accessFault l.tile ((s.ctx l).addrOf ra imm) n = none)
    (h : s.poison.get (fun _ => false) (poisonKey (sram l.tile ((s.ctx l).addrOf ra imm) / 8 * 8)) = true) :
    State.load l n rd ra imm s = (s.eccNote (sram l.tile ((s.ctx l).addrOf ra imm) / 8 * 8) true).ctxMemError l 1 := by
  rw [State.load, ok, readT0_poisoned s _ _ hn h]

/-- The fault of a load or store, from the state in which the instruction found the access. -/
theorem accessFault_issued (s : State) (l : Loc) (t a n : Nat) : (s.issued l).accessFault t a n = s.accessFault t a n := by
  rw [State.accessFault, sramOk_issued, State.accessFault]

end

/-- Settles O9: the alignment, the range and the check bits of a load decide what it is. -/
theorem scalarLoads : Obligations.ScalarLoads := by
  intro s l g sz rd ra imm hc hg n off a i
  have addr : ((s.issued l).ctx l).addrOf ra imm = off := by
    rw [ctx_issued]
    rfl
  have faults : ∀ cause, cause < 5 → s.accessFault l.tile off n = some cause → Completes i s (InsnFaulted l cause s) := fun cause small h =>
    completes_slot rfl rfl hc hg (by
      rw [load_fault (by rw [addr, accessFault_issued]; exact h)]
      exact insnFault_insnFaulted s l cause small)
  refine ⟨fun aligned fits outside => ?_, fun h => faults 2 (by decide) (accessFault_misaligned h),
    fun aligned h => faults 3 (by decide) (accessFault_beyond aligned h)⟩
  have ok : (s.issued l).accessFault l.tile (((s.issued l).ctx l).addrOf ra imm) n = none := by
    rw [addr, accessFault_issued]
    exact accessFault_aligned aligned (sramOk_of_fits fits outside)
  refine ⟨fun clean => completes_slot rfl rfl hc hg ?_, fun poisoned => completes_slot rfl rfl hc hg ?_⟩
  · rw [load_clean ok (by rw [addr]; exact cleanT0_issued clean l), addr, ctx_issued, bytes_issued]
    exact turn_issued s l _
  · have pos : n ≠ 0 := (Nat.two_pow_pos _).ne'
    rw [load_poisoned pos ok (by rw [addr, poison_issued]; exact poisoned), addr]
    exact contextHeld_of_issued (ctxMemError_contextHeld (s.issued l) l _ 1 (sram_word_tile (lt_of_lt_of_le (Nat.lt_add_of_pos_right (Nat.pos_of_ne_zero pos)) fits)))

/-! ### Writes whose partial words have no error (R165) -/

/-- A word of a write is without an error, or the write covers it whole. -/
def Storable (s : State) (a n w : Nat) : Prop :=
  (s.upset.get (fun _ => 0) w = 0 ∧ s.poison.get (fun _ => false) (poisonKey w) = false) ∨ (a ≤ w ∧ w + 8 ≤ a + n)

theorem storable_of_bytesOnly {s u : State} (h : BytesOnly s u) {a n w : Nat} (k : Storable s a n w) : Storable u a n w := by
  obtain ⟨m, p, q, rfl, hp, hq⟩ := h
  exact k.imp (fun k => ⟨hp w k.1, hq _ k.2⟩) id

theorem writeWord_stores (s : State) (a : Nat) (bs : List Byte) (w : Nat) (h : Storable s a bs.length w) :
    (s.writeWord a bs w).2 = true ∧ BytesOnly s (s.writeWord a bs w).1 ∧
      ∀ b, (s.writeWord a bs w).1.byte b = if a ≤ b ∧ b < a + bs.length ∧ w ≤ b ∧ b < w + 8 then bs.getD (b - a) 0 else s.byte b := by
  rcases h with clean | ⟨lo, hi⟩
  · exact writeWord_clean s a bs w clean
  · have whole : (partOf a bs w 8).2.length = 8 := by
      simp only [partOf, List.length_take, List.length_drop]
      omega
    rw [State.writeWord]
    dsimp only
    rw [if_pos whole]
    refine ⟨rfl, ⟨_, _, _, rfl, fun x hx => ?_, fun _ => id⟩, fun b => byte_poke_partOf _ a bs w b⟩
    rw [smap_get_put]
    split
    · rfl
    · exact hx

theorem writeWords_stores (a : Nat) (bs : List Byte) (ws : List Nat) : ∀ s : State, (∀ w ∈ ws, w % 8 = 0 ∧ Storable s a bs.length w) →
    (s.writeWords a bs ws).2 = true ∧ BytesOnly s (s.writeWords a bs ws).1 ∧
      ∀ b, (s.writeWords a bs ws).1.byte b = if a ≤ b ∧ b < a + bs.length ∧ b / 8 * 8 ∈ ws then bs.getD (b - a) 0 else s.byte b := by
  induction ws with
  | nil => exact fun s _ => ⟨rfl, bytesOnly_refl s, fun b => by simp [State.writeWords]⟩
  | cons w r ih =>
    intro s h
    obtain ⟨h8, hw⟩ := h w List.mem_cons_self
    obtain ⟨ok, only, byte⟩ := writeWord_stores s a bs w hw
    obtain ⟨oks, onlys, bytes⟩ := ih (s.writeWord a bs w).1 (fun v hv =>
      (h v (List.mem_cons_of_mem w hv)).imp_right (storable_of_bytesOnly only))
    rw [State.writeWords, if_pos ok]
    refine ⟨oks, bytesOnly_trans only onlys, fun b => ?_⟩
    have word : (w ≤ b ∧ b < w + 8) ↔ b / 8 * 8 = w := by omega
    rw [bytes, byte]
    simp only [word, List.mem_cons]
    by_cases here : b / 8 * 8 = w
    · by_cases inside : a ≤ b ∧ b < a + bs.length <;> simp [here, inside, ← and_assoc]
    · simp [here]

/-- A write into T0 all of whose words can be stored. -/
theorem writeT0_stores {s : State} {a : Nat} {bs : List Byte} (h : ∀ w ∈ wordsOf a bs.length, Storable s a bs.length w) :
    (s.writeT0 a bs).2 = true ∧ BytesOnly s (s.writeT0 a bs).1 ∧ ∀ b, (s.writeT0 a bs).1.byte b = (s.poke a bs).byte b := by
  have cleared := bytesOnly_clearPoison s a bs.length
  obtain ⟨ok, only, byte⟩ := writeWords_stores a bs (wordsOf a bs.length) (s.clearPoison a bs.length)
    (fun w hw => ⟨(mem_wordsOf.mp hw).2.1, storable_of_bytesOnly cleared (h w hw)⟩)
  refine ⟨ok, bytesOnly_trans cleared only, fun b => ?_⟩
  have into : (a ≤ b ∧ b < a + bs.length ∧ b / 8 * 8 ∈ wordsOf a bs.length) ↔ a ≤ b ∧ b < a + bs.length := by
    rw [mem_wordsOf]
    omega
  rw [State.writeT0, byte, byte_poke, if_congr into rfl rfl]
  split
  · exact List.getD_eq_getElem _ _ _
  · rfl

/-! ### Stores (R131, R165) -/

section
variable {s : State} {l : Loc} {n : Nat} {rd ra : BitVec 5} {imm : BitVec 12}

theorem store_fault {cause : Nat} (h : s.accessFault l.tile ((s.ctx l).addrOf ra imm) n = some cause) :
    State.store l n rd ra imm s = s.insnFault l cause := by
  rw [State.store, h]

/-- A store that its words take. -/
theorem store_done {u : State} (ok : s.accessFault l.tile ((s.ctx l).addrOf ra imm) n = none)
    (h : s.writeT0 (sram l.tile ((s.ctx l).addrOf ra imm)) (leBytes n ((s.ctx l).rg rd).toNat) = (u, true)) :
    State.store l n rd ra imm s = u.setCtx l (u.ctx l).next := by
  rw [State.store, ok]
  dsimp only
  rw [h]
  rfl

end

/-- What `BytesOnly` leaves of the contexts. -/
theorem bytesOnly_ctx {s u : State} (h : BytesOnly s u) (l : Loc) : u.ctx l = s.ctx l := by
  rw [State.ctx, tile_congr (bytesOnly_tiles h), State.ctx]

/-- Settles O10: the alignment and the range of a store, and its bytes. -/
theorem scalarStores : Obligations.ScalarStores := by
  intro s l g sz rd ra imm hc hg n off a i
  have addr : ((s.issued l).ctx l).addrOf ra imm = off := by
    rw [ctx_issued]
    rfl
  have faults : ∀ cause, cause < 5 → s.accessFault l.tile off n = some cause → Completes i s (InsnFaulted l cause s) := fun cause small h =>
    completes_slot rfl rfl hc hg (by
      rw [store_fault (by rw [addr, accessFault_issued]; exact h)]
      exact insnFault_insnFaulted s l cause small)
  refine ⟨fun aligned fits outside clean => completes_slot rfl rfl hc hg ?_, fun h => faults 2 (by decide) (accessFault_misaligned h),
    fun aligned h => faults 3 (by decide) (accessFault_beyond aligned h)⟩
  have ok : (s.issued l).accessFault l.tile (((s.issued l).ctx l).addrOf ra imm) n = none := by
    rw [addr, accessFault_issued]
    exact accessFault_aligned aligned (sramOk_of_fits fits outside)
  have len : (leBytes n ((s.ctx l).rg rd).toNat).length = n := leBytes_length _ _
  have storable : ∀ w ∈ wordsOf a n, Storable (s.issued l) a n w := by
    intro w hw
    rcases clean with word | clean
    · obtain ⟨_, w8, lo, hi⟩ := mem_wordsOf.mp hw
      have eight : n = 8 := by
        show 2 ^ sz.toNat = 8
        rw [word]
        rfl
      rw [eight] at aligned hi ⊢
      exact Or.inr (by omega)
    · exact Or.inl (cleanT0_issued clean l w hw)
  obtain ⟨written, only, byte⟩ := writeT0_stores (s := s.issued l) (a := a) (bs := leBytes n ((s.ctx l).rg rd).toNat) (by rwa [len])
  generalize hu : ((s.issued l).writeT0 a (leBytes n ((s.ctx l).rg rd).toNat)).1 = u at only byte
  have run : (s.issued l).writeT0 (sram l.tile (((s.issued l).ctx l).addrOf ra imm)) (leBytes n (((s.issued l).ctx l).rg rd).toNat) = (u, true) := by
    rw [addr, ctx_issued]
    exact Prod.ext hu written
  have ctx : ∀ k, u.ctx k = s.ctx k := fun k => (bytesOnly_ctx only k).trans (ctx_issued s l k)
  rw [store_done ok run, ctx]
  refine ⟨?_, fun b hb => ?_, ctx_setCtx_self _ l _, fun k hk => ?_, fun r => ?_, ?_⟩
  · have self := bytes_of_poke_self byte
    rwa [len] at self
  · show u.byte b = s.byte b
    rw [byte, byte_poke_out _ _ _ _ (by rw [len]; omega), byte_issued]
  · rw [ctx_setCtx, if_neg hk, ctx]
  · rw [reg_setCtx, bytesOnly_reg only, reg_issued]
    split
    · next h => rw [h]
    · rfl
  · obtain ⟨m, p, q, rfl, _⟩ := only
    obtain ⟨r, x, h⟩ := regsTiles_issued s l
    rw [h]
    exact ⟨_, _, _, _, _, rfl⟩

end Sys2Proof.Proofs
end

section
/-! Every scalar instruction in its slot (R127, R128), token waits, levels, marks and halts (R141, R146, R148, R212). -/
namespace Sys2Proof.Proofs

open Sys2Proof Sys2Proof.Machine Sys2Proof.Laws

/-! ### The slot of every scalar instruction -/

theorem slot_eq (s : State) (l : Loc) (g : Guard) (legal : Bool) (act : State → State) :
    s.slot l g legal act = s.slotRaw l g legal (fun s => act (s.issued l)) := by rw [State.slot]

theorem shi_legality (imm : BitVec 12) : decide (fld imm.toNat 11 8 = 0 ∧ fld imm.toNat 7 6 ≠ 3) = decide (imm.toNat < 0xC0) := by
  have := imm.isLt
  simp only [fld, Nat.shiftRight_eq_div_pow, decide_eq_decide]
  omega

/-- The codes that a comparison takes (R134). -/
theorem condLegal_eq (float : Bool) (kind cond : Nat) :
    condLegal float kind cond = decide (kind ≤ 1 ∧ cond ≤ 5 ∨ kind = 2 ∧ float = true) := by
  unfold condLegal
  split
  · simp
  · simp
  · simp
  · next u0 u1 u2 =>
    have : kind ≠ 0 := u0
    have : kind ≠ 1 := u1
    have : kind ≠ 2 := u2
    exact (decide_eq_false (by omega)).symm

/-- A slot whose legality is put in other words. -/
theorem slot_of_slotCtx {i : Instr} {s : State} {l : Loc} {g : Guard} {legal legal' : Bool} {f : Ctx → Ctx}
    (run : exec i s = .next (s.slotCtx l g legal f)) (h : legal = legal') : ∃ act, exec i s = .next (s.slotRaw l g legal' act) := by
  subst h
  exact ⟨_, run.trans (congrArg Host.Outcome.next (slotCtx_eq s l g legal f))⟩

theorem slot_of_slot {i : Instr} {s : State} {l : Loc} {g : Guard} {legal : Bool} {act : State → State}
    (run : exec i s = .next (s.slot l g legal act)) : ∃ act, exec i s = .next (s.slotRaw l g legal act) :=
  ⟨_, run.trans (congrArg Host.Outcome.next (slot_eq s l g legal act))⟩

/-- Every scalar instruction that is illegal, or whose guard is false, takes its slot (an `arrive` that the route book holds has a true guard). -/
theorem scalar_slot {i : Instr} {l : Loc} {g : Guard} {legal : Bool} (h : i.scalar = some (l, g, legal)) (s : State)
    (idle : legal = false ∨ (s.ctx l).passes g = false) : ∃ act, exec i s = .next (s.slotRaw l g legal act) := by
  cases i <;> cases h
  case aluGroup => exact slot_of_slotCtx rfl (aluFn_isSome _ _ _)
  case shi => exact slot_of_slotCtx rfl (shi_legality _)
  case cmp =>
    refine slot_of_slotCtx rfl ?_
    rw [condLegal_eq, ← Bool.decide_and, decide_eq_decide]
    simp [and_assoc]
  case stest =>
    refine slot_of_slotCtx rfl ?_
    rw [condLegal_eq, ← Bool.decide_and, ← Bool.decide_and, decide_eq_decide]
    simp [and_assoc, ← BitVec.toNat_inj]
  case addi | andi | ori | xori | movw | plog | movs | swr | trd | tset | ttest | wakeAhead | progMark => exact slot_of_slotCtx rfl rfl
  case ld | st | br | call | jr | rdr | wrr | twait | semsig | semwait | semtest | stepCommitWait | stepCommitDone | stepCommitRewind | halt =>
    exact slot_of_slot rfl
  case issue | issuem | clist => exact ⟨_, rfl⟩
  case stepCommitArrive =>
    have guard : (s.ctx l).passes g = false := idle.resolve_left Bool.true_eq_false.mp
    refine slot_of_slot (act := State.arrive l) (congrArg Host.Outcome.next (if_neg ?_))
    rw [guard, Bool.and_false]
    decide

/-- Settles O11: the slot of the instruction. -/
theorem guardAndLegality : Obligations.GuardAndLegality := by
  intro s i l g legal scalar hc
  refine ⟨fun hl hg => ?_, fun hl => ?_⟩
  · obtain ⟨act, run⟩ := scalar_slot scalar s (Or.inr hg)
    exact ⟨_, run, slotRaw_skipped hl hc hg⟩
  · obtain ⟨act, run⟩ := scalar_slot scalar s (Or.inl hl)
    exact ⟨_, run, slotRaw_illegal hl hc⟩

/-! ### Waits (R126, R141, R148) -/

/-- An instruction in its slot that leaves its context as `c`. -/
theorem completes_setCtx {i : Instr} {s : State} {l : Loc} {g : Guard} {legal : Bool} {act : State → State} {c : Ctx}
    (run : exec i s = .next (s.slot l g legal act)) (hl : legal = true) (hc : s.canIssue l = true) (hg : (s.ctx l).passes g = true)
    (done : act (s.issued l) = (s.issued l).setCtx l c) : Completes i s (Turn l c s) :=
  completes_slot run hl hc hg (by rw [done]; exact turn_issued s l c)

theorem waitOn_eq (s : State) (l : Loc) (w : Wait) : s.waitOn l w = s.setCtx l { (s.ctx l).next with mode := .wait, wait := w } := rfl

theorem tokenWait_eq (l : Loc) (ra n : BitVec 5) (s : State) : State.tokenWait l ra n s =
    s.setCtx l (if ((s.ctx l).rg ra).toNat ≤ ((s.ctx l).t[n.toFin]).toNat then (s.ctx l).next.woken
      else { (s.ctx l).next with mode := .wait, wait := .token n.toFin ((s.ctx l).rg ra) }) := by
  rw [State.tokenWait]
  split
  · rfl
  · exact waitOn_eq s l _

/-- Settles O14: a token wait compares at its turn and at each later look. -/
theorem tokenWaits : Obligations.TokenWaits := by
  intro s l g ra n c woken
  refine ⟨fun hc hg => ⟨fun h => ?_, fun h => ?_⟩, fun v mode wait => ?_⟩
  · refine completes_setCtx rfl rfl hc hg ?_
    rw [tokenWait_eq, ctx_issued, if_pos h]
    rfl
  · refine completes_setCtx rfl rfl hc hg ?_
    rw [tokenWait_eq, ctx_issued, if_neg (Nat.not_le.mpr h)]
  · have look : exec (.twaitSatisfied l) s = .next (if v.toNat ≤ (c.t[n.toFin]).toNat then s.setCtx l c.woken else s) := by
      show execTwaitSatisfied l s = _
      simp only [execTwaitSatisfied]
      rw [mode, wait]
    refine ⟨fun h => ⟨_, look, ?_⟩, fun h => ?_⟩
    · rw [if_pos h]
      rfl
    · rw [look, if_neg (Nat.not_le.mpr h)]

/-! ### Levels, marks and halts (R146, R148, R212) -/

theorem count_dropPins (s : State) (l : Loc) (a n : Nat) : (s.dropPins l).count a n = (s.count a n).dropPins l := rfl

theorem updTile_dropPins (s : State) (l : Loc) (t : Nat) (f : Tile → Tile) : (s.dropPins l).updTile t f = (s.updTile t f).dropPins l := rfl

/-- Giving up version pins commutes with a turn that changes its own context. -/
theorem dropPins_setCtx_issued (s : State) (l : Loc) (c : Ctx) :
    ((s.issued l).setCtx l c).dropPins l = ((s.dropPins l).issued l).setCtx l c := by
  rw [issued_eq, issued_eq, State.setCtx, State.setCtx, count_dropPins, updTile_dropPins, updTile_dropPins]

/-- Settles O16: the level, the mark and the halt. -/
theorem levelMarkAndHalt : Obligations.LevelMarkAndHalt := by
  intro s l g hc hg c prog
  refine ⟨fun n => ?_, ?_, ?_⟩
  · have small : (BitVec.ofNat 5 n.val).toNat = n.val := by
      have := n.isLt
      rw [BitVec.toNat_ofNat]
      omega
    have level : (BitVec.ofNat 5 n.val).truncate 3 = BitVec.ofNat 3 n.val := by
      revert n
      decide
    have done : Completes (.wakeAhead l g 0 (BitVec.ofNat 5 n.val) 0) s (Turn l ({ c with level := (BitVec.ofNat 5 n.val).truncate 3 } : Ctx).next s) :=
      completes_slotCtx rfl (decide_eq_true ⟨rfl, rfl, by have := n.isLt; omega⟩) hc hg rfl
    rw [level] at done
    exact done
  · have done : Completes (.progMark l g 0 0 0) s (Turn l (c.progress 0).next s) := completes_slotCtx rfl rfl hc hg rfl
    exact done
  · refine completes_slot rfl rfl hc hg ?_
    rw [State.updCtx, ctx_issued, dropPins_setCtx_issued]
    exact turn_issued (s.dropPins l) l _

end Sys2Proof.Proofs
end

section
/-! Commands into engine queues (R128, R135 to R137): those that enter, and those that do not. -/
namespace Sys2Proof.Proofs

open Sys2Proof Sys2Proof.Machine Sys2Proof.Laws

/-! ### The header (R135) -/

theorem setFld_ctx (w v : Nat) : setFld w 19 18 v = 2 ^ 18 * (2 ^ 2 * (w / 2 ^ 20) + v % 4) + w % 2 ^ 18 := by
  simp only [setFld, fld, Nat.shiftRight_eq_div_pow]
  omega

/-- CTX is replaced and the other bits stand. -/
theorem withCtx_bit (w : BitVec 128) (c : CtxId) {i : Nat} (hi : i < 128) :
    (withCtx w c).getLsbD i = if i = 18 ∨ i = 19 then c.val.testBit (i - 18) else w.getLsbD i := by
  have four : c.val % 4 = c.val := Nat.mod_eq_of_lt c.isLt
  rw [withCtx, BitVec.getLsbD_ofNat, decide_eq_true hi, Bool.true_and, setFld_ctx, four, Nat.testBit_two_pow_mul_add _ (Nat.mod_lt _ (by decide)),
    Nat.testBit_two_pow_mul_add _ (by have := c.isLt; omega : c.val < 2 ^ 2), BitVec.getLsbD]
  by_cases low : i < 18
  · rw [if_pos low, if_neg (by omega), Nat.testBit_mod_two_pow, decide_eq_true low, Bool.true_and]
  · by_cases mid : i - 18 < 2
    · rw [if_neg low, if_pos mid, if_pos (by omega)]
    · rw [if_neg low, if_neg mid, if_neg (by omega), Nat.testBit_div_two_pow]
      congr 1
      omega

theorem engOf_fin (e : Fin 6) : engOf e.val = some e := dif_pos e.isLt

theorem cmdEng_eq (w : BitVec 128) : cmdEng w = w.toNat / 2 ^ 28 % 16 := by
  rw [cmdEng, fld, Nat.shiftRight_eq_div_pow]
  rfl

theorem cmdOp_eq (w : BitVec 128) : cmdOp w = w.toNat / 2 ^ 20 % 256 := by
  rw [cmdOp, fld, Nat.shiftRight_eq_div_pow]
  rfl

theorem low_eq (w : BitVec 128) : fld w.toNat 9 0 = w.toNat % 1024 := by
  rw [fld, Nat.shiftRight_zero]
  rfl

/-! ### What is left beside a context's own work -/

/-- From t to u only context l, its tile's round robin and the count of its turns have changed. -/
structure OwnOnly (l : Loc) (t u : State) : Prop where
  queues : ∀ f : Fin 6, (u.tile l.tile).queues[f] = (t.tile l.tile).queues[f]
  active : ∀ f : Fin 6, (u.tile l.tile).active[f] = (t.tile l.tile).active[f]
  serial : (u.tile l.tile).serial = (t.tile l.tile).serial
  tiles : ∀ n, n ≠ l.tile.val → u.tile n = t.tile n
  ctxs : ∀ k, k ≠ l → u.ctx k = t.ctx k
  regs : ∀ a, a ≠ rCntInsn l.tile → u.reg a = t.reg a
  bytes : SameBytes t u
  only : RegsTilesOnly t u

theorem ownOnly_trans {l : Loc} {t u v : State} (h : OwnOnly l t u) (k : OwnOnly l u v) : OwnOnly l t v where
  queues f := (k.queues f).trans (h.queues f)
  active f := (k.active f).trans (h.active f)
  serial := k.serial.trans h.serial
  tiles n hn := (k.tiles n hn).trans (h.tiles n hn)
  ctxs j hj := (k.ctxs j hj).trans (h.ctxs j hj)
  regs a ha := (k.regs a ha).trans (h.regs a ha)
  bytes a := (k.bytes a).trans (h.bytes a)
  only := regsTiles_trans h.only k.only

theorem ownOnly_setCtx (s : State) (l : Loc) (c : Ctx) : OwnOnly l s (s.setCtx l c) where
  queues f := by rw [tile_setCtx, if_pos rfl]; rfl
  active f := by rw [tile_setCtx, if_pos rfl]; rfl
  serial := by rw [tile_setCtx, if_pos rfl]; rfl
  tiles n hn := by rw [tile_setCtx, if_neg hn]
  ctxs k hk := by rw [ctx_setCtx, if_neg hk]
  regs a _ := reg_setCtx s l c a
  bytes a := rfl
  only := regsTiles_setCtx s l c

theorem ownOnly_rr (s : State) (l : Loc) (c : CtxId) : OwnOnly l s (s.updTile l.tile (fun x => { x with rr := c })) where
  queues f := by rw [tile_updTile_self]
  active f := by rw [tile_updTile_self]
  serial := by rw [tile_updTile_self]
  tiles n hn := by rw [tile_updTile, if_neg hn]
  ctxs k _ := ctx_updTile s l.tile _ (fun _ => by rfl) k
  regs a _ := reg_updTile s l.tile a _
  bytes a := rfl
  only := regsTiles_setTile s l.tile _

theorem ownOnly_issued (s : State) (l : Loc) : OwnOnly l s (s.issued l) where
  queues f := by rw [tile_issued]
  active f := by rw [tile_issued]
  serial := by rw [tile_issued]
  tiles n hn := by rw [tile_issued, if_neg hn]
  ctxs k _ := ctx_issued s l k
  regs a ha := reg_issued_ne s l ha
  bytes a := byte_issued s l a
  only := regsTiles_issued s l

theorem rCntCmdi_ne_rCntInsn (t : Nat) : rCntCmdi t ≠ rCntInsn t := tileReg_ne _ _ (by decide)

theorem entered_ownOnly {l : Loc} {e : Fin 6} {w : BitVec 128} {addr : Nat} {s t u : State} (h : Entered l e w addr s t) (k : OwnOnly l t u) :
    Entered l e w addr s u := by
  obtain ⟨⟨c, queue, cmd⟩, queues, active, tiles, ctxs, cmdi, regs, bytes, only⟩ := h
  refine ⟨⟨c, (k.queues e).trans queue, cmd⟩, fun f hf => (k.queues f).trans (queues f hf), fun f => (k.active f).trans (active f),
    fun n hn => (k.tiles n hn).trans (tiles n hn), fun j hj => (k.ctxs j hj).trans (ctxs j hj), (k.regs _ (rCntCmdi_ne_rCntInsn _)).trans cmdi,
    fun a ha => (k.regs a fun e => ha (by simp [e])).trans (regs a ha), fun a => (k.bytes a).trans (bytes a), regsTiles_trans only k.only⟩

/-- A command that enters from a state which differs from an earlier one in the context's own wait. -/
theorem entered_of_ownOnly {l : Loc} {e : Fin 6} {w : BitVec 128} {addr : Nat} {s t u : State} (k : OwnOnly l u s)
    (same : (s.ctx l).g = (u.ctx l).g ∧ (s.ctx l).s = (u.ctx l).s ∧ (s.ctx l).tag = (u.ctx l).tag)
    (h : Entered l e w addr s t) : Entered l e w addr u t := by
  obtain ⟨g, sr, tag⟩ := same
  obtain ⟨⟨c, queue, bits, ctx, at', serial, ops, sregs, tags⟩, queues, active, tiles, ctxs, cmdi, regs, bytes, only⟩ := h
  rw [k.queues] at queue
  rw [k.serial] at serial
  rw [g] at ops
  rw [k.regs _ (rCntCmdi_ne_rCntInsn _)] at cmdi
  refine ⟨⟨c, queue, bits, ctx, at', serial, ops, sregs.trans sr, tags.trans tag⟩, fun f hf => (queues f hf).trans (k.queues f),
    fun f => (active f).trans (k.active f), fun n hn => (tiles n hn).trans (k.tiles n hn), fun j hj => (ctxs j hj).trans (k.ctxs j hj), cmdi,
    fun a ha => (regs a ha).trans (k.regs a fun e => ha (by simp [e])), fun a => (bytes a).trans (k.bytes a), regsTiles_trans k.only only⟩

/-! ### The entry into a queue (R135, R137) -/

/-- The command that enters: CTX replaced, the operands read. -/
def issuedCmd (s : State) (l : Loc) (w : BitVec 128) (addr : Nat) : EngCmd :=
  ⟨withCtx w l.ctx, l.ctx, addr, (s.tile l.tile).serial + 1, #v[(s.ctx l).g[28], (s.ctx l).g[29], (s.ctx l).g[30], (s.ctx l).g[31]], (s.ctx l).s,
    (s.ctx l).tag, (s.ctx l).epoch⟩

/-- The tile with the command at the end of its engine's queue. -/
def queued (s : State) (l : Loc) (w : BitVec 128) (addr : Nat) (e : Fin 6) (x : Tile) : Tile :=
  { x.setQueue e (x.queue e ++ [⟨withCtx w l.ctx, l.ctx, addr, x.serial + 1,
      #v[(s.ctx l).g[28], (s.ctx l).g[29], (s.ctx l).g[30], (s.ctx l).g[31]], (s.ctx l).s, (s.ctx l).tag, (s.ctx l).epoch⟩]) with
    serial := x.serial + 1 }

theorem enqueue_eq (s : State) (l : Loc) (w : BitVec 128) (addr : Nat) (e : Fin 6) :
    s.enqueue l w addr e = (s.count (rCntCmdi l.tile) 1).updTile l.tile (queued s l w addr e) := by
  unfold State.enqueue queued
  rfl

theorem tile_enqueue (s : State) (l : Loc) (w : BitVec 128) (addr : Nat) (e : Fin 6) (n : Nat) :
    (s.enqueue l w addr e).tile n = if n = l.tile.val then
      { (s.tile l.tile).setQueue e ((s.tile l.tile).queue e ++ [issuedCmd s l w addr]) with serial := (s.tile l.tile).serial + 1 }
    else s.tile n := by
  rw [enqueue_eq, tile_updTile, tile_count, tile_count]
  rfl

theorem ctx_enqueue (s : State) (l : Loc) (w : BitVec 128) (addr : Nat) (e : Fin 6) (k : Loc) : (s.enqueue l w addr e).ctx k = s.ctx k := by
  rw [enqueue_eq, ctx_updTile _ _ _ (fun _ => by rfl), ctx_count]

theorem reg_enqueue (s : State) (l : Loc) (w : BitVec 128) (addr : Nat) (e : Fin 6) (a : Nat) :
    (s.enqueue l w addr e).reg a = if a = rCntCmdi l.tile then countUp (s.reg (rCntCmdi l.tile)) 1 else s.reg a := by
  rw [enqueue_eq, reg_updTile, reg_count]

theorem enqueue_entered (s : State) (l : Loc) (w : BitVec 128) (addr : Nat) (e : Fin 6) : Entered l e w addr s (s.enqueue l w addr e) := by
  refine ⟨⟨issuedCmd s l w addr, ?_, fun i hi => withCtx_bit w l.ctx hi, rfl, rfl, rfl, rfl, rfl, rfl⟩, fun f hf => ?_, fun f => ?_, fun n hn => ?_,
    fun k _ => ctx_enqueue s l w addr e k, ?_, fun a ha => ?_, fun a => ?_, ?_⟩
  · rw [tile_enqueue, if_pos rfl]
    exact (queues_setQueue _ e e _).trans (if_pos rfl)
  · rw [tile_enqueue, if_pos rfl]
    exact (queues_setQueue _ e f _).trans (if_neg hf)
  · rw [tile_enqueue, if_pos rfl]
    rfl
  · rw [tile_enqueue, if_neg hn]
  · rw [reg_enqueue, if_pos rfl]
  · rw [reg_enqueue, if_neg fun e => ha (by simp [e])]
  · rw [enqueue_eq, byte_updTile, byte_count]
  · rw [enqueue_eq]
    exact regsTiles_trans (regsTiles_count s _ _) (regsTiles_setTile _ _ _)

section
variable {s : State} {l : Loc} {e : Fin 6} {w : BitVec 128}

/-- A command with a known ENG and zero bits [9:0] enters a queue with room (R136, R137). -/
theorem issueCmd_enters (eng : w.toNat / 2 ^ 28 % 16 = e.val) (low : w.toNat % 1024 = 0) (room : (s.tile l.tile).queues[e].length < 8)
    (addr : Nat) : s.issueCmd l w addr = (s.enqueue l w addr e, .entered) := by
  rw [State.issueCmd, cmdEng_eq, eng, engOf_fin]
  dsimp only
  rw [low_eq, if_neg (not_not.mpr low)]
  exact if_neg (Nat.not_le.mpr room)

/-- The read of a command's 16 bytes (R137). -/
theorem readCmd_reads {a : Nat} (aligned : a % 16 = 0) (fits : a + 16 ≤ sramSize) (outside : s.inStorage l.tile a 16 = false)
    (clean : CleanT0 s (sram l.tile a) 16) (value : leVal (s.bytes (sram l.tile a) 16) = w.toNat) (addr : Nat) :
    s.readCmd l a addr = (s, some w) := by
  rw [State.readCmd, if_neg (not_not.mpr aligned), sramOk_of_fits fits outside, readT0_clean s _ _ clean]
  dsimp only
  rw [value, BitVec.ofNat_toNat, BitVec.setWidth_eq]
  rfl

/-- An issue that enters its queue. -/
theorem slotIssue_enters (retry : Instr) (done : State → State) (eng : w.toNat / 2 ^ 28 % 16 = e.val) (low : w.toNat % 1024 = 0)
    (room : (s.tile l.tile).queues[e].length < 8) : s.slotIssue l retry w done = done ((s.enqueue l w (s.pcAt l) e).issued l) := by
  rw [State.slotIssue, issueCmd_enters eng low room]

theorem slotRaw_acts {g : Guard} {legal : Bool} {act : State → State} (hl : legal = true) (hc : s.canIssue l = true)
    (hg : (s.ctx l).passes g = true) : s.slotRaw l g legal act = act s := by
  simp [State.slotRaw, hl, hc, hg]

/-- The state after a turn that entered a command. -/
theorem entered_turn (s : State) (l : Loc) (w : BitVec 128) (addr : Nat) (e : Fin 6) (c : Ctx) :
    Entered l e w addr s (((s.enqueue l w addr e).issued l).setCtx l c) ∧ (((s.enqueue l w addr e).issued l).setCtx l c).ctx l = c :=
  ⟨entered_ownOnly (enqueue_entered s l w addr e) (ownOnly_trans (ownOnly_issued _ l) (ownOnly_setCtx _ l c)), ctx_setCtx_self _ l c⟩

/-- The next instruction after a command that entered. -/
theorem advance_enqueued (s : State) (l : Loc) (w : BitVec 128) (addr : Nat) (e : Fin 6) :
    ((s.enqueue l w addr e).issued l).advance l = ((s.enqueue l w addr e).issued l).setCtx l (s.ctx l).next := by
  rw [State.advance, State.updCtx, ctx_issued, ctx_enqueue]

end

/-- Settles O12: the entry is made from registers, from memory, from a list's first turn and from its later ones. -/
theorem issueEntersTheQueue : Obligations.IssueEntersTheQueue := by
  intro s l g rd ra rb imm e w eng low room c list readable
  refine ⟨fun hc hg => ⟨fun even word => ?_, fun ⟨aligned, fits, outside, clean, value⟩ => ?_,
    fun ⟨aligned, fits, outside, clean, value⟩ some' most => ?_⟩, fun off n hlist hn ⟨aligned, fits, outside, clean, value⟩ mode stop clock => ?_⟩
  · refine ⟨_, congrArg Host.Outcome.next (slotRaw_acts (decide_eq_true even) hc hg), ?_⟩
    dsimp only
    have pair : (s.ctx l).rg (ra + 1) ++ (s.ctx l).rg ra = w := word
    rw [pair, slotIssue_enters _ _ eng low room, advance_enqueued]
    exact entered_turn s l w _ e _
  · refine ⟨_, congrArg Host.Outcome.next (slotRaw_acts rfl hc hg), ?_⟩
    have read : s.readCmd l ((s.ctx l).addrOf ra imm) (s.pcAt l) = (s, some w) := readCmd_reads aligned fits outside clean value _
    rw [State.issueMem, read]
    dsimp only
    rw [slotIssue_enters _ _ eng low room, advance_enqueued]
    exact entered_turn s l w _ e _
  · refine ⟨_, congrArg Host.Outcome.next (slotRaw_acts rfl hc hg), ?_⟩
    have read : s.readCmd l ((s.ctx l).rg ra).toNat ((s.ctx l).rg ra).toNat = (s, some w) := readCmd_reads aligned fits outside clean value _
    have one : (c.rg rb).toNat ≤ 1 ↔ (c.rg rb).toNat = 1 := by omega
    have count : ¬ (((s.ctx l).rg rb).toNat = 0 ∨ 65536 < ((s.ctx l).rg rb).toNat) := by
      have : 1 ≤ ((s.ctx l).rg rb).toNat := some'
      have : ((s.ctx l).rg rb).toNat ≤ 65536 := most
      omega
    have aligned' : ¬ ((s.ctx l).rg ra).toNat % 16 ≠ 0 := not_not.mpr aligned
    rw [State.startList]
    dsimp only
    rw [if_neg count, if_neg aligned', read]
    dsimp only
    rw [issueCmd_enters eng low room]
    dsimp only
    rw [State.updCtx, ctx_issued, ctx_enqueue, if_congr one rfl rfl]
    exact entered_turn s l w _ e _
  · have look : exec (.clistEntryIssue l) s = .next (s.listTurn l) :=
      congrArg Host.Outcome.next (if_pos (by rw [decide_eq_true ⟨mode, stop⟩, clock]; rfl))
    have read : s.readCmd l off off = (s, some w) := readCmd_reads aligned fits outside clean value _
    have one : n ≤ 1 ↔ n = 1 := by omega
    refine ⟨_, look, ?_⟩
    have hlist' : (s.ctx l).clist = some (off, n) := hlist
    rw [State.listTurn, hlist']
    dsimp only
    rw [read]
    dsimp only
    rw [issueCmd_enters eng low room]
    dsimp only
    rw [State.updCtx]
    have same : ((s.enqueue l w off e).updTile l.tile (fun x => { x with rr := l.ctx })).ctx l = s.ctx l := by
      rw [ctx_updTile _ _ _ (fun _ => by rfl), ctx_enqueue]
    rw [same, if_congr one rfl rfl]
    refine ⟨entered_ownOnly (enqueue_entered s l w off e) (ownOnly_trans (ownOnly_rr _ l l.ctx) (ownOnly_setCtx _ l _)), ?_⟩
    rw [ctx_setCtx_self]
    split <;> rfl

/-! ### Commands that enter no queue (R136, R137, R154) -/

/-- The count of the turn after the fault of a context. -/
theorem contextFaulted_issued {s t : State} {l : Loc} {w : Word} {cause eng : Nat} (h : ContextFaulted l w cause eng s t) :
    ContextFaulted l w cause eng s (t.issued l) := by
  have own := ownOnly_issued t l
  obtain ⟨self, others, queues, active, reg, log, quiet⟩ := h
  refine ⟨(ctx_issued t l l).trans self, fun k hk => (own.ctxs k hk).trans (others k hk), fun e => (own.queues e).trans (queues e),
    fun e => (own.active e).trans (active e), (own.regs _ (rCflt_ne_rCntInsn l)).trans reg, fun r => ?_, fun q => ?_⟩
  · obtain ⟨g, x, h⟩ := own.only
    rw [h]
    exact log r
  · obtain ⟨bytes, regs⟩ := quiet q
    exact ⟨fun a => (own.bytes a).trans (bytes a), fun a ha => (own.regs a fun e => ha (by simp [e])).trans (regs a ha)⟩

/-- What a fault of the instruction at the PC leaves, for a cause that shows no engine (R154). -/
theorem insnFault_insnFaulted_core (s : State) (l : Loc) {cause : Nat} (h : cause < 5 ∨ 8 < cause ∧ cause < 256) :
    InsnFaulted l cause s ((s.issued l).insnFault l cause) := by
  have word : cfltWord ((s.issued l).pcAt l) cause 0 (if 5 ≤ cause ∧ cause ≤ 8 then 0xE else 0) 0 =
      BitVec.ofNat 64 ((s.ctx l).pc.toNat * 2 ^ 40 + cause * 2 ^ 24 + 1) := by
    have := (s.ctx l).pc.isLt
    rw [if_neg (by omega), State.pcAt, ctx_issued, cfltWord]
    exact congrArg (BitVec.ofNat 64) (by omega)
  have f := ctxFault_contextFaulted (s.issued l) l cause 0 0xE 0 ((s.issued l).pcAt l)
  rw [word] at f
  exact contextFaulted_of_issued f

/-- TILE_CFLT_Cn of a command that its issue rejects (R154). -/
theorem cfltWord_issue {addr eng op cause : Nat} (ha : addr < 2 ^ 24) (he : eng < 16) (ho : op < 256) (hc : 5 ≤ cause ∧ cause ≤ 8) :
    cfltWord addr cause 0 (if 5 ≤ cause ∧ cause ≤ 8 then eng else 0) op =
      BitVec.ofNat 64 (addr * 2 ^ 40 + eng * 2 ^ 12 + op * 2 ^ 4 + 1 + cause * 2 ^ 24) := by
  rw [if_pos hc, cfltWord]
  exact congrArg (BitVec.ofNat 64) (by omega)

/-- An issue whose command faults its context. -/
theorem slotIssue_faults {s : State} {l : Loc} {w : BitVec 128} {cause : Nat} (retry : Instr) (done : State → State) (hc : 5 ≤ cause ∧ cause ≤ 8)
    (h : s.issueCmd l w (s.pcAt l) = (s.ctxFault l cause 0 (cmdEng w) (cmdOp w) (s.pcAt l), .faulted)) :
    ContextFaulted l (BitVec.ofNat 64 ((s.ctx l).pc.toNat * 2 ^ 40 + w.toNat / 2 ^ 28 % 16 * 2 ^ 12 + w.toNat / 2 ^ 20 % 256 * 2 ^ 4 + 1 +
      cause * 2 ^ 24)) cause (w.toNat / 2 ^ 28 % 16) s (s.slotIssue l retry w done) := by
  have f := ctxFault_contextFaulted s l cause 0 (cmdEng w) (cmdOp w) (s.pcAt l)
  rw [cmdEng_eq, cmdOp_eq, State.pcAt, cfltWord_issue (s.ctx l).pc.isLt (Nat.mod_lt _ (by decide)) (Nat.mod_lt _ (by decide)) hc] at f
  rw [State.slotIssue, h, cmdEng_eq, cmdOp_eq, State.pcAt]
  exact contextFaulted_issued f

/-- A full queue: the context waits for room in it. -/
theorem slotIssue_waits {s : State} {l : Loc} {e : Fin 6} {w : BitVec 128} (retry : Instr) (done : State → State)
    (eng : w.toNat / 2 ^ 28 % 16 = e.val) (low : w.toNat % 1024 = 0) (full : 8 ≤ (s.tile l.tile).queues[e].length) :
    s.slotIssue l retry w done =
      (s.count (rCntQfull l.tile) 1).setCtx l { s.ctx l with mode := .wait, wait := .queueFull e retry } := by
  have issue : s.issueCmd l w (s.pcAt l) = (s, .full) := by
    rw [State.issueCmd, cmdEng_eq, eng, engOf_fin]
    dsimp only
    rw [low_eq, if_neg (not_not.mpr low)]
    exact if_pos full
  have idx : engIdx w = e := by
    rw [engIdx, cmdEng_eq, eng, engOf_fin]
    rfl
  rw [State.slotIssue, issue]
  dsimp only
  rw [State.waitFull, idx, State.updCtx, ctx_count]

/-- Settles O13: the codes that fault, the counts of a list that do, the wait for room and its end. -/
theorem issueThatDoesNotEnter : Obligations.IssueThatDoesNotEnter := by
  intro s l g rd ra rb hc hg c w eng i at'
  have issue : ∀ u : State, u.canIssue l = true → (u.ctx l).passes g = true → ra.toNat % 2 = 0 →
      exec i u = .next (u.slotIssue l i ((u.ctx l).rg (ra + 1) ++ (u.ctx l).rg ra) (fun s => s.advance l)) := fun u uc ug even =>
    congrArg Host.Outcome.next (slotRaw_acts (decide_eq_true even) uc ug)
  have known : ∀ e : Fin 6, eng = e.val → engOf (cmdEng w) = some e := fun e he => by
    rw [cmdEng_eq]
    exact (congrArg engOf he).trans (engOf_fin e)
  refine ⟨fun even reserved => ⟨_, issue s hc hg even, slotIssue_faults i _ (cause := 6) (by decide) ?_⟩,
    fun even he low => ⟨_, issue s hc hg even, slotIssue_faults i _ (cause := 7) (by decide) ?_⟩, fun count => ?_, fun e even he low => ⟨fun full => ?_, ?_⟩⟩
  · have none : engOf (cmdEng w) = none := by
      rw [cmdEng_eq]
      exact dif_neg (Nat.not_lt.mpr reserved)
    show s.issueCmd l w (s.pcAt l) = _
    rw [State.issueCmd, none]
  · show s.issueCmd l w (s.pcAt l) = _
    rw [State.issueCmd, known ⟨eng, he⟩ rfl]
    exact if_pos (by rw [low_eq]; exact low)
  · refine ⟨_, congrArg Host.Outcome.next (slotRaw_acts rfl hc hg), ?_⟩
    have none : ((s.ctx l).rg rb).toNat = 0 ∨ 65536 < ((s.ctx l).rg rb).toNat := count.imp (fun h => by rw [h]; rfl) id
    rw [State.startList]
    dsimp only
    rw [if_pos none]
    exact insnFault_insnFaulted_core s l (Or.inr (by decide))
  · refine ⟨_, issue s hc hg even, ?_⟩
    rw [slotIssue_waits i _ he low full]
    refine ⟨ctx_setCtx_self _ l _, fun k hk => ?_, fun r => ?_, fun f => ?_, ?_⟩
    · rw [ctx_setCtx, if_neg hk, ctx_count]
    · rw [reg_setCtx, reg_count]
      split
      · next h => rw [h]
      · rfl
    · rw [tile_setCtx, if_pos rfl, tile_count]
      rfl
    · exact regsTiles_trans (regsTiles_count s _ _) (regsTiles_setCtx _ _ _)
  · intro room u hs mode wait
    have own : OwnOnly l u s := by
      rw [hs]
      exact ownOnly_setCtx u l _
    have again : exec (.engineQueueFullWait l) u = exec i s := by
      show execEngineQueueFullWait l u = _
      have room' : ¬ queueDepth ≤ ((u.tile l.tile).queue e).length := by
        have q : (s.tile l.tile).queues[e] = (u.tile l.tile).queues[e] := own.queues e
        rw [q] at room
        exact Nat.not_le.mpr room
      rw [execEngineQueueFullWait, mode, wait]
      dsimp only
      rw [if_neg room', ← hs]
      rfl
    refine ⟨_, again.trans (issue s hc hg even), ?_⟩
    rw [slotIssue_enters (e := e) i _ he low room, advance_enqueued]
    obtain ⟨entered, ctx⟩ := entered_turn s l w (s.pcAt l) e (s.ctx l).next
    refine ⟨entered_of_ownOnly own ?_ entered, ctx⟩
    have self : s.ctx l = { u.ctx l with mode := .run, wait := .none } := by rw [hs, ctx_updCtx_self]
    rw [self]
    exact ⟨rfl, rfl, rfl⟩

end Sys2Proof.Proofs
end

section
/-! The words of the scalar instructions (R127, R128). -/
namespace Sys2Proof.Proofs

open Sys2Proof Sys2Proof.Machine Sys2Proof.Laws

/-! ### Fields of a concatenation -/

/-- A field of n bits from bit lo up, of a value of any width. -/
def bitsAt {m : Nat} (n : Nat) (w : BitVec m) (lo : Nat) : BitVec n := (w >>> lo).truncate n

theorem bitsAt_append_last {m n : Nat} (x : BitVec m) (y : BitVec n) : bitsAt n (x ++ y) 0 = y := by
  refine BitVec.eq_of_getLsbD_eq fun i hi => ?_
  simp [-BitVec.getLsbD_eq_getElem, bitsAt, BitVec.truncate, BitVec.getLsbD_setWidth, BitVec.getLsbD_append, hi]

theorem bitsAt_append_first {m b n : Nat} (x : BitVec m) (y : BitVec b) (lo : Nat) : bitsAt n (x ++ y) (b + lo) = bitsAt n x lo := by
  refine BitVec.eq_of_getLsbD_eq fun i hi => ?_
  have beyond : ¬ b + lo + i < b := by omega
  have place : b + lo + i - b = lo + i := by omega
  simp [-BitVec.getLsbD_eq_getElem, bitsAt, BitVec.truncate, BitVec.getLsbD_setWidth, BitVec.getLsbD_append, hi, beyond, place]

theorem bitsAt_zero {n : Nat} (x : BitVec n) : bitsAt n x 0 = x := by
  simp [bitsAt]

theorem getLsbD_bitsAt {m : Nat} (w : BitVec m) (k : Nat) : w.getLsbD k = (bitsAt 1 w k).getLsbD 0 := by
  simp [-BitVec.getLsbD_eq_getElem, bitsAt, BitVec.truncate, BitVec.getLsbD_setWidth]

section
variable {n₁ n₂ n₃ n₄ n₅ n₆ n₇ n₈ n₉ : Nat} (a : BitVec n₁) (b : BitVec n₂) (c : BitVec n₃) (d : BitVec n₄) (e : BitVec n₅) (f : BitVec n₆)
  (g : BitVec n₇) (h : BitVec n₈) (k : BitVec n₉)

/-- Each of four fields stands above the widths of the later ones. -/
theorem fields_four : let w := a ++ b ++ c ++ d
    bitsAt n₁ w (n₄ + (n₃ + (n₂ + 0))) = a ∧ bitsAt n₂ w (n₄ + (n₃ + 0)) = b ∧ bitsAt n₃ w (n₄ + 0) = c ∧ bitsAt n₄ w 0 = d := by
  simp only [bitsAt_append_first, bitsAt_append_last, bitsAt_zero, and_self]

theorem fields_six : let w := a ++ b ++ c ++ d ++ e ++ f
    bitsAt n₁ w (n₆ + (n₅ + (n₄ + (n₃ + (n₂ + 0))))) = a ∧ bitsAt n₂ w (n₆ + (n₅ + (n₄ + (n₃ + 0)))) = b ∧
      bitsAt n₃ w (n₆ + (n₅ + (n₄ + 0))) = c ∧ bitsAt n₄ w (n₆ + (n₅ + 0)) = d ∧ bitsAt n₅ w (n₆ + 0) = e ∧ bitsAt n₆ w 0 = f := by
  simp only [bitsAt_append_first, bitsAt_append_last, bitsAt_zero, and_self]

theorem fields_seven : let w := a ++ b ++ c ++ d ++ e ++ f ++ g
    bitsAt n₁ w (n₇ + (n₆ + (n₅ + (n₄ + (n₃ + (n₂ + 0)))))) = a ∧ bitsAt n₂ w (n₇ + (n₆ + (n₅ + (n₄ + (n₃ + 0))))) = b ∧
      bitsAt n₃ w (n₇ + (n₆ + (n₅ + (n₄ + 0)))) = c ∧ bitsAt n₄ w (n₇ + (n₆ + (n₅ + 0))) = d ∧ bitsAt n₅ w (n₇ + (n₆ + 0)) = e ∧
      bitsAt n₆ w (n₇ + 0) = f ∧ bitsAt n₇ w 0 = g := by
  simp only [bitsAt_append_first, bitsAt_append_last, bitsAt_zero, and_self]

theorem fields_nine : let w := a ++ b ++ c ++ d ++ e ++ f ++ g ++ h ++ k
    bitsAt n₁ w (n₉ + (n₈ + (n₇ + (n₆ + (n₅ + (n₄ + (n₃ + (n₂ + 0)))))))) = a ∧
      bitsAt n₂ w (n₉ + (n₈ + (n₇ + (n₆ + (n₅ + (n₄ + (n₃ + 0))))))) = b ∧ bitsAt n₃ w (n₉ + (n₈ + (n₇ + (n₆ + (n₅ + (n₄ + 0)))))) = c ∧
      bitsAt n₄ w (n₉ + (n₈ + (n₇ + (n₆ + (n₅ + 0))))) = d ∧ bitsAt n₅ w (n₉ + (n₈ + (n₇ + (n₆ + 0)))) = e ∧
      bitsAt n₆ w (n₉ + (n₈ + (n₇ + 0))) = f ∧ bitsAt n₇ w (n₉ + (n₈ + 0)) = g ∧ bitsAt n₈ w (n₉ + 0) = h ∧ bitsAt n₉ w 0 = k := by
  simp only [bitsAt_append_first, bitsAt_append_last, bitsAt_zero, and_self]

end

/-! ### The formats of R127 -/

/-- The guard that GN and GP spell. -/
def guardOf (gn : BitVec 1) (gp : BitVec 3) : Guard := ⟨gp, gn.getLsbD 0⟩

section
variable {l : Loc} {op : BitVec 6} {gn : BitVec 1} {gp : BitVec 3}

theorem insnGuard_of {w : BitVec 32} (hn : bitsAt 1 w 25 = gn) (hp : bitsAt 3 w 22 = gp) : insnGuard w = guardOf gn gp := by
  rw [insnGuard, getLsbD_bitsAt, hn]
  exact congrArg (Guard.mk · _) hp

/-- An opcode whose words have no instruction. -/
theorem decode_none (row : ∀ w, insn 6 w 26 = op → decodeInsn l w = none) (rd ra rb : BitVec 5) (fn : BitVec 7) :
    decodeInsn l (op ++ gn ++ gp ++ rd ++ ra ++ rb ++ fn) = none := by
  obtain ⟨ho, -⟩ := fields_seven op gn gp rd ra rb fn
  exact row _ ho

/-- Format R. -/
theorem decode_fmtR {F : Guard → BitVec 5 → BitVec 5 → BitVec 5 → BitVec 7 → Instr}
    (row : ∀ w, insn 6 w 26 = op → decodeInsn l w = some (fmtR (F (insnGuard w)) w)) (rd ra rb : BitVec 5) (fn : BitVec 7) :
    decodeInsn l (op ++ gn ++ gp ++ rd ++ ra ++ rb ++ fn) = some (F (guardOf gn gp) rd ra rb fn) := by
  obtain ⟨ho, hn, hp, hd, ha, hb, hf⟩ := fields_seven op gn gp rd ra rb fn
  rw [row _ ho, insnGuard_of hn hp]
  exact congrArg some (congr (congr (congr (congrArg _ hd) ha) hb) hf)

/-- Formats I and S. -/
theorem decode_fmtI {F : Guard → BitVec 5 → BitVec 5 → BitVec 12 → Instr}
    (row : ∀ w, insn 6 w 26 = op → decodeInsn l w = some (fmtI (F (insnGuard w)) w)) (rd ra : BitVec 5) (imm : BitVec 12) :
    decodeInsn l (op ++ gn ++ gp ++ rd ++ ra ++ imm) = some (F (guardOf gn gp) rd ra imm) := by
  obtain ⟨ho, hn, hp, hd, ha, hi⟩ := fields_six op gn gp rd ra imm
  rw [row _ ho, insnGuard_of hn hp]
  exact congrArg some (congr (congr (congrArg _ hd) ha) hi)

/-- Format P. -/
theorem decode_fmtP {F : Guard → BitVec 3 → BitVec 5 → BitVec 5 → BitVec 3 → BitVec 2 → BitVec 4 → Instr}
    (row : ∀ w, insn 6 w 26 = op → decodeInsn l w = some (fmtP (F (insnGuard w)) w)) (pd : BitVec 3) (ra rb : BitVec 5)
    (cond : BitVec 3) (kind : BitVec 2) (low : BitVec 4) :
    decodeInsn l (op ++ gn ++ gp ++ pd ++ ra ++ rb ++ cond ++ kind ++ low) = some (F (guardOf gn gp) pd ra rb cond kind low) := by
  obtain ⟨ho, hn, hp, hd, ha, hb, hc, hk, hl⟩ := fields_nine op gn gp pd ra rb cond kind low
  rw [row _ ho, insnGuard_of hn hp]
  exact congrArg some (congr (congr (congr (congr (congr (congrArg _ hd) ha) hb) hc) hk) hl)

/-- Format W. -/
theorem decode_fmtW {F : Guard → BitVec 5 → Bool → BitVec 16 → Instr}
    (row : ∀ w, insn 6 w 26 = op → decodeInsn l w = some (F (insnGuard w) (insn 5 w 17) (w.getLsbD 16) (insn 16 w 0)))
    (rd : BitVec 5) (z : BitVec 1) (imm : BitVec 16) :
    decodeInsn l (op ++ gn ++ gp ++ rd ++ z ++ imm) = some (F (guardOf gn gp) rd (z.getLsbD 0) imm) := by
  obtain ⟨ho, hn, hp, hd, hz, hi⟩ := fields_six op gn gp rd z imm
  rw [row _ ho, insnGuard_of hn hp, getLsbD_bitsAt, hz]
  exact congrArg some (congr (congrArg (F _ · _) hd) hi)

/-- Format B. -/
theorem decode_fmtB {F : Guard → BitVec 22 → Instr} (row : ∀ w, insn 6 w 26 = op → decodeInsn l w = some (F (insnGuard w) (insn 22 w 0)))
    (off : BitVec 22) : decodeInsn l (op ++ gn ++ gp ++ off) = some (F (guardOf gn gp) off) := by
  obtain ⟨ho, hn, hp, hi⟩ := fields_four op gn gp off
  rw [row _ ho, insnGuard_of hn hp]
  exact congrArg (fun x => some (F _ x)) hi

/-- `step.commit` by its sub-operation. -/
theorem decode_commit (sub : BitVec 2) (pd : BitVec 3) : let i := decodeInsn l (0x32#6 ++ gn ++ gp ++ 0#5 ++ sub ++ pd ++ 0#12)
    (sub = 0 → i = some (.stepCommitArrive l (guardOf gn gp))) ∧ (sub = 1 → i = some (.stepCommitWait l (guardOf gn gp) pd)) ∧
      (sub = 2 → i = some (.stepCommitDone l (guardOf gn gp))) ∧ (sub = 3 → i = some (.stepCommitRewind l (guardOf gn gp))) := by
  obtain ⟨ho, hn, hp, hd, hs, hpd, hi⟩ := fields_seven 0x32#6 gn gp 0#5 sub pd 0#12
  generalize 0x32#6 ++ gn ++ gp ++ 0#5 ++ sub ++ pd ++ 0#12 = w at *
  have sub' : insn 2 w 15 = sub := hs
  have pd' : insn 3 w 12 = pd := hpd
  have row : decodeInsn l w = commitInsn l w := by
    rw [decodeInsn, show insn 6 w 26 = 0x32#6 from ho]
    rfl
  have unreserved : ¬ (insn 5 w 17 ≠ 0 ∨ insn 12 w 0 ≠ 0) := fun h => h.elim (fun h => h hd) fun h => h hi
  rw [row, commitInsn, insnGuard_of hn hp, if_neg unreserved, sub', pd']
  refine ⟨?_, ?_, ?_, ?_⟩ <;> (rintro rfl; rfl)

end

/-! ### The opcodes that carry a size or a position -/

theorem bitVec2_cases : ∀ sz : BitVec 2, sz = 0 ∨ sz = 1 ∨ sz = 2 ∨ sz = 3 := by
  decide

theorem row_ld (l : Loc) (sz : BitVec 2) (w : BitVec 32) (h : insn 6 w 26 = 4#4 ++ sz) :
    decodeInsn l w = some (fmtI (.ld l (insnGuard w) sz) w) := by
  rw [decodeInsn, h]
  rcases bitVec2_cases sz with rfl | rfl | rfl | rfl <;> rfl

theorem row_st (l : Loc) (sz : BitVec 2) (w : BitVec 32) (h : insn 6 w 26 = 5#4 ++ sz) :
    decodeInsn l w = some (fmtI (.st l (insnGuard w) sz) w) := by
  rw [decodeInsn, h]
  rcases bitVec2_cases sz with rfl | rfl | rfl | rfl <;> rfl

theorem row_movw (l : Loc) (sz : BitVec 2) (w : BitVec 32) (h : insn 6 w 26 = 2#4 ++ sz) :
    decodeInsn l w = some (.movw l (insnGuard w) sz (insn 5 w 17) (w.getLsbD 16) (insn 16 w 0)) := by
  rw [decodeInsn, h]
  rcases bitVec2_cases sz with rfl | rfl | rfl | rfl <;> rfl

theorem row_unlisted (l : Loc) (op : BitVec 6) (ho : op ∈ ([0x06, 0x07, 0x0C, 0x0D, 0x0E, 0x0F, 0x19, 0x1F, 0x26, 0x27, 0x34, 0x35, 0x36, 0x37,
    0x38, 0x39, 0x3A, 0x3B, 0x3C, 0x3D, 0x3E, 0x3F] : List (BitVec 6))) (w : BitVec 32) (h : insn 6 w 26 = op) : decodeInsn l w = none := by
  rw [decodeInsn, h]
  fin_cases ho <;> rfl

/-- Settles O19: each format's fields stand above the widths of the later ones, and the opcode names the row. -/
theorem instructionFormats : Obligations.InstructionFormats := by
  intro l gn gp rd ra rb fn imm z imm16 off pd cond kind low g r m w b p c
  obtain ⟨arrive, -⟩ := decode_commit (l := l) (gn := gn) (gp := gp) 0 pd
  obtain ⟨-, wait, -⟩ := decode_commit (l := l) (gn := gn) (gp := gp) 1 pd
  obtain ⟨-, -, done, -⟩ := decode_commit (l := l) (gn := gn) (gp := gp) 2 pd
  obtain ⟨-, -, -, rewind⟩ := decode_commit (l := l) (gn := gn) (gp := gp) 3 pd
  refine ⟨⟨decode_fmtR ?_ rd ra rb fn, decode_fmtR ?_ rd ra rb fn, decode_fmtR ?_ rd ra rb fn, decode_fmtR ?_ rd ra rb fn,
      decode_fmtR (F := fun g rd ra rb fn => .tset l g rd ra rb fn false) ?_ rd ra rb fn, decode_fmtR ?_ rd ra rb fn,
      decode_fmtR ?_ rd ra rb fn⟩,
    ⟨decode_fmtI ?_ rd ra imm, decode_fmtI ?_ rd ra imm, decode_fmtI ?_ rd ra imm, decode_fmtI ?_ rd ra imm, decode_fmtI ?_ rd ra imm,
      decode_fmtI ?_ rd ra imm, decode_fmtI (F := fun g rd ra imm => .rdr l g rd ra imm 0) ?_ rd ra imm, decode_fmtI ?_ rd ra imm,
      decode_fmtI ?_ rd ra imm⟩,
    fun sz => ⟨decode_fmtI (F := fun g => .ld l g sz) (row_ld l sz) rd ra imm,
      decode_fmtI (F := fun g => .st l g sz) (row_st l sz) rd ra imm, decode_fmtW (F := fun g => .movw l g sz) (row_movw l sz) rd z imm16⟩,
    ⟨decode_fmtB ?_ off, decode_fmtB ?_ off⟩,
    ⟨decode_fmtP ?_ pd ra rb cond kind low, decode_fmtP ?_ pd ra rb cond kind low, decode_fmtP ?_ pd ra rb cond kind low,
      decode_fmtP ?_ pd ra rb cond kind low, decode_fmtP ?_ pd ra rb cond kind low⟩,
    ⟨decode_fmtI ?_ rd ra imm, decode_fmtI ?_ rd ra imm, decode_fmtI ?_ rd ra imm, decode_fmtI ?_ rd ra imm, decode_fmtI ?_ rd ra imm,
      decode_fmtI ?_ rd ra imm⟩,
    ⟨arrive rfl, wait rfl, done rfl, rewind rfl⟩,
    fun op ho => decode_none (row_unlisted l op ho) rd ra rb fn⟩
  all_goals
    intro w h
    rw [decodeInsn, h]
    rfl

end Sys2Proof.Proofs
end

section
/-! The gates at the head of an engine's queue (R138, R142, R143). -/
namespace Sys2Proof.Proofs

open Sys2Proof Sys2Proof.Machine Sys2Proof.Laws

/-! ### The bits of a command word -/

theorem bitOf_eq {n : Nat} (w : BitVec n) (i : Nat) : bitOf w.toNat i = w.getLsbD i := by
  rw [BitVec.getLsbD, Nat.testBit_eq_decide_div_mod_eq, bitOf, Nat.shiftRight_eq_div_pow]

theorem cmdCmt_eq (w : BitVec 128) : cmdCmt w = w.getLsbD 10 := bitOf_eq w 10

theorem cmdFen_eq (w : BitVec 128) : cmdFen w = w.getLsbD 11 := bitOf_eq w 11

theorem cmdNt_eq (w : BitVec 128) : cmdNt w = w.getLsbD 12 := bitOf_eq w 12

/-! ### The head of a queue -/

/-- Every engine instruction does its row's work on the command at the head of its engine's queue (R138). -/
theorem engine_instruction {i : Instr} {t : TileId} {e : Fin 6} {op : Nat} (h : engineRow i = some (t, e, op)) :
    ∃ mine work, mine op = true ∧ ∀ s, exec i s = .next (s.atHead t e mine work) := by
  unfold engineRow at h
  split at h <;> simp only [Option.some.injEq, Prod.mk.injEq, reduceCtorEq] at h
  all_goals
    obtain ⟨rfl, rfl, rfl⟩ := h
    exact ⟨_, _, rfl, fun s => rfl⟩

section
variable {s : State} {t : TileId} {e : Fin 6} {k : EngCmd} {rest : List EngCmd}

theorem headFor_eq (hq : (s.tile t).queues[e] = k :: rest) {mine : Nat → Bool} (hm : mine (cmdOp k.word) = true) :
    s.headFor t e mine = some k := by
  have hq : (s.tile t).queue e = k :: rest := hq
  simp [State.headFor, hq, hm]

theorem atHead_shut {i : Instr} {op : Nat} (hi : engineRow i = some (t, e, op)) (hq : (s.tile t).queues[e] = k :: rest) (ho : cmdOp k.word = op)
    (hg : s.gate t e k = .shut) : exec i s = .next s := by
  subst ho
  obtain ⟨mine, work, hm, run⟩ := engine_instruction hi
  rw [run, State.atHead, headFor_eq hq hm]
  simp only [hg]

theorem atHead_drop {i : Instr} {op : Nat} (hi : engineRow i = some (t, e, op)) (hq : (s.tile t).queues[e] = k :: rest) (ho : cmdOp k.word = op)
    (hg : s.gate t e k = .drop) : exec i s = .next (s.dropHead t e k) := by
  subst ho
  obtain ⟨mine, work, hm, run⟩ := engine_instruction hi
  rw [run, State.atHead, headFor_eq hq hm]
  simp only [hg]

/-! ### The gates -/

theorem ownDecision_of_epoch (h : k.epoch ≤ (s.tile t).bounds) : s.ownDecision t k = true := decide_eq_true (.inr h)

/-- A gated command waits while its tile has no decision (R143). -/
theorem gate_undecided (gated : cmdCmt k.word = true) (hs : (s.tile t).search = none) (hd : (s.tile t).decision = none) :
    s.gate t e k = .shut := by
  simp only [State.gate, gated, hs, hd, if_true, ite_self]

/-- Under a discard a gated command leaves without work (R143). -/
theorem gate_discard (gated : cmdCmt k.word = true) (epoch : k.epoch ≤ (s.tile t).bounds) (run : s.enginesRun = true)
    (stopped : s.step.stopped = false) (stop : e.val ∉ (s.tile t).engStop) (hs : (s.tile t).search = none)
    (hd : (s.tile t).decision = some .discard) : s.gate t e k = .drop := by
  simp [State.gate, gated, ownDecision_of_epoch epoch, run, stopped, stop, hs, hd]

/-- A fenced command waits for an earlier one of its context (R142). -/
theorem gate_fenced (free : cmdCmt k.word = false) (fence : cmdFen k.word = true) (h : (s.tile t).earlier k.ctx k.serial = true) :
    s.gate t e k = .shut := by
  simp only [State.gate, free, fence, h, Bool.false_eq_true, if_false, Bool.and_self, if_true, ite_self]

theorem earlier_of_command {x : Tile} {c : CtxId} {n : Nat} (f : Fin 6)
    (h : (∃ q ∈ x.queues[f], q.ctx = c ∧ q.serial < n) ∨ ∃ a ∈ x.active[f], a.cmd.ctx = c ∧ a.cmd.serial < n) : x.earlier c n = true := by
  have queue : x.queues[f] ∈ x.queues.toList := Vector.mem_toList_iff.mpr (Vector.getElem_mem f.isLt)
  have active : x.active[f] ∈ x.active.toList := Vector.mem_toList_iff.mpr (Vector.getElem_mem f.isLt)
  rw [Tile.earlier, Bool.or_eq_true]
  refine h.imp ?_ ?_
  · rintro ⟨q, hq, own⟩
    exact List.any_eq_true.mpr ⟨_, queue, List.any_eq_true.mpr ⟨q, hq, decide_eq_true own⟩⟩
  · rintro ⟨a, ha, own⟩
    exact List.any_eq_true.mpr ⟨_, active, List.any_eq_true.mpr ⟨a, ha, decide_eq_true own⟩⟩

/-! ### Removal without work -/

theorem ctx_bumpToken (s : State) (l : Loc) (w : BitVec 128) (j : Loc) : (s.bumpToken l w).ctx j =
    if j = l ∧ cmdNt w = false then (s.ctx l).wt (cmdTok w) ((s.ctx l).t[cmdTok w] + 1) else s.ctx j := by
  rw [State.bumpToken]
  cases cmdNt w
  · simp [ctx_updCtx]
  · simp

/-- A context's change leaves the queues and the active commands of every tile. -/
theorem engines_updCtx (s : State) (l : Loc) (f : Ctx → Ctx) (n : Nat) :
    ((s.updCtx l f).tile n).queues = (s.tile n).queues ∧ ((s.updCtx l f).tile n).active = (s.tile n).active := by
  rw [State.updCtx, tile_setCtx]
  split
  · next h => subst h; exact ⟨rfl, rfl⟩
  · exact ⟨rfl, rfl⟩

theorem engines_bumpToken (s : State) (l : Loc) (w : BitVec 128) (n : Nat) :
    ((s.bumpToken l w).tile n).queues = (s.tile n).queues ∧ ((s.bumpToken l w).tile n).active = (s.tile n).active := by
  rw [State.bumpToken]
  split
  · exact ⟨rfl, rfl⟩
  · exact engines_updCtx s l _ n

theorem bumpToken_tilesOnly (s : State) (l : Loc) (w : BitVec 128) : ∃ x, s.bumpToken l w = { s with tiles := x } := by
  rw [State.bumpToken]
  split
  · exact ⟨_, rfl⟩
  · exact ⟨_, rfl⟩

end

/-- Settles O21: both gates stand at the head of the queue whatever the instruction, before the row's own work. -/
theorem gatesOfAnEngine : Obligations.GatesOfAnEngine := by
  intro s i t e op k rest row queue hop run stopped stop search c tok
  refine ⟨fun cmt epoch => ⟨fun undecided => ?_, fun discard => ?_⟩, fun free fence ⟨f, earlier⟩ => ?_⟩
  · exact atHead_shut row queue hop (gate_undecided (by rw [cmdCmt_eq, cmt]) search undecided)
  · refine ⟨_, atHead_drop row queue hop (gate_discard (by rw [cmdCmt_eq, cmt]) epoch run stopped stop search discard), ?_⟩
    have tail : ((s.tile t).queue e).tail = rest := congrArg List.tail queue
    obtain ⟨x, only⟩ := bumpToken_tilesOnly (s.popHead t e) (k.loc t) k.word
    refine ⟨?_, fun f hf => ?_, fun f => ?_, ?_, fun j hj => ?_, ⟨x, only⟩⟩
    · rw [State.dropHead, (engines_bumpToken ..).1, tile_popHead, if_pos rfl, tail, queues_setQueue, if_pos rfl]
    · rw [State.dropHead, (engines_bumpToken ..).1, tile_popHead, if_pos rfl, queues_setQueue, if_neg hf]
    · rw [State.dropHead, (engines_bumpToken ..).2, tile_popHead, if_pos rfl]
      rfl
    · rw [State.dropHead, ctx_bumpToken, ctx_popHead, ctx_popHead, cmdNt_eq]
      cases k.word.getLsbD 12
      · exact if_pos ⟨rfl, rfl⟩
      · exact if_neg fun h => by simp at h
    · rw [State.dropHead, ctx_bumpToken, if_neg fun h => hj h.1, ctx_popHead]
  · exact atHead_shut row queue hop (gate_fenced (by rw [cmdCmt_eq, free]) (by rw [cmdFen_eq, fence]) (earlier_of_command f earlier))

end Sys2Proof.Proofs
end

section
/-! The completion of engine commands (R116, R140, R141, R163, R379). -/
namespace Sys2Proof.Proofs

open Sys2Proof Sys2Proof.Machine Sys2Proof.Laws

/-! ### Counters -/

theorem countUp_countUp (w : Word) (m n : Nat) : countUp (countUp w m) n = countUp w (m + n) := by
  apply BitVec.eq_of_toNat_eq
  simp only [countUp, BitVec.toNat_ofNat]
  omega

theorem tileReg_inj {t u b off : Nat} (h : tileReg t b off = tileReg u b off) : t = u := by
  simp only [tileReg, tileSpan] at h
  omega

theorem count_regsOnly (s : State) (a n : Nat) : ∃ r, s.count a n = { s with regs := r } := ⟨(s.count a n).regs, rfl⟩

/-- The completed commands that the engines count. -/
def doneCounts (t : TileId) : List Nat :=
  [tileReg t 1 0x070, tileReg t 2 0x048, tileReg t 4 0x040, tileReg t 5 0x040, tileReg t 5 0x048]

theorem engCounts_regsOnly (s : State) (t : TileId) (e : Fin 6) (a : Active) : ∃ r, s.engCounts t e a = { s with regs := r } := by
  unfold State.engCounts
  split
  · exact count_regsOnly ..
  · exact count_regsOnly ..
  · exact count_regsOnly ..
  · obtain ⟨r, h⟩ := count_regsOnly s (tileReg t 5 0x040) 1
    rw [h]
    exact count_regsOnly ..
  · exact ⟨s.regs, rfl⟩

theorem engCounts_reg (s : State) (t : TileId) (e : Fin 6) (a : Active) {x : Nat} (hx : x ∉ doneCounts t) :
    (s.engCounts t e a).reg x = s.reg x := by
  simp only [doneCounts, List.mem_cons, List.not_mem_nil, or_false, not_or] at hx
  obtain ⟨h0, h1, h2, h3, h4⟩ := hx
  unfold State.engCounts
  split
  · rw [reg_count, if_neg h0]
  · rw [reg_count, if_neg h1]
  · rw [reg_count, if_neg h2]
  · rw [reg_count, if_neg h4, reg_count, if_neg h3]
  · rfl

theorem countWaits_cons (s : State) (w : TileId × Nat) (ws : List (TileId × Nat)) :
    s.countWaits (w :: ws) = (s.count (tileReg w.1 0 0x130) w.2).countWaits ws := by
  rw [State.countWaits, List.foldl_cons, State.countWaits]

/-- TILE_CNT_BCONF of a tile counts its own waits. -/
theorem reg_countWaits (ws : List (TileId × Nat)) (s : State) (x : TileId) : (s.countWaits ws).reg (tileReg x 0 0x130) =
    countUp (s.reg (tileReg x 0 0x130)) ((ws.filter (fun w => decide (w.1 = x))).map (·.2)).sum := by
  induction ws generalizing s with
  | nil =>
    refine (BitVec.eq_of_toNat_eq ?_)
    have := (s.reg (tileReg x 0 0x130)).isLt
    simp only [State.countWaits, List.foldl_nil, List.filter_nil, List.map_nil, List.sum_nil, countUp, BitVec.toNat_ofNat]
    omega
  | cons w ws ih =>
    rw [countWaits_cons, ih, reg_count, List.filter_cons]
    by_cases own : w.1 = x
    · subst own
      rw [if_pos rfl, if_pos (decide_eq_true rfl), countUp_countUp, List.map_cons, List.sum_cons]
    · rw [if_neg fun h => own (Fin.ext (tileReg_inj h)).symm, if_neg (by rwa [decide_eq_true_eq])]

theorem countWaits_reg (ws : List (TileId × Nat)) (s : State) {a : Nat} (h : a ∉ ws.map (fun w => tileReg w.1 0 0x130)) :
    (s.countWaits ws).reg a = s.reg a := by
  induction ws generalizing s with
  | nil => rfl
  | cons w ws ih =>
    rw [List.map_cons, List.mem_cons, not_or] at h
    rw [countWaits_cons, ih _ h.2, reg_count, if_neg h.1]

theorem countWaits_regsOnly (ws : List (TileId × Nat)) (s : State) : ∃ r, s.countWaits ws = { s with regs := r } := by
  induction ws generalizing s with
  | nil => exact ⟨s.regs, rfl⟩
  | cons w ws ih =>
    obtain ⟨r, h⟩ := count_regsOnly s (tileReg w.1 0 0x130) w.2
    rw [countWaits_cons, h]
    exact ih _

/-! ### The completion -/

section
variable {s : State} {t : TileId} {e : Fin 6} {k : Nat} {a : Active}

/-- A queue message command that has finished does nothing more. -/
theorem qmTry_done (h : a.done = true) : s.qmTry t a = s := by
  rw [State.qmTry, h]
  simp

/-- The state after a completion, before the counters. -/
def afterCompletion (s : State) (t : TileId) (e : Fin 6) (a : Active) : State :=
  ((((s.updTile t (fun x => x.setAct e ((x.act e).filter (fun b => decide (b.cmd.serial ≠ a.cmd.serial))))).updCtx (a.cmd.loc t)
    (fun c => c.writeSummaries a.sbase a.sums)).bumpToken (a.cmd.loc t) a.cmd.word).engProgress (a.cmd.loc t) e)

/-- The state after a completion and its counters. -/
def completed (s : State) (t : TileId) (e : Fin 6) (a : Active) (moved : Nat) (waits : List (TileId × Nat)) : State :=
  (((afterCompletion s t e a).engCounts t e a).dataProgress (a.cmd.loc t) e moved).countWaits waits

theorem completion_runs (moved : Nat) (waits : List (TileId × Nat)) (place : (s.tile t).active[e][k]? = some a) (stop : e.val ∉ (s.tile t).engStop)
    (unstopped : a.stopped = false) (fin : a.done = true) (idle : a.waits = []) (room : e = 4 → s.qm.backlog.any Msg.isUpdate = false) :
    exec (.commandCompletion t e ⟨k, moved, waits⟩) s =
      .next (completed s t e a moved waits) := by
  have place : ((s.tile t).act e)[k]? = some a := place
  have free : (decide (e = 4) && s.qm.backlog.any Msg.isUpdate) = false := by
    by_cases h : e = 4
    · rw [room h, Bool.and_false]
    · rw [decide_eq_false h, Bool.false_and]
  show execCommandCompletion t e ⟨k, moved, waits⟩ s = _
  simp only [execCommandCompletion, place, stop, free, qmTry_done fin, decide_false, Bool.or_self, Bool.false_eq_true, if_false, ite_self, fin,
    unstopped, idle, List.isEmpty_nil, Bool.not_false, Bool.and_self, if_true]
  rfl

theorem completion_waits (moved : Nat) (waits : List (TileId × Nat)) (place : (s.tile t).active[e][k]? = some a) (he : e ≠ 5)
    (h : a.done = false ∨ a.waits ≠ []) : exec (.commandCompletion t e ⟨k, moved, waits⟩) s = .next s := by
  have place : ((s.tile t).act e)[k]? = some a := place
  have unfinished : (a.done && !a.stopped && a.waits.isEmpty) = false := by
    rcases h with h | h
    · rw [h, Bool.false_and, Bool.false_and]
    · rw [show a.waits.isEmpty = false from List.isEmpty_eq_false_iff.mpr h, Bool.and_false]
  show execCommandCompletion t e ⟨k, moved, waits⟩ s = _
  simp only [execCommandCompletion, place, if_neg he, unfinished, Bool.false_eq_true, if_false, ite_self]

/-! ### What a completion leaves -/

/-- The counters and the progress of the data change registers and the command's context only. -/
theorem completed_eq (s : State) (t : TileId) (e : Fin 6) (a : Active) (moved : Nat) (waits : List (TileId × Nat)) :
    ∃ r, completed s t e a moved waits = { (afterCompletion s t e a).dataProgress (a.cmd.loc t) e moved with regs := r } := by
  obtain ⟨r, hr⟩ := engCounts_regsOnly (afterCompletion s t e a) t e a
  rw [completed, hr]
  exact countWaits_regsOnly waits _

theorem engines_afterCompletion (n : Nat) : ((afterCompletion s t e a).tile n).queues = (s.tile n).queues ∧
    ((afterCompletion s t e a).tile n).active =
      if n = t.val then ((s.tile t).setAct e (((s.tile t).act e).filter (fun b => decide (b.cmd.serial ≠ a.cmd.serial)))).active
      else (s.tile n).active := by
  rw [afterCompletion, State.engProgress]
  simp only [engines_updCtx, engines_bumpToken, tile_updTile]
  split
  · next h => subst h; exact ⟨rfl, rfl⟩
  · exact ⟨rfl, rfl⟩

theorem ctx_afterCompletion (j : Loc) : (afterCompletion s t e a).ctx j =
    if j = ⟨t, a.cmd.ctx⟩ then
      let d := (s.ctx ⟨t, a.cmd.ctx⟩).writeSummaries a.sbase a.sums
      progressed e (if a.cmd.word.getLsbD 12 then d else { d with t := d.t.set (cmdTok a.cmd.word) (d.t[cmdTok a.cmd.word] + 1) })
    else s.ctx j := by
  have tiles := fun j => ctx_updTile s t (fun x => x.setAct e ((x.act e).filter (fun b => decide (b.cmd.serial ≠ a.cmd.serial)))) (fun _ => rfl) j
  rw [afterCompletion, State.engProgress, ctx_updCtx, ctx_bumpToken, ctx_bumpToken, ctx_updCtx, ctx_updCtx, tiles, tiles, EngCmd.loc, if_pos rfl, cmdNt_eq]
  by_cases h : j = ⟨t, a.cmd.ctx⟩
  · rw [if_pos h, if_pos h]
    cases a.cmd.word.getLsbD 12
    · rw [if_pos ⟨rfl, rfl⟩]
      rfl
    · rw [if_neg (by simp)]
      rfl
  · rw [if_neg h, if_neg h, if_neg fun x => h x.1, if_neg h]

theorem dataProgress_progressed (e : Fin 6) (moved : Nat) (c : Ctx) (s : State) (l : Loc) (h : s.ctx l = progressed e c) :
    (s.dataProgress l e moved).ctx l = progressedBy e moved c := by
  rw [State.dataProgress, ctx_updCtx_self, h]
  simp [progressed, progressedBy, Ctx.progress]

theorem byte_completed (moved : Nat) (waits : List (TileId × Nat)) (b : Nat) : (completed s t e a moved waits).byte b = s.byte b := by
  obtain ⟨r, h⟩ := completed_eq s t e a moved waits
  have done : ((afterCompletion s t e a).dataProgress (a.cmd.loc t) e moved).byte b = s.byte b := by
    rw [State.dataProgress, byte_updCtx, afterCompletion, State.engProgress, byte_updCtx, State.bumpToken]
    split <;> simp
  rw [h]
  exact done

theorem tile_completed (moved : Nat) (waits : List (TileId × Nat)) (n : Nat) :
    (completed s t e a moved waits).tile n = ((afterCompletion s t e a).dataProgress (a.cmd.loc t) e moved).tile n := by
  obtain ⟨r, h⟩ := completed_eq s t e a moved waits
  rw [h]
  rfl

theorem engines_completed (moved : Nat) (waits : List (TileId × Nat)) (n : Nat) :
    ((completed s t e a moved waits).tile n).queues = ((afterCompletion s t e a).tile n).queues ∧
      ((completed s t e a moved waits).tile n).active = ((afterCompletion s t e a).tile n).active := by
  simp only [tile_completed, State.dataProgress, engines_updCtx, and_self]

theorem ctx_completed (moved : Nat) (waits : List (TileId × Nat)) (j : Loc) :
    (completed s t e a moved waits).ctx j = ((afterCompletion s t e a).dataProgress (a.cmd.loc t) e moved).ctx j := by
  rw [State.ctx, tile_completed, State.ctx]

theorem reg_afterCompletion (b : Nat) : (afterCompletion s t e a).reg b = s.reg b := by
  rw [afterCompletion, State.engProgress, reg_updCtx, State.bumpToken]
  split <;> simp

/-- The registers before the waits are counted. -/
theorem reg_engCounts_data (moved : Nat) {b : Nat} (h : b ∉ doneCounts t) :
    (((afterCompletion s t e a).engCounts t e a).dataProgress (a.cmd.loc t) e moved).reg b = s.reg b := by
  rw [State.dataProgress, reg_updCtx, engCounts_reg _ _ _ _ h, reg_afterCompletion]

theorem bconf_notCounted (t x : TileId) : tileReg x 0 0x130 ∉ doneCounts t := by
  simp only [doneCounts, List.mem_cons, List.not_mem_nil, or_false, not_or, tileReg, tileSpan]
  omega

end

/-- Settles O28: the completion step by step, and the three guards that keep a command where it is. -/
theorem commandsComplete : Obligations.CommandsComplete := by
  intro s t e k a place stop unstopped l c tok
  refine ⟨fun moved waits fin idle room => ⟨_, completion_runs moved waits place stop unstopped fin idle room,
      ?_, fun f hf => ?_, fun f => ?_, ?_, fun j hj => ?_, byte_completed moved waits, fun x => ?_, fun x hx => ?_⟩,
    fun moved waits he h => completion_waits moved waits place he h⟩
  · rw [(engines_completed ..).2, (engines_afterCompletion _).2, if_pos rfl, active_setAct, if_pos rfl]
    rfl
  · rw [(engines_completed ..).2, (engines_afterCompletion _).2, if_pos rfl, active_setAct, if_neg hf]
  · rw [(engines_completed ..).1, (engines_afterCompletion _).1]
  · rw [ctx_completed]
    have mine := ctx_afterCompletion (s := s) (t := t) (e := e) (a := a) l
    rw [if_pos rfl] at mine
    exact dataProgress_progressed e moved _ _ l mine
  · rw [ctx_completed, State.dataProgress, ctx_updCtx, EngCmd.loc, if_neg hj, ctx_afterCompletion, if_neg hj]
  · rw [completed, reg_countWaits, reg_engCounts_data moved (bconf_notCounted t x)]
  · rw [List.mem_append, not_or] at hx
    rw [completed, countWaits_reg _ _ hx.1, reg_engCounts_data moved hx.2]

end Sys2Proof.Proofs
end

section
/-! What entries of the log, queue descriptors and their events leave of a state (R326, R334, R370): everything but the memories, the log,
what the queue manager keeps of descriptors and events, and their counters. -/
namespace Sys2Proof.Proofs

open Sys2Proof Sys2Proof.Machine Sys2Proof.Laws

/-! ### The part that stays -/

/-- A state without what an access or an entry of the log may change. -/
def calm (s : State) : State :=
  { s with freeCtr := 0, mem := [], upset := [], poison := [], regs := [], log := ⟨[], 0⟩,
           qm := { s.qm with cache := [], held := [], lost := [], flags := [] }, step := { s.step with barred := [] }, rst := State.reset.rst }

/-- The registers that count what accesses and messages meet, and AON_XOVR and TILE_ECC_LAST, which say so too. -/
def NetCounter (a : Nat) : Prop :=
  a = hubReg 5 0x100 ∨ a = hubReg 5 0x118 ∨ a = hubReg 4 0x070 ∨ a = rXovr ∨ (∃ t, a = rCntCe t ∨ a = rEccLast t) ∨
    ∃ p, a = rLnkCnt p 0x040 ∨ a = rLnkCnt p 0x078 ∨ a = rLnkCnt p 0x080 ∨ a = rLnkCnt p 0x098

/-- Accesses and entries of the log lead from one state to the other. -/
structure LogOnly (s u : State) : Prop where
  same : calm u = calm s
  reg : ∀ a, ¬ NetCounter a → u.reg a = s.reg a

section
variable {s t u : State}

theorem logOnly_refl (s : State) : LogOnly s s := ⟨rfl, fun _ _ => rfl⟩

theorem logOnly_of_calm (hc : calm u = calm s) (hr : u.regs = s.regs) : LogOnly s u :=
  ⟨hc, fun a _ => by rw [State.reg, hr, State.reg]⟩

theorem logOnly_trans (h : LogOnly s t) (k : LogOnly t u) : LogOnly s u :=
  ⟨k.same.trans h.same, fun a ha => (k.reg a ha).trans (h.reg a ha)⟩

/-- A change of what accesses may change, and then more of them. -/
theorem logOnly_after (k : LogOnly t u) (hc : calm t = calm s) (hr : t.regs = s.regs) : LogOnly s u := logOnly_trans (logOnly_of_calm hc hr) k

theorem logOnly_ite {c : Prop} [Decidable c] (h : c → LogOnly s t) (k : ¬ c → LogOnly s u) : LogOnly s (if c then t else u) := by
  split
  · next hc => exact h hc
  · next hc => exact k hc

theorem logOnly_setReg (s : State) {a : Nat} (ha : NetCounter a) (v : Word) : LogOnly s (s.setReg a v) :=
  ⟨rfl, fun b hb => by rw [reg_setReg, if_neg (fun h => hb (by rwa [h]))]⟩

theorem logOnly_count (s : State) {a : Nat} (ha : NetCounter a) (n : Nat) : LogOnly s (s.count a n) := logOnly_setReg s ha _

theorem logOnly_foldl {α : Type} (f : State → α → State) (h : ∀ s x, LogOnly s (f s x)) (xs : List α) (s : State) : LogOnly s (xs.foldl f s) := by
  induction xs generalizing s with
  | nil => exact logOnly_refl s
  | cons x xs ih => exact logOnly_trans (h s x) (ih _)

/-! ### What it implies -/

theorem LogOnly.keeps {α : Type} (h : LogOnly s u) (f : State → α) (hf : ∀ s, f (calm s) = f s) : f u = f s := by
  rw [← hf u, h.same, hf]

end

/-! ### Entries of the log and their events -/

theorem netCounter_hub : NetCounter (hubReg 5 0x100) ∧ NetCounter (hubReg 5 0x118) ∧ NetCounter (hubReg 4 0x070) ∧ NetCounter rXovr :=
  ⟨.inl rfl, .inr (.inl rfl), .inr (.inr (.inl rfl)), .inr (.inr (.inr (.inl rfl)))⟩

theorem logOnly_writeLog (s : State) (e : LogEntry) : LogOnly s (s.writeLog e) := by
  refine ⟨?_, fun a ha => reg_writeLog s e fun h => ha (h ▸ netCounter_hub.2.2.2)⟩
  obtain ⟨l, r, w⟩ := writeLog_frame s e
  rw [w, crossEvent_eq]
  rfl

theorem logOnly_poke (s : State) (a : Nat) (bs : List Byte) : LogOnly s (s.poke a bs) := logOnly_of_calm rfl rfl

theorem logOnly_setDesc (s : State) (q off v : Nat) : LogOnly s (s.setDesc q off v) :=
  logOnly_ite (fun _ => logOnly_refl s) fun _ => logOnly_of_calm rfl rfl

theorem logOnly_flagUpdate (s : State) (d : QDesc) (tail : Nat) : LogOnly s (s.flagUpdate d tail) := by
  unfold State.flagUpdate
  extract_lets fb flags line bs old
  exact logOnly_ite (fun _ => logOnly_ite (fun _ => logOnly_of_calm rfl rfl) fun _ => logOnly_of_calm rfl rfl) fun _ => logOnly_refl s

theorem logOnly_append (s : State) (q : Nat) (e : List Byte) : LogOnly s (s.append q e) := by
  unfold State.append
  extract_lets d tail
  exact logOnly_after (logOnly_trans (logOnly_setDesc _ q 16 tail) (logOnly_flagUpdate _ _ _)) rfl rfl

theorem logOnly_setHeld (s : State) (q : Nat) (l : List (List Byte)) : LogOnly s (s.setHeld q l) := logOnly_of_calm rfl rfl

theorem logOnly_putEvent (s : State) (q : Nat) (e : List Byte) : LogOnly s (s.putEvent q e) := by
  unfold State.putEvent
  extract_lets d held
  exact logOnly_ite (fun _ => logOnly_append s q e) fun _ => logOnly_ite (fun _ => logOnly_setHeld s q _) fun _ =>
    logOnly_after (logOnly_count _ netCounter_hub.2.1 1) rfl rfl

theorem logOnly_cacheUse (s : State) (q : Nat) : LogOnly s (s.cacheUse q) := by
  unfold State.cacheUse
  extract_lets c victim c'
  exact logOnly_ite (fun _ => logOnly_of_calm rfl rfl) fun _ => logOnly_after (logOnly_count _ netCounter_hub.1 1) rfl rfl

theorem logOnly_countBurst (s : State) (a : Nat) : LogOnly s (s.countBurst a).1 := by
  have h : LogOnly s (({ s with upset := s.upset.put (fun _ => 0) a 0 } : State).count (hubReg 4 0x070) 1) :=
    logOnly_after (logOnly_count _ netCounter_hub.2.2.1 1) rfl rfl
  exact logOnly_trans h (logOnly_of_calm rfl rfl)

theorem logOnly_logFetch (s : State) (lost : Option Nat) (e : LogEntry) : LogOnly s (s.logFetch lost e) := by
  unfold State.logFetch
  extract_lets u d
  exact logOnly_ite (fun _ => logOnly_writeLog s e) fun _ => logOnly_trans (logOnly_writeLog s e) (logOnly_putEvent _ _ _)

theorem logOnly_fetchDesc (s : State) (q : Nat) : LogOnly s (s.fetchDesc q).1 := by
  unfold State.fetchDesc
  split
  · exact logOnly_cacheUse s q
  · split
    · exact logOnly_cacheUse s q
    · have h := logOnly_countBurst s (s.descAt q)
      exact logOnly_trans (logOnly_ite (fun _ => logOnly_trans h (logOnly_logFetch _ _ _)) fun _ => h) (logOnly_cacheUse _ q)
    · exact logOnly_count s netCounter_hub.1 1

theorem logOnly_useQueue (s : State) (q : Nat) : LogOnly s (s.useQueue q) :=
  have h := logOnly_fetchDesc s q
  logOnly_ite (fun _ => h) fun _ => logOnly_trans h (logOnly_logFetch _ _ _)

theorem logOnly_postTo (s : State) (q : Nat) (e : List Byte) : LogOnly s (s.postTo q e) :=
  have h := logOnly_fetchDesc s q
  logOnly_ite (fun _ => logOnly_refl s) fun _ => logOnly_ite (fun _ => logOnly_trans h (logOnly_putEvent _ _ _))
    fun _ => logOnly_trans h (logOnly_logFetch _ _ _)

theorem logOnly_post (s : State) (evq : Option Nat) (type status tag queue d3 : Nat) : LogOnly s (s.post evq type status tag queue d3) :=
  logOnly_postTo s _ _

theorem logOnly_logEntry (s : State) (e : LogEntry) : LogOnly s (s.logEntry e) :=
  have h := logOnly_writeLog s e
  logOnly_ite (fun _ => h) fun _ => logOnly_trans h (logOnly_post _ _ _ _ _ _ _)

theorem logOnly_logError (s : State) (cls cause unit ctx eng d5 d6 d7 : Nat) : LogOnly s (s.logError cls cause unit ctx eng d5 d6 d7) :=
  logOnly_logEntry s _

theorem logOnly_barCommit (s : State) (p : Nat × Nat) : LogOnly s (s.barCommit p) := logOnly_of_calm rfl rfl

theorem logOnly_updEntry (s : State) (seq : Nat) (f : LogEntry → LogEntry) : LogOnly s (s.updEntry seq f) := by
  unfold State.updEntry
  split
  · exact logOnly_ite (fun _ => logOnly_of_calm rfl rfl) fun _ => logOnly_refl s
  · exact logOnly_refl s

end Sys2Proof.Proofs
end

section
/-! What accesses of memory and messages leave (R165, R171, R290 to R310, R340): the accesses are `LogOnly`, the messages `NetOnly`. -/
namespace Sys2Proof.Proofs

open Sys2Proof Sys2Proof.Machine Sys2Proof.Laws

theorem netCounter_ce (t : Nat) : NetCounter (rCntCe t) := .inr (.inr (.inr (.inr (.inl ⟨t, .inl rfl⟩))))
theorem netCounter_last (t : Nat) : NetCounter (rEccLast t) := .inr (.inr (.inr (.inr (.inl ⟨t, .inr rfl⟩))))
theorem netCounter_link (p : Nat) :
    NetCounter (rLnkCnt p 0x040) ∧ NetCounter (rLnkCnt p 0x078) ∧ NetCounter (rLnkCnt p 0x080) ∧ NetCounter (rLnkCnt p 0x098) :=
  ⟨.inr (.inr (.inr (.inr (.inr ⟨p, .inl rfl⟩)))), .inr (.inr (.inr (.inr (.inr ⟨p, .inr (.inl rfl)⟩)))),
    .inr (.inr (.inr (.inr (.inr ⟨p, .inr (.inr (.inl rfl))⟩)))), .inr (.inr (.inr (.inr (.inr ⟨p, .inr (.inr (.inr rfl))⟩))))⟩

/-! ### Tile memory (R165) -/

theorem logOnly_eccNote (s : State) (a : Nat) (unc : Bool) : LogOnly s (s.eccNote a unc) := logOnly_setReg s (netCounter_last _) _

theorem logOnly_checkWord (s : State) (a : Nat) : LogOnly s (s.checkWord a).1 := by
  unfold State.checkWord
  split
  · exact logOnly_eccNote s a true
  · split
    · exact logOnly_refl s
    · exact logOnly_after (logOnly_trans (logOnly_count _ (netCounter_ce _) 1) (logOnly_eccNote _ a false)) rfl rfl
    · exact logOnly_after (logOnly_eccNote _ a true) rfl rfl

theorem logOnly_checkWords (ws : List Nat) (s : State) : LogOnly s (s.checkWords ws).1 := by
  induction ws generalizing s with
  | nil => exact logOnly_refl s
  | cons w ws ih =>
    have h := logOnly_checkWord s w
    rw [State.checkWords]
    split
    · exact logOnly_trans h (ih _)
    · exact h

theorem logOnly_readT0 (s : State) (a n : Nat) : LogOnly s (s.readT0 a n).1 := logOnly_checkWords _ s

theorem logOnly_writeWord (s : State) (a : Nat) (bs : List Byte) (w : Nat) : LogOnly s (s.writeWord a bs w).1 := by
  have h := logOnly_checkWord s w
  unfold State.writeWord
  dsimp only
  split
  · exact logOnly_of_calm rfl rfl
  · split
    · exact logOnly_trans h (logOnly_poke _ _ _)
    · exact h

theorem logOnly_writeWords (a : Nat) (bs : List Byte) (ws : List Nat) (s : State) : LogOnly s (s.writeWords a bs ws).1 := by
  induction ws generalizing s with
  | nil => exact logOnly_refl s
  | cons w ws ih =>
    have h := logOnly_trans (logOnly_writeWord s a bs w) (ih _)
    rw [State.writeWords]
    split
    · exact h
    · exact logOnly_trans h (logOnly_eccNote _ w true)

theorem logOnly_writeT0 (s : State) (a : Nat) (bs : List Byte) : LogOnly s (s.writeT0 a bs).1 :=
  logOnly_after (logOnly_writeWords a bs _ _) rfl rfl

/-! ### Memory of the other tiers (R171, R174) -/

theorem logOnly_correctBurst (s : State) (a : Nat) : LogOnly s (s.correctBurst a) := by
  have h := logOnly_countBurst s a
  exact logOnly_ite (fun _ => logOnly_trans h (logOnly_logError _ _ _ _ _ _ _ _ _)) fun _ => h

theorem logOnly_checkBurst (s : State) (a : Nat) : LogOnly s (s.checkBurst a).1 := by
  unfold State.checkBurst
  split
  · exact logOnly_refl s
  · exact logOnly_correctBurst s a
  · exact logOnly_refl s

theorem logOnly_writeBurst (s : State) (a : Nat) (bs : List Byte) (w : Nat) : LogOnly s (s.writeBurst a bs w).1 := by
  have h := logOnly_checkBurst s w
  unfold State.writeBurst
  dsimp only
  split
  · exact logOnly_of_calm rfl rfl
  · split
    · exact logOnly_trans h (logOnly_poke _ _ _)
    · exact h

theorem logOnly_writeBursts (a : Nat) (bs : List Byte) (ws : List Nat) (s : State) : LogOnly s (s.writeBursts a bs ws).1 := by
  induction ws generalizing s with
  | nil => exact logOnly_refl s
  | cons w ws ih => exact logOnly_trans (logOnly_writeBurst s a bs w) (ih _)

theorem logOnly_writeMem (s : State) (a : Nat) (bs : List Byte) : LogOnly s (s.writeMem a bs).1 := by
  unfold State.writeMem
  split
  · exact logOnly_writeT0 s a bs
  · exact logOnly_writeBursts _ _ _ s
  · exact logOnly_poke s a bs

/-! ### The part that messages leave -/

/-- A state without what an access, an entry of the log or a message may change. -/
def core (s : State) : State := { calm s with inbox := [], netWait := [], links := [], out := [], qm := State.reset.qm }

/-- Accesses, entries of the log and messages lead from one state to the other. -/
structure NetOnly (s u : State) : Prop where
  same : core u = core s
  reg : ∀ a, ¬ NetCounter a → u.reg a = s.reg a

section
variable {s t u : State}

theorem LogOnly.netOnly (h : LogOnly s u) : NetOnly s u := ⟨by rw [core, core, h.same], h.reg⟩

theorem netOnly_refl (s : State) : NetOnly s s := (logOnly_refl s).netOnly

theorem netOnly_of_core (hc : core u = core s) (hr : u.regs = s.regs) : NetOnly s u :=
  ⟨hc, fun a _ => by rw [State.reg, hr, State.reg]⟩

theorem netOnly_trans (h : NetOnly s t) (k : NetOnly t u) : NetOnly s u :=
  ⟨k.same.trans h.same, fun a ha => (k.reg a ha).trans (h.reg a ha)⟩

/-- A change of what accesses and messages may change, and then more of them. -/
theorem netOnly_after (k : NetOnly t u) (hc : core t = core s) (hr : t.regs = s.regs) : NetOnly s u := netOnly_trans (netOnly_of_core hc hr) k

theorem netOnly_ite {c : Prop} [Decidable c] (h : c → NetOnly s t) (k : ¬ c → NetOnly s u) : NetOnly s (if c then t else u) := by
  split
  · next hc => exact h hc
  · next hc => exact k hc

theorem netOnly_count (s : State) {a : Nat} (ha : NetCounter a) (n : Nat) : NetOnly s (s.count a n) := (logOnly_count s ha n).netOnly

theorem netOnly_foldl {α : Type} (f : State → α → State) (h : ∀ s x, NetOnly s (f s x)) (xs : List α) (s : State) : NetOnly s (xs.foldl f s) := by
  induction xs generalizing s with
  | nil => exact netOnly_refl s
  | cons x xs ih => exact netOnly_trans (h s x) (ih _)

theorem NetOnly.keeps {α : Type} (h : NetOnly s u) (f : State → α) (hf : ∀ s, f (core s) = f s) : f u = f s := by
  rw [← hf u, h.same, hf]

theorem NetOnly.tiles (h : NetOnly s u) : u.tiles = s.tiles := h.keeps State.tiles fun _ => rfl
theorem NetOnly.job (h : NetOnly s u) : u.job = s.job := h.keeps State.job fun _ => rfl
theorem NetOnly.bufs (h : NetOnly s u) : u.bufs = s.bufs := h.keeps State.bufs fun _ => rfl
theorem NetOnly.belay (h : NetOnly s u) : u.belay = s.belay := h.keeps State.belay fun _ => rfl
theorem NetOnly.book (h : NetOnly s u) : u.book = s.book := h.keeps State.book fun _ => rfl

end

/-! ### Links (R293 to R303) -/

theorem netOnly_emit (s : State) (l : Nat) (f : WireFlit) : NetOnly s (s.emit l f) := netOnly_of_core rfl rfl

theorem netOnly_payCredits (l n : Nat) (s : State) : NetOnly s (s.payCredits l n) := by
  induction n generalizing s with
  | zero => exact netOnly_refl s
  | succ n ih => exact netOnly_ite (fun _ => netOnly_trans (netOnly_emit s l _) (ih _)) fun _ => netOnly_refl s

theorem netOnly_pumpLink (s : State) (l : Nat) : NetOnly s (s.pumpLink l) := by
  unfold State.pumpLink
  extract_lets k r u
  have h : NetOnly s u := netOnly_after (netOnly_count _ (netCounter_link (l / 2)).1 _) rfl rfl
  exact netOnly_ite (fun _ => netOnly_refl s) fun _ =>
    netOnly_trans h (netOnly_trans (netOnly_foldl _ (fun s f => netOnly_emit s l _) _ _) (netOnly_payCredits l 100 _))

theorem netOnly_queueOn (s : State) (l : Nat) (m : Msg) : NetOnly s (s.queueOn l m) := netOnly_after (netOnly_pumpLink _ l) rfl rfl

theorem logOnly_discardEntry (s : State) (l : Nat) (m : Msg) : LogOnly s (s.discardEntry l m) :=
  logOnly_trans (logOnly_ite (fun _ => logOnly_barCommit s _) fun _ => logOnly_refl s) (logOnly_logError ..)

theorem netOnly_discardEntry (s : State) (l : Nat) (m : Msg) : NetOnly s (s.discardEntry l m) :=
  (logOnly_discardEntry s l m).netOnly

theorem netOnly_sendOn (s : State) (l : Nat) (dateline : Bool) (m : Msg) : NetOnly s (s.sendOn l dateline m) :=
  netOnly_ite (fun _ => netOnly_queueOn s l _) fun _ => netOnly_ite (fun _ => netOnly_refl s) fun _ =>
    netOnly_ite (fun _ => netOnly_queueOn s l m) fun _ =>
      netOnly_trans (netOnly_count s (netCounter_link (l / 2)).2.2.2 1) (netOnly_discardEntry _ l m)

/-! ### Rings (R340) -/

theorem netOnly_stage' (s : State) (m : Msg) (dir : Nat) : NetOnly s (s.stage' m dir) := by
  unfold State.stage'
  split
  · exact netOnly_refl s
  · next q _ =>
    extract_lets d n bs u
    have h : NetOnly s u := netOnly_trans (logOnly_useQueue s q).netOnly (logOnly_foldl _ (fun s i => logOnly_writeMem s _ _) _ _).netOnly
    exact netOnly_trans h (netOnly_of_core rfl rfl)

/-! ### Routing (R301 to R305) -/

theorem netOnly_waitForLink (s : State) (m : Msg) : NetOnly s (s.waitForLink m) :=
  netOnly_ite (fun _ => netOnly_of_core rfl rfl) fun _ =>
    netOnly_ite (fun _ => netOnly_trans (netOnly_stage' s m 1) (netOnly_of_core rfl rfl)) fun _ => netOnly_of_core rfl rfl

theorem netOnly_routeBy (s : State) (now : Bool) (port : Nat) (m : Msg) : NetOnly s (s.routeBy now port m) := by
  unfold State.routeBy
  refine netOnly_ite (fun _ => netOnly_trans (netOnly_count s (netCounter_link (port / 2)).2.2.1 1) (netOnly_discardEntry ..)) fun _ =>
    netOnly_ite (fun _ => netOnly_waitForLink s m) fun _ => ?_
  split
  · exact netOnly_sendOn ..
  · exact netOnly_waitForLink s m

theorem netOnly_intoInbox (s : State) (m : Msg) : NetOnly s (s.intoInbox m) :=
  netOnly_ite (fun _ => netOnly_trans (netOnly_stage' s m 0) (netOnly_of_core rfl rfl)) fun _ => netOnly_of_core rfl rfl

theorem netOnly_sendCopy (s : State) (now : Bool) (port : Nat) (m : Msg) : NetOnly s (s.sendCopy now port m) :=
  netOnly_ite (fun _ => netOnly_intoInbox s m) fun _ => netOnly_routeBy s now port m

theorem netOnly_dispatchBy (s : State) (now : Bool) (port : Nat) (m : Msg) : NetOnly s (s.dispatchBy now port m) := by
  unfold State.dispatchBy
  extract_lets one two split'
  have parts : ∀ s, NetOnly s (split' s) := fun s =>
    netOnly_trans (netOnly_sendCopy s now port one) (netOnly_trans (netOnly_sendCopy _ now port two) (netOnly_count _ (netCounter_link (port / 2)).2.1 1))
  refine netOnly_ite (fun _ => netOnly_sendCopy s now port m) fun _ => netOnly_ite (fun _ => parts s) fun _ => ?_
  split
  · exact netOnly_ite (fun _ => parts s) fun _ => netOnly_ite (fun _ => netOnly_waitForLink s m) fun _ => netOnly_sendOn ..
  · exact netOnly_waitForLink s m

theorem netOnly_send (s : State) (dst step att : Nat) (body : MsgBody) : NetOnly s (s.send dst step att body) := by
  rw [State.send, State.dispatchMsg]
  exact netOnly_dispatchBy ..

theorem netOnly_sendBelay (s : State) (dst step : Nat) (b : BelayBody) : NetOnly s (s.sendBelay dst step b) := netOnly_send ..

theorem netOnly_sendAll (s : State) (ds : List Nat) (step att : Nat) (body : MsgBody) : NetOnly s (s.sendAll ds step att body) :=
  netOnly_foldl _ (fun s d => netOnly_send s d step att body) ds s

end Sys2Proof.Proofs
end

section
/-! The records of the route book (R411, R413, R415): what a new record leaves of a state. -/
namespace Sys2Proof.Proofs

open Sys2Proof Sys2Proof.Machine Sys2Proof.Laws

/-- A state without what an access, an entry of the log, a message or a record may change. -/
def bare (s : State) : State :=
  { core s with book := { s.book with recs := [], full := false, asked := false }, belay := { s.belay with expBook := [] } }

/-- Accesses, entries of the log, messages and new records lead from one state to the other. -/
structure RecordsOnly (s u : State) : Prop where
  same : bare u = bare s
  reg : ∀ a, ¬ NetCounter a → u.reg a = s.reg a
  recs : s.book.recs <+: u.book.recs

section
variable {s t u : State}

theorem NetOnly.recordsOnly (h : NetOnly s u) : RecordsOnly s u :=
  ⟨by rw [bare, bare, h.same, h.book, h.belay], h.reg, by rw [h.book]⟩

theorem recordsOnly_refl (s : State) : RecordsOnly s s := (netOnly_refl s).recordsOnly

theorem recordsOnly_trans (h : RecordsOnly s t) (k : RecordsOnly t u) : RecordsOnly s u :=
  ⟨k.same.trans h.same, fun a ha => (k.reg a ha).trans (h.reg a ha), h.recs.trans k.recs⟩

theorem recordsOnly_ite {c : Prop} [Decidable c] (h : c → RecordsOnly s t) (k : ¬ c → RecordsOnly s u) :
    RecordsOnly s (if c then t else u) := by
  split
  · next hc => exact h hc
  · next hc => exact k hc

theorem RecordsOnly.keeps {α : Type} (h : RecordsOnly s u) (f : State → α) (hf : ∀ s, f (bare s) = f s) : f u = f s := by
  rw [← hf u, h.same, hf]

theorem RecordsOnly.tiles (h : RecordsOnly s u) : u.tiles = s.tiles := h.keeps State.tiles fun _ => rfl
theorem RecordsOnly.signals (h : RecordsOnly s u) : u.signals = s.signals := h.keeps State.signals fun _ => rfl
theorem RecordsOnly.tile (h : RecordsOnly s u) (n : Nat) : u.tile n = s.tile n := by rw [State.tile, h.tiles, State.tile]
theorem RecordsOnly.ctx (h : RecordsOnly s u) (l : Loc) : u.ctx l = s.ctx l := by rw [State.ctx, h.tile, State.ctx]

end

theorem recordsOnly_flags (s : State) (f k : Bool) : RecordsOnly s { s with book := { s.book with full := f, asked := k } } :=
  ⟨rfl, fun _ _ => rfl, List.prefix_rfl⟩

/-- The check of the book's share sets two of its flags and may ask the leader (R411). -/
theorem recordsOnly_bookCheck (s : State) : RecordsOnly s s.bookCheck := by
  unfold State.bookCheck
  extract_lets used share src w src'
  have full : RecordsOnly s w := by
    show RecordsOnly s (if share ≤ used then { s with book := { s.book with full := true } } else s)
    split
    · exact recordsOnly_flags s true s.book.asked
    · exact recordsOnly_refl s
  clear_value w
  refine recordsOnly_ite (fun _ => recordsOnly_refl s) fun _ => recordsOnly_ite (fun _ => ?_) fun _ => full
  have asked := recordsOnly_flags w w.book.full true
  have sent := (netOnly_sendBelay { w with book := { w.book with asked := true } } w.leader w.step.no .ask).recordsOnly
  exact recordsOnly_trans full (recordsOnly_trans asked sent)

/-- The book with one record more. -/
def addRec (s : State) (r : RtbRec) : State := { s with book := { s.book with recs := s.book.recs ++ [r] } }

theorem recordsOnly_addRec (s : State) (r : RtbRec) : RecordsOnly s (addRec s r) :=
  ⟨rfl, fun _ _ => rfl, List.prefix_append _ _⟩

theorem recordsOnly_expBook (s : State) (e : List (Nat × RtbRec)) : RecordsOnly s { s with belay := { s.belay with expBook := e } } :=
  ⟨rfl, fun _ _ => rfl, List.prefix_rfl⟩

/-- What a record's copies leave, once it stands in the book: they go to the partner and into the copy that leaves the device (R413, R415). -/
theorem recordsOnly_copies (s : State) (type tile ctx step att : Nat) (body : List Nat) (h : (s.job.baseRun && decide (type ≠ 4)) = false) :
    RecordsOnly (addRec s ⟨type, tile, ctx, step, att, body⟩) (s.record type tile ctx step att body) := by
  unfold State.record
  extract_lets r src t u src' v
  rw [h, if_neg Bool.false_ne_true]
  show RecordsOnly t _
  have sent : RecordsOnly t u := by
    show RecordsOnly t (if type ≤ 7 then (match t.partner with | some p => t.sendBelay p step (.rtbrec r 0) | none => t) else t)
    clear_value t
    split
    · split
      · exact (netOnly_sendBelay ..).recordsOnly
      · exact recordsOnly_refl t
    · exact recordsOnly_refl t
  have exported : RecordsOnly u v := by
    show RecordsOnly u (if type ≤ 7 ∧ bitOf u.exportCtl 0 = true ∧ bitOf u.exportCtl 1 = true then
      { u with belay := { u.belay with expBook := u.belay.expBook ++ [(u.exportAddr, r)] } } else u)
    clear_value u
    split
    · exact recordsOnly_expBook u _
    · exact recordsOnly_refl u
  clear_value v
  exact recordsOnly_trans sent (recordsOnly_trans exported (recordsOnly_bookCheck v))

theorem recordsOnly_record (s : State) (type tile ctx step att : Nat) (body : List Nat) : RecordsOnly s (s.record type tile ctx step att body) := by
  cases h : s.job.baseRun && decide (type ≠ 4)
  · exact recordsOnly_trans (recordsOnly_addRec s _) (recordsOnly_copies s type tile ctx step att body h)
  · rw [State.record, h, if_pos rfl]
    exact recordsOnly_refl s

/-- The record stands in the book; a base camp job keeps decisions alone (R447). -/
theorem mem_record (s : State) {type : Nat} (tile ctx step att : Nat) (body : List Nat) (h : s.job.baseRun = false ∨ type = 4) :
    ⟨type, tile, ctx, step, att, body⟩ ∈ (s.record type tile ctx step att body).book.recs := by
  have kept : (s.job.baseRun && decide (type ≠ 4)) = false := by
    rcases h with h | h <;> simp [h]
  exact (recordsOnly_copies s type tile ctx step att body kept).recs.subset (List.mem_append_right _ (List.mem_singleton_self _))

end Sys2Proof.Proofs
end

section
/-! Semaphores (R144): signals, waits and tests. -/
namespace Sys2Proof.Proofs

open Sys2Proof Sys2Proof.Machine Sys2Proof.Laws

section
variable {s : State} {l : Loc}

/-! ### The state of a turn -/

theorem replaying_issued (s : State) (l : Loc) : (s.issued l).replaying l = s.replaying l := by
  have search : ((s.issued l).tile l.tile).search = (s.tile l.tile).search := by rw [tile_issued]
  rw [State.replaying, State.replaying, Tile.replayed, Tile.replayed, search]

theorem signals_issued (s : State) (l : Loc) : (s.issued l).signals = s.signals := by
  obtain ⟨r, x, h⟩ := regsTiles_issued s l
  rw [h]

theorem ctx_withSignals (s : State) (g : List Signal) (k : Loc) : ({ s with signals := g } : State).ctx k = s.ctx k := rfl

theorem count_withSignals (s : State) (g : List Signal) (a n : Nat) :
    ({ s with signals := g } : State).count a n = { s.count a n with signals := g } := rfl

theorem updTile_withSignals (s : State) (g : List Signal) (t : Nat) (f : Tile → Tile) :
    ({ s with signals := g } : State).updTile t f = { s.updTile t f with signals := g } := rfl

theorem issued_withSignals (s : State) (l : Loc) (g : List Signal) : ({ s with signals := g } : State).issued l = { s.issued l with signals := g } := by
  rw [issued_eq, issued_eq, count_withSignals, updTile_withSignals]

/-- What a fault of a context's own instruction leaves, with no turn counted. -/
theorem ctxFault_insnFaulted_core (s : State) (l : Loc) {cause : Nat} (h : cause < 5 ∨ 8 < cause ∧ cause < 256) :
    InsnFaulted l cause s (s.ctxFault l cause 0 0xE 0 (s.pcAt l)) := by
  have word : cfltWord (s.pcAt l) cause 0 (if 5 ≤ cause ∧ cause ≤ 8 then 0xE else 0) 0 =
      BitVec.ofNat 64 ((s.ctx l).pc.toNat * 2 ^ 40 + cause * 2 ^ 24 + 1) := by
    have := (s.ctx l).pc.isLt
    rw [if_neg (by omega), State.pcAt, cfltWord]
    exact congrArg (BitVec.ofNat 64) (by omega)
  have f := ctxFault_contextFaulted s l cause 0 0xE 0 (s.pcAt l)
  rwa [word] at f

/-! ### Signals -/

/-- The fields of a semaphore's name (R144). -/
theorem semName_fields {v : Nat} {x : TileId} {y : CtxId} {z : Fin 8} (h : v = x.val + 1024 * y.val + 4096 * z.val) :
    fld v 9 0 = x.val ∧ fld v 11 10 = y.val ∧ fld v 14 12 = z.val ∧ fld v 63 15 = 0 := by
  have := x.isLt
  have := y.isLt
  have := z.isLt
  simp only [fld, Nat.shiftRight_eq_div_pow]
  omega

theorem signal_sends {ra : BitVec 5} {imm : BitVec 12} {x : TileId} {y : CtxId} {z : Fin 8} (hr : s.replaying l = false)
    (h : ((s.ctx l).rg ra).toNat = x.val + 1024 * y.val + 4096 * z.val) :
    State.signal l ra imm s = ({ s with signals := s.signals ++ [⟨l.tile, x, y, z, imm.toNat⟩] } : State).advance l := by
  obtain ⟨hx, hy, hz, hi⟩ := semName_fields h
  have valid : fld ((s.ctx l).rg ra).toNat 9 0 < 640 ∧ fld ((s.ctx l).rg ra).toNat 63 15 = 0 := ⟨hx ▸ x.isLt, hi⟩
  unfold State.signal
  dsimp only
  rw [dif_pos valid]
  simp only [hr, hx, hy, hz, Bool.false_eq_true, if_false]

theorem signal_faults {ra : BitVec 5} {imm : BitVec 12} (h : 640 ≤ ((s.ctx l).rg ra).toNat % 1024 ∨ 2 ^ 15 ≤ ((s.ctx l).rg ra).toNat) :
    State.signal l ra imm s = s.insnFault l 0xB := by
  have invalid : ¬ (fld ((s.ctx l).rg ra).toNat 9 0 < 640 ∧ fld ((s.ctx l).rg ra).toNat 63 15 = 0) := by
    have := ((s.ctx l).rg ra).isLt
    simp only [fld, Nat.shiftRight_eq_div_pow]
    omega
  unfold State.signal
  dsimp only
  rw [dif_neg invalid]

theorem advance_issued_signals (s : State) (l : Loc) (g : List Signal) : ({ s.issued l with signals := g } : State).advance l =
    (({ s with signals := g } : State).issued l).setCtx l (s.ctx l).next := by
  rw [← issued_withSignals, State.advance, State.updCtx, ctx_issued, ctx_withSignals]

/-! ### What a taken amount leaves -/

theorem semIdx_ofNat (m : Fin 8) : semIdx (BitVec.ofNat 5 m.val) = m := by
  have := m.isLt
  apply Fin.ext
  simp only [semIdx, BitVec.toNat_ofNat]
  omega

theorem takeSem_of_le {c : Ctx} {m : Fin 8} {n : Nat} (h : n ≤ c.sem[m].toNat) :
    c.takeSem m n = some { c with sem := c.sem.set m (c.sem[m] - BitVec.ofNat 32 n) } := if_pos h

theorem takeSem_of_lt {c : Ctx} {m : Fin 8} {n : Nat} (h : c.sem[m].toNat < n) : c.takeSem m n = none := if_neg (by omega)

/-- The record of an outcome changes no context and no signal (R415). -/
theorem recordsOnly_recordOutcome (s : State) (l : Loc) (r : Recorded) : RecordsOnly s (s.recordOutcome l r) := recordsOnly_record ..

theorem ctx_recordOutcome (s : State) (l : Loc) (r : Recorded) (k : Loc) : (s.recordOutcome l r).ctx k = s.ctx k :=
  (recordsOnly_recordOutcome s l r).ctx k

/-- A context's change and then the record of an outcome: that context alone, and no signal. -/
theorem outcome_recorded (s : State) (l : Loc) (c : Ctx) (r : Recorded) :
    ((s.setCtx l c).recordOutcome l r).ctx l = c ∧ (∀ k, k ≠ l → ((s.setCtx l c).recordOutcome l r).ctx k = s.ctx k) ∧
      ((s.setCtx l c).recordOutcome l r).signals = s.signals :=
  ⟨by rw [ctx_recordOutcome, ctx_setCtx_self], fun k hk => by rw [ctx_recordOutcome, ctx_setCtx, if_neg hk],
    (recordsOnly_recordOutcome ..).signals.trans rfl⟩

theorem semWait_takes {m : Fin 8} {imm : BitVec 12} (hr : s.replaying l = false) (h : imm.toNat ≤ (s.ctx l).sem[m].toNat) :
    State.semWait l (BitVec.ofNat 5 m.val) imm s = (s.setCtx l ({ s.ctx l with
      sem := (s.ctx l).sem.set m ((s.ctx l).sem[m] - BitVec.ofNat 32 imm.toNat) } : Ctx).next.woken).recordOutcome l (.sem m imm.toNat true) := by
  unfold State.semWait
  simp only [semIdx_ofNat, hr, Bool.false_eq_true, if_false, takeSem_of_le h]

theorem semWait_waits {m : Fin 8} {imm : BitVec 12} (hr : s.replaying l = false) (h : (s.ctx l).sem[m].toNat < imm.toNat) :
    State.semWait l (BitVec.ofNat 5 m.val) imm s = s.waitOn l (.sem m imm.toNat) := by
  unfold State.semWait
  simp only [semIdx_ofNat, hr, Bool.false_eq_true, if_false, takeSem_of_lt h]

/-- The amount of a test (R144). -/
theorem semAmount (w : Word) : fld w.toNat 11 0 = w.toNat % 4096 := by
  simp [fld]

theorem semTest_faults {pd : BitVec 3} {a rb : BitVec 5} (h : ((s.ctx l).rg rb).toNat % 4096 = 0) :
    State.semTest l pd a rb s = s.insnFault l 0xC := by
  unfold State.semTest
  dsimp only
  rw [semAmount, if_pos h]

theorem semTest_records {pd : BitVec 3} {m : Fin 8} {rb : BitVec 5} (hr : s.replaying l = false) (h : ((s.ctx l).rg rb).toNat % 4096 ≠ 0) :
    let r := (s.ctx l).takeSem m (((s.ctx l).rg rb).toNat % 4096)
    State.semTest l pd (BitVec.ofNat 5 m.val) rb s =
      (s.setCtx l ((r.getD (s.ctx l)).wp pd r.isSome).next).recordOutcome l (.sem m (((s.ctx l).rg rb).toNat % 4096) r.isSome) := by
  intro r
  unfold State.semTest
  dsimp only
  rw [semAmount, if_neg h, hr, semIdx_ofNat]
  dsimp only
  rw [State.advance, State.updCtx, ctx_setCtx_self, setCtx_setCtx]

theorem semwaitSatisfied_takes {m : Fin 8} {k : Nat} {c : Ctx} (mode : (s.ctx l).mode = .wait) (wait : (s.ctx l).wait = .sem m k)
    (hr : s.replaying l = false) (h : (s.ctx l).takeSem m k = some c) :
    exec (.semwaitSatisfied l) s = .next ((s.setCtx l c.woken).recordOutcome l (.sem m k true)) := by
  show execSemwaitSatisfied l s = _
  simp only [execSemwaitSatisfied, mode, wait, hr, Bool.false_eq_true, if_false, h]

/-! ### Arrival -/

theorem arrival_eq (sig : Signal) (first : s.signals.find? (fun y => decide (y.src = sig.src ∧ y.tile = sig.tile)) = some sig) :
    exec (.semaphoreSignalArrival sig) s =
      .next (let u : State := { s with signals := s.signals.erase sig }
        let l : Loc := ⟨sig.tile, sig.ctx⟩
        let n := ((s.ctx l).sem[sig.sem]).toNat + sig.amount
        let w := u.setCtx l ((s.ctx l).wsem sig.sem (BitVec.ofNat 32 (min n (2 ^ 32 - 1))))
        if n < 2 ^ 32 then w else w.ctxFault l 9 0 0xE 0 (w.pcAt l)) := by
  have turn : s.signalFirst sig = true := decide_eq_true first
  show execSignalArrival sig s = _
  rw [execSignalArrival, if_pos turn]
  rfl

theorem arrival_waits (sig : Signal) (first : s.signals.find? (fun y => decide (y.src = sig.src ∧ y.tile = sig.tile)) ≠ some sig) :
    exec (.semaphoreSignalArrival sig) s = .next s := by
  have turn : ¬ s.signalFirst sig = true := fun h => first (of_decide_eq_true h)
  show execSignalArrival sig s = _
  rw [execSignalArrival, if_neg turn]

theorem sum_eq {x : BitVec 32} {k : Nat} (h : x.toNat + k < 2 ^ 32) : BitVec.ofNat 32 (min (x.toNat + k) (2 ^ 32 - 1)) = x + BitVec.ofNat 32 k := by
  rw [Nat.min_eq_left (by omega)]
  apply BitVec.eq_of_toNat_eq
  simp

end

/-- Settles O15: a signal's two ends, and the three ways of taking an amount. -/
theorem semaphores : Obligations.Semaphores := by
  intro s l g ra rb pd imm m hr himm c v test sub woken
  have turn : (s.issued l).replaying l = false := (replaying_issued s l).trans hr
  have own : (s.issued l).ctx l = c := ctx_issued s l l
  have small : (BitVec.ofNat 5 m.val).toNat ≤ 7 := by
    have := m.isLt
    rw [BitVec.toNat_ofNat]
    omega
  refine ⟨fun hc hg => ⟨fun x y z h => ?_, fun h => ?_, fun h => ?_, fun h => ?_, fun pos h => ?_, fun h => ?_, fun h => ?_⟩,
    fun k mode wait => ⟨fun h => ?_, fun h => ?_⟩, fun x k => ⟨fun first => arrival_waits _ first, fun first h => ?_, fun first h => ?_⟩⟩
  · refine completes_slot rfl (decide_eq_true ⟨rfl, himm⟩) hc hg ?_
    rw [signal_sends turn (by rw [own]; exact h), signals_issued, advance_issued_signals]
    exact turn_issued _ l _
  · refine completes_slot rfl (decide_eq_true ⟨rfl, himm⟩) hc hg ?_
    rw [signal_faults (by rw [own]; exact h)]
    exact insnFault_insnFaulted_core s l (Or.inr (by decide))
  · refine completes_slot rfl (decide_eq_true ⟨rfl, small, himm⟩) hc hg ?_
    rw [semWait_takes turn (by rw [own]; exact h), own]
    obtain ⟨self, others, signals⟩ := outcome_recorded (s.issued l) l
      ({ c with sem := c.sem.set m (c.sem[m] - BitVec.ofNat 32 imm.toNat) } : Ctx).next.woken (.sem m imm.toNat true)
    exact ⟨self, fun k hk => (others k hk).trans (ctx_issued s l k), signals.trans (signals_issued s l)⟩
  · refine completes_setCtx rfl (decide_eq_true ⟨rfl, small, himm⟩) hc hg ?_
    rw [semWait_waits turn (by rw [own]; exact h), waitOn_eq, own]
  · refine completes_slot rfl (decide_eq_true ⟨rfl, small⟩) hc hg ?_
    have takes : c.takeSem m ((c.rg rb).toNat % 4096) = some { c with sem := sub test } := takeSem_of_le h
    rw [semTest_records turn (by rw [own]; exact Nat.ne_of_gt pos), own, takes]
    obtain ⟨self, others, -⟩ := outcome_recorded (s.issued l) l (({ c with sem := sub test } : Ctx).wp pd true).next (.sem m test true)
    exact ⟨self, fun k hk => (others k hk).trans (ctx_issued s l k)⟩
  · refine completes_slot rfl (decide_eq_true ⟨rfl, small⟩) hc hg ?_
    have fails : c.takeSem m ((c.rg rb).toNat % 4096) = none := takeSem_of_lt h
    rw [semTest_records turn (by rw [own]; exact Nat.ne_of_gt (Nat.lt_of_le_of_lt (Nat.zero_le _) h)), own, fails]
    obtain ⟨self, others, -⟩ := outcome_recorded (s.issued l) l (c.wp pd false).next (.sem m test false)
    exact ⟨self, fun k hk => (others k hk).trans (ctx_issued s l k)⟩
  · refine completes_slot rfl (decide_eq_true ⟨rfl, small⟩) hc hg ?_
    rw [semTest_faults (by rw [own]; exact h)]
    exact insnFault_insnFaulted_core s l (Or.inr (by decide))
  · have takes : c.takeSem m k = some { c with sem := sub k } := takeSem_of_le h
    obtain ⟨self, others, -⟩ := outcome_recorded s l ({ c with sem := sub k } : Ctx).woken (.sem m k true)
    exact ⟨_, semwaitSatisfied_takes mode wait hr takes, self, others⟩
  · show execSemwaitSatisfied l s = _
    simp only [execSemwaitSatisfied, mode, wait, hr, Bool.false_eq_true, if_false, c, takeSem_of_lt h]
  · refine ⟨_, arrival_eq ⟨x, l.tile, l.ctx, m, k⟩ first, ?_⟩
    dsimp only
    rw [if_pos h, sum_eq h]
    rfl
  · refine ⟨_, arrival_eq ⟨x, l.tile, l.ctx, m, k⟩ first, ?_⟩
    dsimp only
    have high : 2 ^ 32 ≤ (s.ctx l).sem[m].toNat + k := h
    rw [if_neg (Nat.not_lt.mpr high), Nat.min_eq_right (Nat.le_trans (Nat.sub_le _ _) high)]
    exact ctxFault_insnFaulted_core _ l (Or.inr (by decide))

end Sys2Proof.Proofs
end

section
/-! Save records (R150): what the bytes of a record hold is what was saved. -/
namespace Sys2Proof.Proofs

open Sys2Proof Sys2Proof.Machine Sys2Proof.Laws

/-! ### Numbers as bytes -/

theorem leVal_leBytes (n : Nat) : ∀ v : Nat, leVal (leBytes n v) = v % 256 ^ n := by
  induction n with
  | zero => exact fun v => (Nat.mod_one v).symm
  | succ n ih =>
    intro v
    rw [leBytes, leVal, ih, BitVec.toNat_ofNat, Nat.pow_succ' (m := 256), Nat.mod_mul]

/-- The part of a list between two others. -/
theorem take_drop_middle {α : Type} (a b c : List α) {n m : Nat} (ha : a.length = n) (hb : b.length = m) : ((a ++ (b ++ c)).drop n).take m = b := by
  rw [List.drop_left' ha, List.take_left' hb]

/-- Words as bytes. -/
def wordBytes (ws : List Word) : List Byte := (ws.map (fun w => leBytes 8 w.toNat)).flatten

theorem wordBytes_append (a b : List Word) : wordBytes (a ++ b) = wordBytes a ++ wordBytes b := by
  rw [wordBytes, List.map_append, List.flatten_append, wordBytes, wordBytes]

theorem wordBytes_length (ws : List Word) : (wordBytes ws).length = 8 * ws.length := by
  induction ws with
  | nil => rfl
  | cons w r ih =>
    rw [show wordBytes (w :: r) = leBytes 8 w.toNat ++ wordBytes r from rfl, List.length_append, leBytes_length, ih, List.length_cons]
    omega

/-- A word among the bytes of words. -/
theorem word_of_wordBytes (ws : List Word) (rest : List Byte) {i : Nat} (hi : i < ws.length) :
    BitVec.ofNat 64 (leVal (((wordBytes ws ++ rest).drop (8 * i)).take 8)) = ws[i] := by
  have split : wordBytes ws ++ rest = wordBytes (ws.take i) ++ (leBytes 8 (ws[i]).toNat ++ (wordBytes (ws.drop (i + 1)) ++ rest)) := by
    have parts : ws = ws.take i ++ [ws[i]] ++ ws.drop (i + 1) := by
      rw [List.take_append_getElem hi, List.take_append_drop]
    conv_lhs => rw [parts]
    rw [wordBytes_append, wordBytes_append, show wordBytes [ws[i]] = leBytes 8 (ws[i]).toNat from List.append_nil _]
    simp only [List.append_assoc]
  have before : (wordBytes (ws.take i)).length = 8 * i := by
    rw [wordBytes_length, List.length_take, Nat.min_eq_left (Nat.le_of_lt hi)]
  rw [split, take_drop_middle _ _ _ before (leBytes_length 8 _), leVal_leBytes, show 256 ^ 8 = 2 ^ 64 from rfl,
    Nat.mod_eq_of_lt (ws[i]).isLt, BitVec.ofNat_toNat, BitVec.setWidth_eq]

/-! ### Kind tags as a number -/

theorem tagsVal_lt (tags : List (BitVec 2)) : tagsVal tags < 4 ^ tags.length := by
  induction tags with
  | nil => exact Nat.one_pos
  | cons x r ih =>
    have := x.isLt
    rw [tagsVal, List.length_cons, Nat.pow_succ]
    omega

theorem tag_of_tagsVal (tags : List (BitVec 2)) : ∀ {i : Nat} (hi : i < tags.length), BitVec.ofNat 2 (tagsVal tags / 4 ^ i) = tags[i] := by
  induction tags with
  | nil => exact fun hi => absurd hi (Nat.not_lt_zero _)
  | cons x r ih =>
    intro i hi
    have := x.isLt
    apply BitVec.eq_of_toNat_eq
    cases i with
    | zero =>
      rw [tagsVal, Nat.pow_zero, Nat.div_one, BitVec.toNat_ofNat, List.getElem_cons_zero]
      omega
    | succ i =>
      have high : (x.toNat + 4 * tagsVal r) / 4 = tagsVal r := by omega
      rw [tagsVal, Nat.pow_succ', ← Nat.div_div_eq_div_mul, high, ih (Nat.lt_of_succ_lt_succ hi), List.getElem_cons_succ]

/-! ### The record -/

/-- The words of a record: g, s and t. -/
def savedWords (v : SavedCtx) : List Word := v.g.toList ++ (v.s.toList ++ v.t.toList)

theorem savedWords_length (v : SavedCtx) : (savedWords v).length = 80 := by simp [savedWords]

theorem saved_bytes (v : SavedCtx) : v.bytes = wordBytes (savedWords v) ++ (leBytes 8 v.pc.toNat ++ (leBytes 1 v.p.toNat ++
    (List.replicate 7 0 ++ (leBytes 4 (tagsVal v.tag.toList) ++ List.replicate 364 0)))) := by
  rw [SavedCtx.bytes, savedWords, wordBytes_append, wordBytes_append]
  simp only [List.append_assoc, wordBytes]

theorem saved_bytes_length (v : SavedCtx) : v.bytes.length = 1024 := by
  simp only [saved_bytes, List.length_append, wordBytes_length, savedWords_length, leBytes_length, List.length_replicate]

/-- A word of a record. -/
theorem saved_word (v : SavedCtx) {i : Nat} (hi : i < (savedWords v).length) :
    BitVec.ofNat 64 (leVal ((v.bytes.drop (8 * i)).take 8)) = (savedWords v)[i] := by
  rw [saved_bytes]
  exact word_of_wordBytes _ _ hi

theorem saved_pc (v : SavedCtx) : BitVec.ofNat 24 (leVal ((v.bytes.drop 0x280).take 8)) = v.pc := by
  have := v.pc.isLt
  have before : (wordBytes (savedWords v)).length = 0x280 := by rw [wordBytes_length, savedWords_length]
  rw [saved_bytes, take_drop_middle _ _ _ before (leBytes_length 8 _), leVal_leBytes, Nat.mod_eq_of_lt (by omega), BitVec.ofNat_toNat,
    BitVec.setWidth_eq]

theorem saved_p (v : SavedCtx) : BitVec.ofNat 8 (leVal ((v.bytes.drop 0x288).take 1)) = v.p := by
  have before : (wordBytes (savedWords v) ++ leBytes 8 v.pc.toNat).length = 0x288 := by
    rw [List.length_append, wordBytes_length, savedWords_length, leBytes_length]
  rw [saved_bytes, ← List.append_assoc, take_drop_middle _ _ _ before (leBytes_length 1 _), leVal_leBytes,
    show 256 ^ 1 = 2 ^ 8 from rfl, Nat.mod_eq_of_lt v.p.isLt, BitVec.ofNat_toNat, BitVec.setWidth_eq]

theorem saved_tags (v : SavedCtx) : leVal ((v.bytes.drop 0x290).take 4) = tagsVal v.tag.toList := by
  have small : tagsVal v.tag.toList < 256 ^ 4 := by
    have := tagsVal_lt v.tag.toList
    rwa [Vector.length_toList] at this
  have before : (wordBytes (savedWords v) ++ leBytes 8 v.pc.toNat ++ leBytes 1 v.p.toNat ++ List.replicate 7 0).length = 0x290 := by
    simp only [List.length_append, wordBytes_length, savedWords_length, leBytes_length, List.length_replicate]
  rw [saved_bytes, ← List.append_assoc, ← List.append_assoc, ← List.append_assoc, take_drop_middle _ _ _ before (leBytes_length 4 _),
    leVal_leBytes, Nat.mod_eq_of_lt small]

/-- What a record's bytes hold is what was saved (R150). -/
theorem ofBytes_bytes (v : SavedCtx) : SavedCtx.ofBytes v.loc v.bytes = v := by
  obtain ⟨g, s, t⟩ : (∀ i : Fin 32, BitVec.ofNat 64 (leVal ((v.bytes.drop (8 * i.val)).take 8)) = v.g[i]) ∧
      (∀ i : Fin 16, BitVec.ofNat 64 (leVal ((v.bytes.drop (8 * (32 + i.val))).take 8)) = v.s[i]) ∧
      ∀ i : Fin 32, BitVec.ofNat 64 (leVal ((v.bytes.drop (8 * (48 + i.val))).take 8)) = v.t[i] := by
    have len := savedWords_length v
    refine ⟨fun i => ?_, fun i => ?_, fun i => ?_⟩
    · rw [saved_word v (by omega)]
      simp [savedWords]
    · rw [saved_word v (by omega)]
      simp [savedWords]
    · rw [saved_word v (by omega)]
      have past : ¬ 48 + i.val < 32 ∧ ¬ 48 + i.val - 32 < 16 := by omega
      simp [savedWords, List.getElem_append, past, show 48 + i.val - 32 - 16 = i.val by omega]
  have tag : ∀ i : Fin 16, BitVec.ofNat 2 (tagsVal v.tag.toList / 4 ^ i.val) = v.tag[i] := fun i =>
    (tag_of_tagsVal v.tag.toList (by rw [Vector.length_toList]; exact i.isLt)).trans (Vector.getElem_toList _)
  have parts : SavedCtx.ofBytes v.loc v.bytes = ⟨v.loc, Vector.ofFn (fun i : Fin 32 => v.g[i]), Vector.ofFn (fun i : Fin 16 => v.s[i]),
      Vector.ofFn (fun i : Fin 16 => v.tag[i]), Vector.ofFn (fun i : Fin 32 => v.t[i]), v.p, v.pc⟩ := by
    unfold SavedCtx.ofBytes
    simp only [saved_tags, saved_p, saved_pc, g, s, t, tag]
  simpa using parts

end Sys2Proof.Proofs
end

section
/-! `step.commit` in a context (R148 to R150, R214, R411). -/
namespace Sys2Proof.Proofs

open Sys2Proof Sys2Proof.Machine Sys2Proof.Laws

/-! ### What the image says of a context -/

section
variable {s u : State}

theorem sectionOf_congr (h : u.job = s.job) (t : Nat) : u.sectionOf t = s.sectionOf t := by rw [State.sectionOf, h, State.sectionOf]

theorem stepSet_congr (h : u.job = s.job) (t : Nat) : u.stepSet t = s.stepSet t := by rw [State.stepSet, sectionOf_congr h, State.stepSet]

theorem learning_congr (h : u.job = s.job) (n : Nat) : u.learning n = s.learning n := by rw [State.learning, h, State.learning]

theorem offPhase_congr (h : u.job = s.job) (l : Loc) (n : Nat) : u.offPhase l n = s.offPhase l n := by
  rw [State.offPhase, h, sectionOf_congr h, learning_congr h, State.offPhase]

theorem pairAt_congr (hs : u.step = s.step) (t : Option Nat) (hp : ∀ n, t = some n → (u.tile n).passed = (s.tile n).passed) :
    u.pairAt t = s.pairAt t := by
  unfold State.pairAt
  rw [hs]
  split
  · next n => rw [hp _ rfl]
  · rfl
  · rfl

theorem job_issued (s : State) (l : Loc) : (s.issued l).job = s.job := by
  obtain ⟨r, x, h⟩ := regsTiles_issued s l
  rw [h]

theorem step_issued (s : State) (l : Loc) : (s.issued l).step = s.step := by
  obtain ⟨r, x, h⟩ := regsTiles_issued s l
  rw [h]

theorem pairAt_issued (s : State) (l : Loc) (t : Option Nat) : (s.issued l).pairAt t = s.pairAt t :=
  pairAt_congr (step_issued s l) t fun n _ => by rw [tile_issued]

theorem saveAddr_issued (s : State) (l : Loc) : (s.issued l).saveAddr l = s.saveAddr l := by
  have other : rCsave l.tile l.ctx ≠ rCntInsn l.tile := by
    have := l.ctx.isLt
    simp only [rCsave, rCntInsn, ne_eq]
    exact tileReg_ne _ _ (by omega)
  rw [State.saveAddr, reg_issued_ne s l other, State.saveAddr]

theorem stepAllowed_issued (s : State) (l : Loc) (p : StepPos) :
    (s.issued l).stepAllowed l p = decide (l.ctx.val ∈ s.stepSet l.tile ∧ (s.ctx l).step = p) := by
  simp only [State.stepAllowed, stepSet_congr (job_issued s l), ctx_issued]

/-! ### A context that sits its step out -/

/-- The context at the decision of a step that it does not run. -/
def sitting (s : State) (l : Loc) (c : Ctx) : Ctx :=
  { c with mode := .wait, wait := .decision 0, step := .arrived, arrSerial := (s.tile l.tile).serial }

theorem ctx_sitOut (s : State) (l : Loc) (n : Nat) (k : Loc) :
    (s.sitOut l n).ctx k = if k = l ∧ s.offPhase l n = true then sitting s l (s.ctx l) else s.ctx k := by
  unfold State.sitOut
  cases s.offPhase l n
  · simp
  · simp [ctx_updCtx, sitting]

theorem byte_sitOut (s : State) (l : Loc) (n b : Nat) : (s.sitOut l n).byte b = s.byte b := by
  unfold State.sitOut
  split
  · rw [byte_updCtx]
  · rfl

end

/-! ### Records in memory -/

theorem bytes_poke_self (s : State) (a : Nat) (bs : List Byte) : (s.poke a bs).bytes a bs.length = bs := by
  refine List.ext_getElem (by rw [State.bytes, List.length_map, List.length_range]) fun i hi hi' => ?_
  simp only [State.bytes, List.getElem_map, List.getElem_range]
  rw [byte_poke, dif_pos (by omega)]
  simp

/-- A save record is written whole, whatever its words held (R150, R165). -/
theorem writeSave_stores (s : State) (l : Loc) (pc : BitVec 24) :
    (s.writeSave l pc).2 = true ∧ BytesOnly s (s.writeSave l pc).1 ∧
      ∀ b, (s.writeSave l pc).1.byte b = (s.poke (s.saveAddr l) ((s.ctx l).saved l pc).bytes).byte b := by
  refine writeT0_stores fun w hw => Or.inr ?_
  obtain ⟨-, w8, lo, hi⟩ := mem_wordsOf.mp hw
  rw [saved_bytes_length] at hi ⊢
  have aligned : s.saveAddr l % 1024 = 0 := by
    simp only [State.saveAddr, sram, tileSpan]
    omega
  omega

/-- A context at the start of its step, by what the read of its record gave. -/
def afterSaveRead (s : State) (l : Loc) (x : State × Option (List Byte)) : State :=
  match x.2 with
  | some bs => (x.1.updCtx l (fun c => { c.restore (SavedCtx.ofBytes l bs) with step := .start, prog := c.progStart })).sitOut l
      (s.pairAt (some l.tile)).1
  | none => x.1.ctxMemError l 1

theorem loadSave_eq (s : State) (l : Loc) : s.loadSave l = afterSaveRead s l (s.readT0 (s.saveAddr l) 1024) := rfl

/-- A record whose words have no error is what the context starts from (R149, R150). -/
theorem rewindCtx_clean {s : State} {l : Loc} {v : SavedCtx} (clean : CleanT0 s (s.saveAddr l) 1024) (held : s.bytes (s.saveAddr l) 1024 = v.bytes)
    (own : v.loc = l) : s.rewindCtx l =
      ((s.updCtx l (fun c => { c.restore v with step := .start, prog := c.progStart })).sitOut l (s.pairAt (some l.tile)).1).updCtx l
        (fun c => { c with epoch := c.epoch + 1 }) := by
  have read : SavedCtx.ofBytes l (s.bytes (s.saveAddr l) 1024) = v := by
    rw [held, ← own, ofBytes_bytes]
  rw [State.rewindCtx, loadSave_eq, readT0_clean _ _ _ clean, afterSaveRead]
  simp only [read]

/-- The context as its record restores it. -/
def restored (c : Ctx) (v : SavedCtx) : Ctx := { c.restore v with step := .start, prog := c.progStart, epoch := c.epoch + 1 }

/-- What a rewind leaves (R149, R150). -/
theorem rewindCtx_leaves {s : State} {l : Loc} {v : SavedCtx} (clean : CleanT0 s (s.saveAddr l) 1024) (held : s.bytes (s.saveAddr l) 1024 = v.bytes)
    (own : v.loc = l) :
    (∀ k, (s.rewindCtx l).ctx k = if k = l then
        (if s.offPhase l (s.pairAt (some l.tile)).1 then sitting s l (restored (s.ctx l) v) else restored (s.ctx l) v) else s.ctx k) ∧
      SameBytes s (s.rewindCtx l) := by
  rw [rewindCtx_clean clean held own]
  refine ⟨fun k => ?_, fun b => by rw [byte_updCtx, byte_sitOut, byte_updCtx]⟩
  have job : ∀ f : Ctx → Ctx, (s.updCtx l f).job = s.job := fun _ => rfl
  have serial : ∀ f : Ctx → Ctx, ((s.updCtx l f).tile l.tile).serial = (s.tile l.tile).serial := fun f => by
    rw [State.updCtx, tile_setCtx, if_pos rfl, Tile.setCtx]
  rw [ctx_updCtx, ctx_sitOut, ctx_sitOut, offPhase_congr (job _), ctx_updCtx_self, ctx_updCtx, sitting, serial]
  by_cases hk : k = l
  · rw [if_pos hk, if_pos hk]
    cases s.offPhase l (s.pairAt (some l.tile)).1
    · rw [if_neg (fun h => Bool.false_ne_true h.2), if_neg Bool.false_ne_true]
      rfl
    · rw [if_pos ⟨rfl, rfl⟩, if_pos rfl]
      rfl
  · rw [if_neg hk, if_neg hk, if_neg fun h => hk h.1, if_neg hk]

/-! ### The sub-operations -/

section
variable {s : State} {l : Loc} {g : Guard}

theorem arrive_faults (h : s.stepAllowed l .start = false) : State.arrive l s = s.insnFault l 0xA := by
  unfold State.arrive
  simp only [h, Bool.not_false, if_true]

/-- The context as it stands arrived (R149). -/
def arrivedCtx (c : Ctx) (n : Nat) : Ctx := { c.next.progress 0 with step := .arrived, arrSerial := n }

/-- The arrival record holds the context as it issued its `arrive`, with the PC after it (R265). -/
theorem saved_arrivedCtx (c : Ctx) (l : Loc) (n : Nat) : let v := (arrivedCtx c n).saved l c.next.pc
    v.loc = l ∧ v.g = c.g ∧ v.s = c.s ∧ v.tag = c.tag ∧ v.t = c.t ∧ v.p = c.p ∧ v.pc = c.next.pc := by
  simp only [arrivedCtx, Ctx.saved, Ctx.next, Ctx.progress, and_self]

/-- A state with other arrival records. -/
def withArrivals (s : State) (a : List SavedCtx) : State := { s with step := { s.step with arrivals := a } }

theorem ctx_withArrivals (s : State) (a : List SavedCtx) (k : Loc) : (withArrivals s a).ctx k = s.ctx k := rfl

theorem byte_withArrivals (s : State) (a : List SavedCtx) (b : Nat) : (withArrivals s a).byte b = s.byte b := rfl

theorem arrive_allowed (h : s.stepAllowed l .start = true) (hr : s.replaying l = false) : ∃ rest, State.arrive l s =
    withArrivals (s.updCtx l (fun c => arrivedCtx c (s.tile l.tile).serial))
      (rest ++ [(arrivedCtx (s.ctx l) (s.tile l.tile).serial).saved l (s.ctx l).next.pc]) := by
  unfold State.arrive
  have same : ∀ f : Ctx → Ctx, (s.updCtx l f).replaying l = false := by
    intro f
    have search : ((s.updCtx l f).tile l.tile).search = (s.tile l.tile).search := by
      rw [State.updCtx, tile_setCtx, if_pos rfl, Tile.setCtx]
    rw [State.replaying, Tile.replayed, search]
    exact hr
  simp only [h, Bool.not_true, Bool.false_eq_true, if_false, same, ctx_updCtx_self]
  exact ⟨_, rfl⟩

/-- What an `arrive` leaves (R149, R265). -/
theorem arrive_leaves (h : s.stepAllowed l .start = true) (hr : s.replaying l = false) :
    (∀ k, (State.arrive l s).ctx k = if k = l then arrivedCtx (s.ctx l) (s.tile l.tile).serial else s.ctx k) ∧ SameBytes s (State.arrive l s) ∧
      (arrivedCtx (s.ctx l) (s.tile l.tile).serial).saved l (s.ctx l).next.pc ∈ (State.arrive l s).step.arrivals := by
  obtain ⟨rest, eq⟩ := arrive_allowed h hr
  rw [eq]
  refine ⟨fun k => ?_, fun b => ?_, List.mem_append_right _ (List.mem_singleton_self _)⟩
  · rw [ctx_withArrivals, ctx_updCtx]
  · rw [byte_withArrivals, byte_updCtx]

theorem awaitDecision_faults {pd : BitVec 3} (h : s.stepAllowed l .arrived = false) : State.awaitDecision l pd s = s.insnFault l 0xA := by
  unfold State.awaitDecision
  simp only [h, Bool.not_false, if_true]

theorem stepDone_faults (h : s.stepAllowed l .decidedCommit = false) : State.stepDone l s = s.insnFault l 0xA := by
  unfold State.stepDone
  simp only [h, Bool.not_false, if_true]

theorem stepRewind_faults (h : s.stepAllowed l .decidedDiscard = false) : State.stepRewind l s = s.insnFault l 0xA := by
  rw [State.stepRewind, h, if_neg Bool.false_ne_true]

/-- A context outside its step set, or at another place of the step, is faulted with cause 0x0A (R149). -/
theorem slot_faults {i : Instr} {act : State → State} {p : StepPos} (run : exec i s = .next (s.slot l g true act)) (hc : s.canIssue l = true)
    (hg : (s.ctx l).passes g = true) (h : ¬ (l.ctx.val ∈ s.stepSet l.tile ∧ (s.ctx l).step = p))
    (faults : (s.issued l).stepAllowed l p = false → act (s.issued l) = (s.issued l).insnFault l 0xA) : Completes i s (InsnFaulted l 0xA s) := by
  refine completes_slot run rfl hc hg ?_
  rw [faults ((stepAllowed_issued s l p).trans (decide_eq_false h))]
  exact insnFault_insnFaulted_core s l (Or.inr (by decide))

theorem awaitDecision_waits {pd : BitVec 3} (h : s.stepAllowed l .arrived = true) (hr : s.replaying l = false) (hd : (s.tile l.tile).decision = none) :
    State.awaitDecision l pd s = s.setCtx l { (s.ctx l).next with mode := .wait, wait := .decision pd } := by
  unfold State.awaitDecision
  simp only [h, hr, hd, Bool.not_true, Bool.false_eq_true, if_false, ite_self, waitOn_eq]

theorem awaitDecision_decided {pd : BitVec 3} {d : Decision} (h : s.stepAllowed l .arrived = true) (hr : s.replaying l = false)
    (he : (s.ctx l).epoch ≤ (s.tile l.tile).bounds) (hd : (s.tile l.tile).decision = some d) (run : d ≠ .halt) :
    State.awaitDecision l pd s = s.setCtx l ((s.ctx l).next.decided pd d) := by
  unfold State.awaitDecision
  simp only [h, hr, hd, he, run, Bool.not_true, Bool.false_eq_true, if_false, if_true]

theorem stepDone_allowed (h : s.stepAllowed l .decidedCommit = true) : State.stepDone l s =
    (((s.writeSave l (s.ctx l).next.pc).1.dropOutcomes l).updCtx l Ctx.doneStep).sitOut l ((s.pairAt (some l.tile)).1 + 1) := by
  unfold State.stepDone
  simp only [h, Bool.not_true, Bool.false_eq_true, if_false, (writeSave_stores s l (s.ctx l).next.pc).1, if_true]

end

theorem wp_next (c : Ctx) (pd : BitVec 3) (v : Bool) : c.next.wp pd v = (c.wp pd v).next := by
  rw [Ctx.wp, Ctx.wp]
  split <;> rfl

theorem wp_prog (c : Ctx) (pd : BitVec 3) (v : Bool) : (c.wp pd v).prog = c.prog := by
  rw [Ctx.wp]
  split <;> rfl

theorem decided_eq (c : Ctx) (pd : BitVec 3) (d : Decision) : c.next.decided pd d = { (c.wp pd (Decision.advances d)).next with
    step := if Decision.advances d then .decidedCommit else .decidedDiscard, prog := c.prog.set 0 (c.prog[0] + 1), mode := .run, wait := .none } := by
  have prog := wp_prog c pd (Decision.advances d)
  rw [Ctx.decided, wp_next]
  simp [Ctx.woken, Ctx.progress, Ctx.next, prog]

/-- A context past its `done`, whether it runs or sits the next step out. -/
theorem doneStep_fields (c : Ctx) : c.doneStep.pc = c.next.pc ∧ c.doneStep.prog = c.prog.set 0 (c.prog[0] + 1) ∧ c.doneStep.epoch = c.epoch + 1 ∧
    c.doneStep.step = .start ∧ c.doneStep.mode = c.mode ∧ c.doneStep.g = c.g ∧ c.doneStep.p = c.p ∧ c.doneStep.s = c.s ∧ c.doneStep.t = c.t ∧
    c.doneStep.sem = c.sem := by
  simp only [Ctx.doneStep, Ctx.next, Ctx.progress, Fin.isValue, Fin.getElem_fin, Fin.val_zero, and_self]

/-- What `done` leaves (R149, R150): the record, and the context past its step. -/
theorem stepDone_leaves {s : State} {l : Loc} (h : s.stepAllowed l .decidedCommit = true) :
    let n := (s.pairAt (some l.tile)).1 + 1
    let done := (s.ctx l).doneStep
    (∀ k, (State.stepDone l s).ctx k = if k = l then (if s.offPhase l n then sitting s l done else done) else s.ctx k) ∧
      ∀ b, (State.stepDone l s).byte b = (s.poke (s.saveAddr l) ((s.ctx l).saved l (s.ctx l).next.pc).bytes).byte b := by
  intro n done
  obtain ⟨-, only, bytes⟩ := writeSave_stores s l (s.ctx l).next.pc
  rw [stepDone_allowed h]
  generalize (s.writeSave l (s.ctx l).next.pc).1 = w at only bytes ⊢
  have tiles : (w.dropOutcomes l).tiles = s.tiles := (show w.tiles = s.tiles from bytesOnly_tiles only)
  have job : (w.dropOutcomes l).job = s.job := by
    obtain ⟨m, p, q, rfl, -⟩ := only
    rfl
  have ctx : ∀ k, (w.dropOutcomes l).ctx k = s.ctx k := fun k => by rw [State.ctx, State.tile, tiles, State.ctx, State.tile]
  refine ⟨fun k => ?_, fun b => ?_⟩
  · have phase : ((w.dropOutcomes l).updCtx l Ctx.doneStep).offPhase l n = s.offPhase l n := offPhase_congr job l n
    have serial : (((w.dropOutcomes l).updCtx l Ctx.doneStep).tile l.tile).serial = (s.tile l.tile).serial := by
      rw [State.updCtx, tile_setCtx, if_pos rfl, State.tile, tiles]
      rfl
    rw [ctx_sitOut, phase, ctx_updCtx_self, ctx_updCtx, ctx, ctx, sitting, serial]
    by_cases hk : k = l
    · rw [if_pos hk, if_pos hk]
      exact if_congr (and_iff_right hk) rfl rfl
    · rw [if_neg hk, if_neg hk, if_neg fun h => hk h.1]
  · rw [byte_sitOut, byte_updCtx]
    exact bytes b

/-- Settles O17: each sub-operation where the step allows it, and the faults by `slot_faults`. -/
theorem stepCommitOfAContext : Obligations.StepCommitOfAContext := by
  intro s l g pd hc hg hr c x inSet prog a others
  have turn : (s.issued l).replaying l = false := (replaying_issued s l).trans hr
  have own : (s.issued l).ctx l = c := ctx_issued s l l
  have allowed : ∀ p, inSet → c.step = p → (s.issued l).stepAllowed l p = true := fun p hi hp =>
    (stepAllowed_issued s l p).trans (decide_eq_true ⟨hi, hp⟩)
  have place : s.saveAddr l = a := by
    simp only [State.saveAddr, sram, tileSpan, wfld, fld, a, Nat.shiftRight_zero, Nat.reduceAdd, Nat.sub_zero, Nat.reducePow]
  have mode : c.mode = .run := by
    have := hc
    simp only [State.canIssue, Bool.and_eq_true, decide_eq_true_eq] at this
    exact this.1.1.1
  have decided : ∀ d, inSet → c.step = .arrived → c.epoch ≤ x.bounds → x.decision = some d → d ≠ .halt →
      Completes (.stepCommitWait l g pd) s (Turn l { (c.wp pd (Decision.advances d)).next with
        step := if Decision.advances d then .decidedCommit else .decidedDiscard, prog := prog, mode := .run, wait := .none } s) := by
    intro d hi hp he hd run
    refine completes_setCtx rfl rfl hc hg ?_
    rw [awaitDecision_decided (allowed _ hi hp) turn (by rw [own, tile_issued]; exact he) (by rw [tile_issued]; exact hd) run, own, decided_eq]
  refine ⟨fun hi hp full => ?_, fun hi hp full => ?_, fun hi hp he => ⟨fun hd => ?_, fun hd => ?_, fun hd => ?_⟩, fun hi hp => ?_,
    fun v hi hp clean held hv => ?_, fun h => ?_, fun h => slot_faults rfl hc hg h awaitDecision_faults,
    fun h => slot_faults rfl hc hg h stepDone_faults, fun h => slot_faults rfl hc hg h stepRewind_faults⟩
  · have run : exec (.stepCommitArrive l g) s = .next { s with book := { s.book with held := withOne s.book.held (l.tile.val, l.ctx.val) } } := by
      show execStepCommitArrive l g s = _
      have step : s.stepAllowed l .start = true := decide_eq_true ⟨hi, hp⟩
      rw [execStepCommitArrive, full, step, hg]
      rfl
    refine ⟨_, run, rfl, ?_⟩
    show _ ∈ withOne s.book.held (l.tile.val, l.ctx.val)
    unfold withOne
    split
    · assumption
    · simp
  · have run : exec (.stepCommitArrive l g) s = .next (s.slot l g true (State.arrive l)) := by
      show execStepCommitArrive l g s = _
      rw [execStepCommitArrive, full, Bool.false_and, Bool.false_and, if_neg Bool.false_ne_true]
    refine completes_slot run rfl hc hg ?_
    obtain ⟨ctxs, bytes, arrival⟩ := arrive_leaves (allowed _ hi hp) turn
    rw [own, tile_issued] at ctxs arrival
    refine ⟨fun k hk => ?_, fun b => (bytes b).trans (byte_issued s l b), (ctxs l).trans (if_pos rfl), _, arrival, saved_arrivedCtx c l _⟩
    rw [ctxs, if_neg hk, ctx_issued]
  · rcases hd with hd | hd
    · exact decided _ hi hp he hd (by decide)
    · exact decided _ hi hp he hd (by decide)
  · exact decided _ hi hp he hd (by decide)
  · refine completes_setCtx rfl rfl hc hg ?_
    rw [awaitDecision_waits (allowed _ hi hp) turn (by rw [tile_issued]; exact hd), own]
  · refine completes_slot rfl rfl hc hg ?_
    obtain ⟨ctxs, bytes⟩ := stepDone_leaves (allowed _ hi hp)
    rw [own] at ctxs bytes
    rw [saveAddr_issued] at bytes
    have stored : ∀ b, (State.stepDone l (s.issued l)).byte b = (s.poke a (c.saved l c.next.pc).bytes).byte b := fun b => by
      rw [bytes, byte_poke, byte_poke, byte_issued, place]
    have len := saved_bytes_length (c.saved l c.next.pc)
    refine And.intro (fun k hk => ?_) (And.intro (fun b hb => ?_) (And.intro ?_ ?_))
    · rw [ctxs, if_neg hk, ctx_issued]
    · rw [stored, byte_poke, dif_neg (by rwa [len])]
    · rw [bytes_congr stored, ← len, bytes_poke_self]
    · have self := (ctxs l).trans (if_pos rfl)
      rw [offPhase_congr (job_issued s l), pairAt_issued] at self
      obtain ⟨pc, progress, epoch, step, running, regs⟩ := doneStep_fields c
      cases phase : s.offPhase l ((s.pairAt (some l.tile)).1 + 1)
      · rw [phase, if_neg Bool.false_ne_true] at self
        rw [if_neg Bool.false_ne_true, self]
        exact ⟨pc, progress, epoch, ⟨step, running.trans mode⟩, regs⟩
      · rw [phase, if_pos rfl] at self
        rw [if_pos rfl, self]
        exact ⟨pc, progress, epoch, ⟨rfl, rfl, rfl⟩, regs⟩
  · refine completes_slot rfl rfl hc hg ?_
    have record : CleanT0 (s.issued l) ((s.issued l).saveAddr l) 1024 := by
      rw [saveAddr_issued, place]
      exact cleanT0_issued clean l
    have bytes : (s.issued l).bytes ((s.issued l).saveAddr l) 1024 = v.bytes := by
      rw [saveAddr_issued, place, bytes_issued, held]
    have run : State.stepRewind l (s.issued l) = (s.issued l).rewindCtx l := by
      rw [State.stepRewind, allowed _ hi hp, if_pos rfl]
    obtain ⟨ctxs, same⟩ := rewindCtx_leaves record bytes hv
    rw [run]
    refine ⟨fun k hk => by rw [ctxs, if_neg hk, ctx_issued], fun b => (same b).trans (byte_issued s l b), ?_⟩
    have self := (ctxs l).trans (if_pos rfl)
    rw [offPhase_congr (job_issued s l), pairAt_issued, own] at self
    cases phase : s.offPhase l (s.pairAt (some l.tile)).1
    · rw [phase, if_neg Bool.false_ne_true] at self
      rw [if_neg Bool.false_ne_true, self]
      exact ⟨rfl, rfl, rfl, rfl, rfl, rfl, rfl, rfl, rfl⟩
    · rw [phase, if_pos rfl] at self
      rw [if_pos rfl, self]
      exact ⟨rfl, rfl, rfl, rfl, rfl, rfl, rfl, rfl, rfl⟩
  · have run : exec (.stepCommitArrive l g) s = .next (s.slot l g true (State.arrive l)) := by
      have off : s.stepAllowed l .start = false := decide_eq_false h
      show execStepCommitArrive l g s = _
      rw [execStepCommitArrive, off, Bool.and_false, Bool.false_and, if_neg Bool.false_ne_true]
    exact slot_faults run hc hg h arrive_faults

end Sys2Proof.Proofs
end

section
/-! Messages that this device sends: what goes out for one without a ring (R300, R301, R304). -/
namespace Sys2Proof.Proofs

open Sys2Proof Sys2Proof.Machine Sys2Proof.Laws

section
variable {s : State} {m : Msg}

/-! ### Messages without a ring (R340) -/

theorem rowRing_none (h : rowTable m.body = none) (dir : Nat) : s.rowRing m dir = none := by rw [State.rowRing, h]; rfl

theorem ringFits_of_no_ring (h : rowTable m.body = none) (dir : Nat) : s.ringFits m dir = true := by
  simp [State.ringFits, State.ringFar, rowRing_none h]

theorem stage'_of_no_ring (h : rowTable m.body = none) (dir : Nat) : s.stage' m dir = s := by
  rw [State.stage', rowRing_none h]

theorem mustStage_of_no_ring (h : rowTable m.body = none) : s.mustStage m = s.behind m := by
  simp [State.mustStage, rowRing_none h]

theorem intoInbox_of_no_ring (h : rowTable m.body = none) : s.intoInbox m = { s with inbox := s.inbox ++ [m] } := by
  rw [State.intoInbox, if_pos (ringFits_of_no_ring h 0), stage'_of_no_ring h]

theorem waitForLink_of_no_ring (h : rowTable m.body = none) (free : s.qm.backlog.any (sameFlow m) = false) :
    s.waitForLink m = { s with netWait := s.netWait ++ [m] } := by
  rw [State.waitForLink, ringFits_of_no_ring h, free, stage'_of_no_ring h]
  simp

theorem waitForLink_inbox (h : rowTable m.body = none) : (s.waitForLink m).inbox = s.inbox := by
  unfold State.waitForLink
  rw [stage'_of_no_ring h]
  split
  · rfl
  · split <;> rfl

/-! ### Links (R293, R298) -/

/-- A state without what the wires carry, and the counters of it. -/
def offWire (s : State) : State := { s with links := [], out := [], regs := [] }

theorem offWire_keeps {α : Type} {u : State} (h : offWire u = offWire s) (f : State → α) (hf : ∀ s, f (offWire s) = f s) : f u = f s := by
  rw [← hf u, h, hf]

theorem offWire_emits (l : Nat) (fs : List TxFlit) (s : State) : offWire (fs.foldl (fun s f => s.emitFlit l f) s) = offWire s := by
  induction fs generalizing s with
  | nil => rfl
  | cons f fs ih => exact ih _

theorem offWire_payCredits (l n : Nat) (s : State) : offWire (s.payCredits l n) = offWire s := by
  induction n generalizing s with
  | zero => rfl
  | succ n ih =>
    rw [State.payCredits]
    split
    · exact ih _
    · rfl

theorem offWire_pumpLink (s : State) (l : Nat) : offWire (s.pumpLink l) = offWire s := by
  unfold State.pumpLink
  extract_lets k r u
  split
  · rfl
  · rw [offWire_payCredits, offWire_emits]
    rfl

theorem offWire_queueOn (s : State) (l : Nat) (m : Msg) : offWire (s.queueOn l m) = offWire s := offWire_pumpLink _ l

theorem link_updLink (s : State) (l : Nat) (f : Link → Link) (j : Nat) : (s.updLink l f).link j = if j = l then f (s.link l) else s.link j :=
  smap_get_put _ _ _ _ _

/-- The link's unacknowledged and waiting flits are the same ones. -/
def SameFlits (k j : Link) : Prop := j.retry = k.retry ∧ j.queue = k.queue

theorem sameFlits_emit (s : State) (l : Nat) (f : WireFlit) (j : Nat) : SameFlits (s.link j) ((s.emit l f).link j) := by
  unfold State.emit
  extract_lets f' u
  rw [link_updLink]
  split
  · next h =>
    subst h
    split
    · exact ⟨rfl, rfl⟩
    · exact ⟨rfl, rfl⟩
  · exact ⟨rfl, rfl⟩

theorem SameFlits.trans {a b c : Link} (h : SameFlits a b) (k : SameFlits b c) : SameFlits a c := ⟨k.1.trans h.1, k.2.trans h.2⟩

theorem SameFlits.begins {a b : Link} (h : SameFlits a b) (m : Msg) : begins b m = begins a m := by rw [Machine.begins, h.1, h.2, Machine.begins]

theorem sameFlits_emits (l : Nat) (fs : List TxFlit) (s : State) (j : Nat) :
    SameFlits (s.link j) ((fs.foldl (fun s f => s.emitFlit l f) s).link j) := by
  induction fs generalizing s with
  | nil => exact ⟨rfl, rfl⟩
  | cons f fs ih => exact (sameFlits_emit s l _ j).trans (ih _)

theorem sameFlits_payCredits (l n : Nat) (s : State) (j : Nat) : SameFlits (s.link j) ((s.payCredits l n).link j) := by
  induction n generalizing s with
  | zero => exact ⟨rfl, rfl⟩
  | succ n ih =>
    rw [State.payCredits]
    split
    · exact (sameFlits_emit s l _ j).trans (ih _)
    · exact ⟨rfl, rfl⟩

theorem takeCredit_sameFlits {k j : Link} {vc : Nat} (h : k.takeCredit vc = some j) : SameFlits k j := by
  unfold Link.takeCredit at h
  split at h
  · split at h
    · cases h; exact ⟨rfl, rfl⟩
    · split at h
      · cases h; exact ⟨rfl, rfl⟩
      · cases h
  · cases h

/-- A flit that is sent waits no more and is unacknowledged: no message begins or ends with it. -/
theorem begins_sent {k : Link} {f : TxFlit} (h : f ∈ k.queue) (seq : Nat) (m : Msg) :
    begins { k with queue := k.queue.erase f, retry := k.retry ++ [{ f with seq := seq }] } m = begins k m := by
  have order := (List.perm_cons_erase h).countP_eq (fun f => f.som && decide (f.msg = m))
  simp only [begins, List.countP_append, List.countP_cons, List.countP_nil] at order ⊢
  omega

theorem begins_pump (size modulus n : Nat) (k : Link) (m : Msg) : begins (Link.pump size modulus n k).1 m = begins k m := by
  induction n generalizing k with
  | zero => rfl
  | succ n ih =>
    unfold Link.pump
    split
    · rfl
    · split
      · rfl
      · split
        · next f k' hf hk =>
          have same := takeCredit_sameFlits hk
          have queued : f ∈ k'.queue := same.2 ▸ List.mem_of_find?_eq_some hf
          exact (ih _).trans ((begins_sent queued k'.seq m).trans (same.begins m))
        · rfl

theorem begins_pumpLink (s : State) (l : Nat) (m : Msg) : begins ((s.pumpLink l).link l) m = begins (s.link l) m := by
  unfold State.pumpLink
  extract_lets k r u
  split
  · rfl
  · have moved : u.link l = r.1 := (link_updLink s l (fun _ => r.1) l).trans (if_pos rfl)
    rw [(sameFlits_payCredits l 100 _ l).begins, (sameFlits_emits l r.2 u l).begins, moved]
    exact begins_pump ..

/-- One flit of a message begins it. -/
theorem begins_flitList (s : State) (l : Nat) (m : Msg) : (s.flitList l m).countP (fun f => f.som && decide (f.msg = m)) = 1 := by
  have some : ∃ n, s.flitsOf l m = n + 1 := by
    have h : 0 < s.flitsOf l m := by
      unfold State.flitsOf ceilDiv flitPayload
      split <;> omega
    exact ⟨s.flitsOf l m - 1, by omega⟩
  obtain ⟨n, hn⟩ := some
  unfold State.flitList
  rw [hn]
  dsimp only
  rw [List.range_succ_eq_map]
  simp [List.countP_eq_zero]

theorem begins_queueOn (s : State) (l : Nat) (m : Msg) : begins ((s.queueOn l m).link l) m = begins (s.link l) m + 1 := by
  rw [State.queueOn, begins_pumpLink, link_updLink, if_pos rfl]
  simp only [begins, List.countP_append, begins_flitList]
  omega

/-! ### A message of this device -/

theorem send_eq (s : State) (dst step att : Nat) (body : MsgBody) : s.send dst step att body = s.sendCopy false 0 (ownMsg s dst step att body) := rfl

theorem routeBy_inbox (h : rowTable m.body = none) (now : Bool) (port : Nat) : (s.routeBy now port m).inbox = s.inbox := by
  have discarded : ∀ (u : State) l, (u.discardEntry l m).inbox = u.inbox := fun u l => (logOnly_discardEntry u l m).keeps State.inbox fun _ => rfl
  have queued : ∀ l n, (s.queueOn l n).inbox = s.inbox := fun l n => offWire_keeps (offWire_queueOn s l n) State.inbox fun _ => rfl
  unfold State.routeBy
  split
  · exact discarded _ port
  · split
    · exact waitForLink_inbox h
    · split
      · next l dl _ =>
        unfold State.sendOn
        dsimp only
        split
        · exact queued l _
        · split
          · rfl
          · split
            · exact queued l m
            · exact discarded _ l
      · exact waitForLink_inbox h

/-- Where a message of this device without a ring goes (R301, R304). -/
theorem sends_send {body : MsgBody} (h : rowTable body = none) (s : State) (dst step att : Nat) :
    Sends dst step att body s (s.send dst step att body) := by
  rw [send_eq]
  generalize hm : ownMsg s dst step att body = m
  have hb : rowTable m.body = none := by rw [← hm]; exact h
  have hd : m.dst = dst := by rw [← hm]; rfl
  have hops : m.hops = 0 := by rw [← hm]; rfl
  unfold Sends State.sendCopy
  rw [hm, hd]
  refine ⟨fun own => ?_, fun far => ?_⟩
  · rw [if_pos own, intoInbox_of_no_ring hb]
    exact ⟨rfl, rfl, rfl⟩
  · rw [if_neg far]
    refine ⟨routeBy_inbox hb false 0, fun valid => ⟨fun waits free => ?_, fun l dl up mode first => ?_⟩⟩
    · have stays : s.routeBy false 0 m = { s with netWait := s.netWait ++ [m] } := by
        rw [State.routeBy, hd, valid, mustStage_of_no_ring hb, ← waitForLink_of_no_ring hb free]
        rcases waits with none | behind
        · simp [none]
        · simp [behind]
      rw [stays]
      exact ⟨rfl, rfl⟩
    · have goes : s.routeBy false 0 m = s.queueOn l m := by
        rw [State.routeBy, hd, valid, mustStage_of_no_ring hb, first, up]
        simp [State.sendOn, mode, hops]
      rw [goes]
      exact ⟨offWire_keeps (offWire_queueOn s l m) State.netWait fun _ => rfl, begins_queueOn s l m⟩

end

end Sys2Proof.Proofs
end

section
/-! What keeps the job, the step's number and decision, and the records: the work of a device that acts on a decision (R269, R273, R375). -/
namespace Sys2Proof.Proofs

open Sys2Proof Sys2Proof.Machine Sys2Proof.Laws

/-- The job, and what of its step the protocol of R262 to R273 decides by. -/
def stepView (s : State) : Job × Nat × Option (Decision × Nat × Nat) × Option Nat × Bool × Option CommitSet :=
  (s.job, s.step.no, s.step.decision, s.step.halted, s.step.reported, s.step.commit)

/-- A step's number, decision and commit set are kept, with the job and the records. -/
structure StepKept (s u : State) : Prop where
  view : stepView u = stepView s
  recs : s.book.recs <+: u.book.recs

section
variable {s t u : State}

theorem RecordsOnly.stepKept (h : RecordsOnly s u) : StepKept s u :=
  ⟨h.keeps stepView fun _ => rfl, h.recs⟩

theorem NetOnly.stepKept (h : NetOnly s u) : StepKept s u := h.recordsOnly.stepKept

theorem LogOnly.stepKept (h : LogOnly s u) : StepKept s u := h.netOnly.stepKept

theorem stepKept_of_eq (hv : stepView u = stepView s) (hr : u.book = s.book) : StepKept s u := ⟨hv, by rw [hr]⟩

theorem stepKept_refl (s : State) : StepKept s s := stepKept_of_eq rfl rfl

theorem stepKept_trans (h : StepKept s t) (k : StepKept t u) : StepKept s u := ⟨k.view.trans h.view, h.recs.trans k.recs⟩

theorem stepKept_ite {c : Prop} [Decidable c] (h : c → StepKept s t) (k : ¬ c → StepKept s u) : StepKept s (if c then t else u) := by
  split
  · next hc => exact h hc
  · next hc => exact k hc

theorem stepKept_foldl {α : Type} (f : State → α → State) (h : ∀ s x, StepKept s (f s x)) (xs : List α) (s : State) :
    StepKept s (xs.foldl f s) := by
  induction xs generalizing s with
  | nil => exact stepKept_refl s
  | cons x xs ih => exact stepKept_trans (h s x) (ih _)

theorem StepKept.job (h : StepKept s u) : u.job = s.job := congrArg (·.1) h.view
theorem StepKept.no (h : StepKept s u) : u.step.no = s.step.no := congrArg (·.2.1) h.view
theorem StepKept.decision (h : StepKept s u) : u.step.decision = s.step.decision := congrArg (·.2.2.1) h.view
theorem StepKept.halted (h : StepKept s u) : u.step.halted = s.step.halted := congrArg (·.2.2.2.1) h.view
theorem StepKept.reported (h : StepKept s u) : u.step.reported = s.step.reported := congrArg (·.2.2.2.2.1) h.view
theorem StepKept.commit (h : StepKept s u) : u.step.commit = s.step.commit := congrArg (·.2.2.2.2.2) h.view

end

/-! ### Registers, tiles and memory -/

theorem stepKept_count (s : State) (a n : Nat) : StepKept s (s.count a n) := stepKept_of_eq rfl rfl
theorem stepKept_updTile (s : State) (t : Nat) (f : Tile → Tile) : StepKept s (s.updTile t f) := stepKept_of_eq rfl rfl
theorem stepKept_updCtx (s : State) (l : Loc) (f : Ctx → Ctx) : StepKept s (s.updCtx l f) := stepKept_of_eq rfl rfl

theorem stepKept_sitOut (s : State) (l : Loc) (n : Nat) : StepKept s (s.sitOut l n) :=
  stepKept_ite (fun _ => stepKept_updCtx s l _) fun _ => stepKept_refl s

theorem logOnly_tmemError (s : State) (cause tile ctx eng : Nat) : LogOnly s (s.tmemError cause tile ctx eng) := logOnly_logError ..

theorem logOnly_writeRuns (t : Nat) (rs : List (Nat × List Byte)) (s : State) : LogOnly s (s.writeRuns t rs).1 := by
  induction rs generalizing s with
  | nil => exact logOnly_refl s
  | cons r rs ih => exact logOnly_trans (logOnly_writeT0 s _ _) (ih _)

theorem logOnly_putRuns (s : State) (t : Nat) (rs : List (Nat × List Byte)) : LogOnly s (s.putRuns t rs) :=
  have h := logOnly_writeRuns t rs s
  logOnly_ite (fun _ => h) fun _ => logOnly_trans h (logOnly_tmemError ..)

/-! ### The log's deferrals (R374) -/

theorem logOnly_endEntry (s : State) (seq : Nat) : LogOnly s (s.endEntry seq) := logOnly_updEntry ..

theorem logOnly_openDeferral (s : State) (cause win defm unit d5 : Nat) : LogOnly s (s.openDeferral cause win defm unit d5) := logOnly_logEntry ..

theorem logOnly_closeDeferral (s : State) (cause : Nat) (d5 : Option Nat) : LogOnly s (s.closeDeferral cause d5) := by
  unfold State.closeDeferral
  split
  · exact logOnly_endEntry ..
  · exact logOnly_refl s

theorem logOnly_ensureDeferral (s : State) (cause win defm unit d5 : Nat) : LogOnly s (s.ensureDeferral cause win defm unit d5) := by
  unfold State.ensureDeferral
  split
  · exact logOnly_refl s
  · exact logOnly_openDeferral ..

theorem logOnly_endDeferrals (s : State) (cause : Nat) : LogOnly s (s.endDeferrals cause) := logOnly_of_calm rfl rfl

/-! ### Stopping an attempt and finishing a step (R273, R375) -/

theorem stepKept_clearBuffers (s : State) (p : Nat → Bool) : StepKept s (s.clearBuffers p) := by
  refine stepKept_foldl _ (fun s i => ?_) _ s
  split
  · exact stepKept_ite (fun _ => stepKept_of_eq rfl rfl) fun _ => stepKept_refl s
  · exact stepKept_refl s

theorem stepKept_clearCoalescer (s : State) (p : Nat → Bool) : StepKept s (s.clearCoalescer p) := stepKept_of_eq rfl rfl
theorem stepKept_forgetRequests (s : State) : StepKept s s.forgetRequests := stepKept_of_eq rfl rfl

theorem stepKept_stopForDiscard (s : State) : StepKept s s.stopForDiscard := by
  unfold State.stopForDiscard
  extract_lets waits src stop held
  refine stepKept_ite (fun _ => stepKept_refl s) fun _ => ?_
  have stopped : StepKept s stop := stepKept_of_eq rfl rfl
  have h : StepKept stop held := stepKept_foldl _ (fun s l => stepKept_ite (fun _ => stepKept_updTile ..) fun _ => stepKept_updTile ..) _ _
  exact stepKept_trans stopped (stepKept_trans h (stepKept_trans (stepKept_forgetRequests held)
    (stepKept_trans (stepKept_clearBuffers _ _) (stepKept_clearCoalescer _ _))))

theorem stepKept_restoreTile (s : State) (t : Nat) : StepKept s (s.restoreTile t) := by
  unfold State.restoreTile
  split
  · exact stepKept_refl s
  · next k _ =>
    extract_lets runs src gathered contexts
    have h : StepKept s contexts := stepKept_trans (logOnly_putRuns s t _).stepKept
      (stepKept_trans (t := gathered) (stepKept_of_eq rfl rfl) (stepKept_foldl _ (fun s v => stepKept_updCtx ..) _ _))
    split
    · exact stepKept_trans h (stepKept_foldl _ (fun s c => stepKept_ite (fun _ => stepKept_sitOut ..) fun _ => stepKept_refl s) _ _)
    · exact h

theorem stepKept_finishStep (s : State) : StepKept s s.finishStep :=
  stepKept_trans (stepKept_foldl _ (fun s t => stepKept_trans (stepKept_restoreTile s t) (stepKept_updTile ..)) s.stepTiles s) (stepKept_of_eq rfl rfl)

theorem stepKept_applyDecision (s : State) (d : Decision) : StepKept s (s.applyDecision d) := by
  cases d with
  | discard => exact stepKept_stopForDiscard s
  | halt => exact stepKept_refl s
  | commit => exact stepKept_ite (fun _ => stepKept_finishStep s) fun _ => stepKept_refl s
  | skip => exact stepKept_ite (fun _ => stepKept_finishStep s) fun _ => stepKept_refl s

/-! ### The announcement of a rejoin (R376, R389) -/

theorem logOnly_resetEntry (s : State) : LogOnly s s.resetEntry := by
  unfold State.resetEntry
  extract_lets w d
  have h : LogOnly s d.2 := by
    show LogOnly s (if s.rst.bad.isEmpty then (0, s) else (w.1.toNat, w.2)).2
    split
    · exact logOnly_refl s
    · exact logOnly_of_calm rfl rfl
  exact logOnly_trans h (logOnly_logEntry ..)

theorem logOnly_updRst (s : State) (f : Recovery → Recovery) : LogOnly s (s.updRst f) := logOnly_of_calm rfl rfl

theorem logOnly_completeReset (s : State) : LogOnly s s.completeReset := by
  unfold State.completeReset
  extract_lets a b c d run
  have ha : LogOnly s a := logOnly_of_calm rfl rfl
  have hb : LogOnly a b := by
    show LogOnly a (match a.rst.handling with | some q => a.endEntry q | none => a)
    split
    · exact logOnly_endEntry ..
    · exact logOnly_refl a
  have hc : LogOnly b c := by
    show LogOnly b (match b.entry b.rst.trigSeq with | some e => if e.state = 1 then b.endEntry e.seq else b | none => b)
    split
    · exact logOnly_ite (fun _ => logOnly_endEntry ..) fun _ => logOnly_refl b
    · exact logOnly_refl b
  have hd : LogOnly c d := logOnly_trans (logOnly_closeDeferral ..) (logOnly_closeDeferral ..)
  exact logOnly_trans ha (logOnly_trans hb (logOnly_trans hc (logOnly_trans hd (logOnly_trans (logOnly_resetEntry d) (logOnly_updRst _ _)))))

theorem netOnly_comeBack (s : State) (n : Nat) : NetOnly s (s.comeBack n) :=
  have h : NetOnly s (s.announce n) := netOnly_sendAll ..
  netOnly_ite (fun _ => netOnly_trans h (logOnly_completeReset _).netOnly) fun _ => h

end Sys2Proof.Proofs
end

section
/-! The end of a job and the record of a decision (R268, R269, R338). -/
namespace Sys2Proof.Proofs

open Sys2Proof Sys2Proof.Machine Sys2Proof.Laws

/-! ### The end of a job (R338) -/

theorem stepKept_dropPins (s : State) (l : Loc) : StepKept s (s.dropPins l) := stepKept_of_eq rfl rfl

theorem stepKept_haltContexts (s : State) : StepKept s s.haltContexts := by
  refine stepKept_foldl _ (fun s t => ?_) _ s
  split
  · refine stepKept_foldl _ (fun s c => ?_) _ s
    exact stepKept_ite (fun _ => stepKept_refl s) fun _ => stepKept_trans (stepKept_updTile ..) (stepKept_dropPins _ _)
  · exact stepKept_refl s

theorem stepKept_endSearches (s : State) : StepKept s s.endSearches := by
  refine stepKept_foldl _ (fun s e => ?_) _ s
  split
  · exact stepKept_trans (logOnly_trans (logOnly_endEntry ..) (logOnly_endEntry ..)).stepKept (stepKept_updTile ..)
  · exact stepKept_updTile ..

/-- The job of a device that has ended it. -/
def endedJob (j : Job) : Job := { j with st := .loaded, stopReq := none, baseRun := false }

/-- The state of endJob before the open deferrals of the job's steps end. -/
def jobCleared (s : State) : State := { s with
    job := endedJob s.job,
    step := { s.step with halted := none, decision := none, stopped := false, phase := 0, queried := false },
    rst := { s.rst with levelOne := false },
    inbox := s.inbox.filter (fun m => match m.body with | .belay _ => false | _ => true),
    cairn := { s.cairn with next := 0, st := 0, frozen := [], listed := [], early := false },
    emb := { s.emb with waiting := [], asked := [], plans := [], poolAsked := [] },
    belay := { s.belay with fill := 0, fillLeft := [], expOpen := [] },
    book := { s.book with target := none, replay := [], field := false, full := false, asked := false } }

theorem endJob_eq (s : State) :
    s.endJob = [5, 7, 8, 0xA].foldl State.endDeferrals (jobCleared ((s.haltContexts).endSearches).forgetRequests) := by
  unfold State.endJob
  generalize ((s.haltContexts).endSearches).forgetRequests = u
  rfl

theorem jobCleared_view (s : State) :
    stepView (jobCleared s) = (endedJob s.job, s.step.no, none, none, s.step.reported, s.step.commit) ∧ (jobCleared s).book.recs = s.book.recs :=
  ⟨rfl, rfl⟩

theorem logOnly_endAllDeferrals (causes : List Nat) (s : State) : LogOnly s (causes.foldl State.endDeferrals s) :=
  logOnly_foldl _ logOnly_endDeferrals _ _

/-- What stays of the part that the job's end clears, when the deferrals end too. -/
theorem jobCleared_ends {s u : State} (h : StepKept s u) (causes : List Nat) :
    let v := causes.foldl State.endDeferrals (jobCleared u)
    stepView v = (endedJob s.job, s.step.no, none, none, s.step.reported, s.step.commit) ∧ s.book.recs <+: v.book.recs := by
  obtain ⟨view, recs⟩ := jobCleared_view u
  have ends := (logOnly_endAllDeferrals causes (jobCleared u)).stepKept
  refine ⟨?_, ?_⟩
  · rw [ends.view, view, h.job, h.no, h.reported, h.commit]
  · exact h.recs.trans (recs ▸ ends.recs)

theorem stepKept_beforeEnd (s : State) : StepKept s ((s.haltContexts).endSearches).forgetRequests :=
  stepKept_trans (stepKept_haltContexts s) (stepKept_trans (stepKept_endSearches _) (stepKept_forgetRequests _))

theorem endJob_view (s : State) :
    stepView s.endJob = (endedJob s.job, s.step.no, none, none, s.step.reported, s.step.commit) ∧ s.book.recs <+: s.endJob.book.recs := by
  rw [endJob_eq]
  exact jobCleared_ends (stepKept_beforeEnd s) [5, 7, 8, 0xA]

theorem stepKept_hostDone (s : State) (q tag status result : Nat) : StepKept s (s.hostDone q tag status result) := by
  rw [State.hostDone]
  exact stepKept_trans (stepKept_count s _ 1) (logOnly_post _ _ _ _ _ _ _).stepKept

theorem finishStop_of_none {s : State} (h : s.job.stopReq = none) : s.finishStop = s := by rw [State.finishStop, h]

theorem finishStop_of_some {s : State} {q tag : Nat} (h : s.job.stopReq = some (q, tag)) : s.finishStop = s.endJob.hostDone q tag 0 0 := by
  rw [State.finishStop, h]

theorem finishStop_view {s : State} (h : s.job.stopReq ≠ none) :
    stepView s.finishStop = (endedJob s.job, s.step.no, none, none, s.step.reported, s.step.commit) ∧ s.book.recs <+: s.finishStop.book.recs := by
  obtain ⟨⟨q, tag⟩, hr⟩ := Option.ne_none_iff_exists'.mp h
  have ended := endJob_view s
  have told := stepKept_hostDone s.endJob q tag 0 0
  rw [finishStop_of_some hr]
  exact ⟨told.view.trans ended.1, ended.2.trans told.recs⟩

/-! ### The record of a decision (R268, R269) -/

/-- A decision on step n, attempt a, stands: a HALT that a STOP waited for ends the job. -/
def DecisionStands (n a : Nat) (d : Decision) (s u : State) : Prop :=
  (d = .halt → s.job.stopReq ≠ none → u.job.st = .loaded) ∧
  (d = .halt → s.job.stopReq = none → u.step.halted = some 0) ∧
  (d ≠ .halt ∨ s.job.stopReq = none →
    u.step.decision = (if d = .halt then none else some (d, n, a)) ∧ u.step.no = (if d = .commit ∨ d = .skip then n + 1 else n) ∧
    ∃ r ∈ u.book.recs, r.type = 4 ∧ r.step = n ∧ r.att = a ∧ r.body = [Decision.code d])

/-- What the device decides by, once it has recorded a decision. -/
def decidedView (n a : Nat) (d : Decision) (s : State) : Job × Nat × Option (Decision × Nat × Nat) × Option Nat × Bool × Option CommitSet :=
  (s.job, if d = .commit ∨ d = .skip then n + 1 else s.step.no, if d = .halt then s.step.decision else some (d, n, a),
    if d = .halt then some 0 else s.step.halted, s.step.reported, s.step.commit)

theorem stepKept_hashChange (s : State) (old new : List Byte) : StepKept s (s.hashChange old new) := ⟨rfl, List.prefix_rfl⟩

theorem logOnly_decisionEvent (s : State) (d : Decision) (a : Nat) : LogOnly s (s.decisionEvent d a) :=
  logOnly_ite (fun _ => logOnly_post ..) fun _ => logOnly_refl s

/-- What follows the step's new state: the digest, the event, and the STOP that a HALT completes. -/
def decisionTold (s : State) (d : Decision) (n a : Nat) : State :=
  let s := if Decision.advances d then s.hashChange (4 :: leBytes 8 n) (4 :: leBytes 8 (n + 1)) else s
  s.decisionEvent d a

theorem stepKept_decisionTold (s : State) (d : Decision) (n a : Nat) : StepKept s (decisionTold s d n a) :=
  have h : StepKept s (if Decision.advances d then s.hashChange (4 :: leBytes 8 n) (4 :: leBytes 8 (n + 1)) else s) :=
    stepKept_ite (fun _ => stepKept_hashChange ..) fun _ => stepKept_refl s
  stepKept_trans h (logOnly_decisionEvent ..).stepKept

/-- The step of a device that has recorded a decision. -/
def decisionSet (s : State) (d : Decision) (n a : Nat) : State :=
  let set := fun (s : State) (f : StepState → StepState) => { s with step := f s.step }
  let s := set s (fun p => { p with lastDec := Decision.code d, halted := (match d with | .halt => some 0 | _ => p.halted) })
  match d with
    | .commit =>
      let s := set s (fun p => { p with no := n + 1, phase := 3, skipRun := 0, commits := p.commits + 1 })
      (set s (fun p => { p with decision := some (d, n, a) })).count (hubReg 8 0x040) 1
    | .skip =>
      let s := set s (fun p => { p with no := n + 1, phase := 3, skipRun := p.skipRun + 1 })
      ((set s (fun p => { p with decision := some (d, n, a) })).count (hubReg 8 0x048) 1).ensureDeferral 8 2 16 noUnit 0
    | .discard =>
      (((set s (fun p => { p with decision := some (d, n, a) })).count (hubReg 8 0x050) 1).closeDeferral 0xA none).openDeferral 0xA
        (if s.rst.levelOne then 1 else 2) 4 noUnit 0
    | .halt =>
      let s := set s (fun p => { p with phase := 4 })
      if s.nonfinite then s.ensureDeferral 8 2 16 noUnit 0 else s

theorem recordDecision_eq (s : State) (d : Decision) (n a : Nat) :
    s.recordDecision d n a =
      if d = .halt then (decisionTold (decisionSet (s.record 4 0 0 n a [Decision.code d]) d n a) d n a).finishStop
      else decisionTold (decisionSet (s.record 4 0 0 n a [Decision.code d]) d n a) d n a := rfl

/-- What is set, and then kept. -/
theorem set_kept {s u v : State} {x : Job × Nat × Option (Decision × Nat × Nat) × Option Nat × Bool × Option CommitSet}
    (h : StepKept u v) (hv : stepView u = x) (hr : u.book = s.book) : stepView v = x ∧ s.book.recs <+: v.book.recs :=
  ⟨h.view.trans hv, hr ▸ h.recs⟩

theorem decisionSet_view (s : State) (d : Decision) (n a : Nat) :
    stepView (decisionSet s d n a) = decidedView n a d s ∧ s.book.recs <+: (decisionSet s d n a).book.recs := by
  cases d with
  | commit => exact ⟨rfl, List.prefix_rfl⟩
  | skip =>
    have h : ∀ u : State, StepKept u (u.ensureDeferral 8 2 16 noUnit 0) := fun u => (logOnly_ensureDeferral ..).stepKept
    exact set_kept (h _) rfl rfl
  | discard =>
    have h : ∀ (u : State) w, StepKept u ((u.closeDeferral 0xA none).openDeferral 0xA w 4 noUnit 0) := fun u w =>
      (logOnly_trans (logOnly_closeDeferral ..) (logOnly_openDeferral ..)).stepKept
    exact set_kept (h _ _) rfl rfl
  | halt =>
    have h : ∀ u : State, StepKept u (if u.nonfinite then u.ensureDeferral 8 2 16 noUnit 0 else u) := fun u =>
      stepKept_ite (fun _ => (logOnly_ensureDeferral ..).stepKept) fun _ => stepKept_refl u
    exact set_kept (h _) rfl rfl

/-- What a recorded decision leaves, before a STOP that waited completes. -/
theorem decided_view (s : State) (d : Decision) (n a : Nat) :
    let u := decisionTold (decisionSet (s.record 4 0 0 n a [Decision.code d]) d n a) d n a
    stepView u = decidedView n a d s ∧ ⟨4, 0, 0, n, a, [Decision.code d]⟩ ∈ u.book.recs := by
  have kept := (recordsOnly_record s 4 0 0 n a [Decision.code d]).stepKept
  have mem := mem_record s 0 0 n a [Decision.code d] (type := 4) (Or.inr rfl)
  generalize s.record 4 0 0 n a [Decision.code d] = r at kept mem
  have set := decisionSet_view r d n a
  have told := stepKept_decisionTold (decisionSet r d n a) d n a
  have same : decidedView n a d r = decidedView n a d s := by
    simp only [decidedView, kept.job, kept.no, kept.decision, kept.halted, kept.reported, kept.commit]
  exact ⟨told.view.trans (set.1.trans same), told.recs.subset (set.2.subset mem)⟩

/-- A recorded decision stands (R269). -/
theorem recordDecision_stands (s : State) (d : Decision) (a : Nat) (h : s.step.decision = none) :
    DecisionStands s.step.no a d s (s.recordDecision d s.step.no a) := by
  rw [recordDecision_eq]
  obtain ⟨view, mem⟩ := decided_view s d s.step.no a
  generalize decisionTold _ d s.step.no a = u at view mem
  have job : u.job = s.job := congrArg (·.1) view
  have no : u.step.no = if d = .commit ∨ d = .skip then s.step.no + 1 else s.step.no := congrArg (·.2.1) view
  have decision : u.step.decision = if d = .halt then s.step.decision else some (d, s.step.no, a) := congrArg (·.2.2.1) view
  have halted : u.step.halted = if d = .halt then some 0 else s.step.halted := congrArg (·.2.2.2.1) view
  by_cases hd : d = .halt
  · rw [if_pos hd]
    by_cases hs : s.job.stopReq = none
    · rw [finishStop_of_none (job ▸ hs)]
      refine ⟨fun _ hs' => absurd hs hs', fun _ _ => by rw [halted, if_pos hd], fun _ => ⟨?_, no, _, mem, rfl, rfl, rfl, rfl⟩⟩
      rw [decision, if_pos hd, if_pos hd, h]
    · have ended := (finishStop_view (s := u) (job ▸ hs)).1
      refine ⟨fun _ _ => ?_, fun _ hs' => absurd hs' hs, fun h => absurd h (by simp [hd, hs])⟩
      have := congrArg (·.1.st) ended
      exact this
  · rw [if_neg hd]
    refine ⟨fun h => absurd h hd, fun h => absurd h hd, fun _ => ⟨?_, no, _, mem, rfl, rfl, rfl, rfl⟩⟩
    rw [decision, if_neg hd, if_neg hd]

/-- What keeps the step's decision lets the decision stand. -/
theorem DecisionStands.kept {n a : Nat} {d : Decision} {s u v : State} (h : DecisionStands n a d s u) (k : StepKept u v) : DecisionStands n a d s v := by
  obtain ⟨ended, halted, stands⟩ := h
  refine ⟨fun hd hs => k.job ▸ ended hd hs, fun hd hs => k.halted ▸ halted hd hs, fun hd => ?_⟩
  obtain ⟨decision, no, r, mem, rest⟩ := stands hd
  exact ⟨k.decision ▸ decision, k.no ▸ no, r, k.recs.subset mem, rest⟩

end Sys2Proof.Proofs
end

section
/-! The leader's decision, and a decision at a member (R251, R264, R268, R269). -/
namespace Sys2Proof.Proofs

open Sys2Proof Sys2Proof.Machine Sys2Proof.Laws

section
variable {s : State} {m : Msg}

/-! ### A message that the hub consumes (R251) -/

/-- The message left the inbox. -/
def taken (s : State) (m : Msg) : State := { s with inbox := s.inbox.erase m }

theorem takeMsg_eq (h : s.qm.backlog = []) : s.takeMsg m = taken s m := by
  simp [State.takeMsg, h, taken]

theorem atHub_current (h : Current none m s) (act : State → State) : s.atHub m act = act (taken s m) := by
  obtain ⟨mem, now, due, go, none⟩ := h
  have due' : (taken s m).stale Option.none m = false := due
  rw [State.atHub, takeMsg_eq none]
  simp [mem, now, go]
  intro late
  exact absurd (show (taken s m).stale Option.none m = true from late) (by simp [due'])

theorem pair_of_current (h : Current none m s) (hd : s.step.decision = none) : m.step = s.step.no ∧ m.att = s.step.att := by
  obtain ⟨-, now, due, -, -⟩ := h
  have pair : s.pairAt none = (s.step.no, s.step.att) := by simp [State.pairAt, hd]
  simp only [State.later, State.stale, pair, decide_eq_false_iff_not] at now due
  omega

theorem curStep_of_undecided (hd : s.step.decision = none) : s.curStep = s.step.no := by rw [State.curStep, hd]

/-! ### The leader's decision (R268) -/

/-- Every member has reported. -/
def AllReported (s : State) : Prop := ∀ d ∈ s.memberIds, ∃ r ∈ s.step.reports, r.1 = d

theorem allReported_iff (s : State) :
    (s.memberIds.all fun m => s.step.reports.any fun r => decide (r.1 = m)) = true ↔ AllReported s := by
  simp [AllReported]

/-- No error keeps the step from committing (R251, R254, R258). -/
def CleanStep (s : State) : Prop := s.step.spoilt = false ∧ (s.step.no, s.step.att) ∉ s.step.barred

/-- The leader waits for the reports, or for the handling of an error. -/
theorem leaderDecide_waits (hd : s.step.decision = none) (h : s.step.rejoined = false) (k : ¬ (AllReported s ∧ CleanStep s)) : s.leaderDecide = s := by
  unfold State.leaderDecide
  extract_lets all clean
  have ready : (s.step.rejoined || (all && clean)) = false := by
    rw [h, Bool.false_or, Bool.eq_false_iff]
    intro both
    rw [Bool.and_eq_true, Bool.and_eq_true, allReported_iff, curStep_of_undecided hd, decide_eq_true_eq, Bool.not_eq_true'] at both
    exact k ⟨both.1, both.2.1, both.2.2⟩
  rw [ready]
  simp

theorem leaderDecide_stands (own : s.leader = s.devId) (hd : s.step.decision = none) (hh : s.step.halted = none) (hc : s.cairn.st = 0)
    (ha : s.step.att < 65535) (ready : s.step.rejoined = true ∨ (AllReported s ∧ CleanStep s)) :
    DecisionStands s.step.no s.step.att s.chooseDecision s s.leaderDecide := by
  unfold State.leaderDecide
  extract_lets all clean n a d u
  have go : (decide (s.devId ≠ s.leader) || s.step.decision.isSome || s.step.halted.isSome || !(s.step.rejoined || (all && clean))) = false := by
    have all_clean : (s.step.rejoined || (all && clean)) = true := by
      rcases ready with h | ⟨h, spoilt, barred⟩
      · rw [h, Bool.true_or]
      · rw [Bool.or_eq_true]
        refine Or.inr ?_
        rw [Bool.and_eq_true, Bool.and_eq_true, allReported_iff, curStep_of_undecided hd, decide_eq_true_eq, Bool.not_eq_true']
        exact ⟨h, spoilt, barred⟩
    rw [all_clean, hd, hh, own]
    simp
  have at_once : s.awaitsCallacks d = false := by simp [State.awaitsCallacks, hc]
  have cap : d = s.chooseDecision := by
    show capDiscard s.chooseDecision s.step.att = _
    rw [capDiscard, if_neg (by omega)]
  have no : n = s.step.no := curStep_of_undecided hd
  rw [go, at_once, if_neg Bool.false_ne_true, if_neg Bool.false_ne_true]
  have stands := recordDecision_stands s s.chooseDecision s.step.att hd
  have sent : StepKept u (u.sendAll u.others n a (.stepDecision d)) := (netOnly_sendAll ..).stepKept
  rw [← cap, ← no] at stands ⊢
  exact stands.kept (stepKept_trans sent (stepKept_applyDecision _ d))

/-! ### A report at the leader -/

/-- The leader holds the report of a message that it has taken. -/
def withReport (s : State) (m : Msg) (dg : Word) : State :=
  { s with inbox := s.inbox.erase m, step := { s.step with reports := s.step.reports ++ [(m.src, dg)] } }

theorem exec_stepReport {dg : Word} (hm : m.body = .stepReport dg) (h : Current none m s) (own : s.leader = s.devId)
    (fresh : ∀ r ∈ s.step.reports, r.1 ≠ m.src) : exec (.stepReport m) s = .next (withReport s m dg).leaderDecide := by
  have first : (s.step.reports.any fun r => decide (r.1 = m.src)) = false := by
    simpa using fun a b hab => fresh (a, b) hab
  have at_hub : exec (.stepReport m) s = .next (s.atHub m fun s => if s.leader = s.devId then s.takeReport m.src dg else s) := by
    show execStepReport m s = _
    rw [execStepReport, hm]
  have report : (taken s m).takeReport m.src dg = (withReport s m dg).leaderDecide := by
    rw [State.takeReport]
    exact (if_neg (by rw [show (taken s m).step.reports = s.step.reports from rfl, first]; simp))
  rw [at_hub, atHub_current h, report]
  exact congrArg Host.Outcome.next (if_pos own)

/-- The digests of the reports differ. -/
def ReportsDiffer (rs : List (Nat × Word)) : Prop := ∃ x ∈ rs, ∃ y ∈ rs, x.2 ≠ y.2

theorem reportsDiffer_iff (rs : List (Nat × Word)) :
    ((rs.map (·.2)).all fun d => decide (d = (rs.map (·.2)).headD 0)) = false ↔ ReportsDiffer rs := by
  cases rs with
  | nil => simp [ReportsDiffer]
  | cons r rs =>
    rw [Bool.eq_false_iff, ne_eq, List.all_eq_true]
    constructor
    · intro h
      by_contra same
      refine h fun d hd => ?_
      obtain ⟨x, hx, rfl⟩ := List.mem_map.mp hd
      by_contra hne
      exact same ⟨x, hx, r, List.mem_cons_self, by simpa using hne⟩
    · rintro ⟨x, hx, y, hy, hne⟩ h
      have hx' := h x.2 (List.mem_map_of_mem hx)
      have hy' := h y.2 (List.mem_map_of_mem hy)
      exact hne ((of_decide_eq_true hx').trans (of_decide_eq_true hy').symm)

/-- A non-finite value is counted (R265, R268). -/
def Nonfinite (s : State) : Prop :=
  (∃ r, s.step.jobRec = some r ∧ 0 < r.nonfin) ∨ s.step.jobRec = none ∧ ∃ k, s.step.commit = some k ∧ 0 < k.job.nonfin

theorem nonfinite_iff (s : State) : s.nonfinite = true ↔ Nonfinite s := by
  unfold State.nonfinite Nonfinite
  cases s.step.jobRec <;> cases s.step.commit <;> simp

/-- A step with a non-finite value halts the job (R268). -/
def HaltsBad (s : State) : Prop := (s.reg rStepCtl).getLsbD 0 = true ∨ wfld (s.reg rStepCtl) 15 8 < s.step.skipRun + 1

theorem haltsBad_iff (s : State) :
    (bitOf (s.reg rStepCtl).toNat 0 || decide (fld (s.reg rStepCtl).toNat 15 8 < s.step.skipRun + 1)) = true ↔ HaltsBad s := by
  rw [Bool.or_eq_true, decide_eq_true_eq, bitOf_eq]
  exact Iff.rfl

theorem chooseDecision_rejoined (h : s.step.rejoined = true) : s.chooseDecision = .discard := by simp [State.chooseDecision, h]

theorem chooseDecision_differ (h : s.step.rejoined = false) (k : ReportsDiffer s.step.reports) : s.chooseDecision = .halt := by
  rw [← reportsDiffer_iff] at k
  unfold State.chooseDecision
  dsimp only
  rw [h, k]
  rfl

theorem chooseDecision_agree (h : s.step.rejoined = false) (k : ¬ ReportsDiffer s.step.reports) :
    s.chooseDecision = if s.nonfinite then
      (if bitOf (s.reg rStepCtl).toNat 0 || decide (fld (s.reg rStepCtl).toNat 15 8 < s.step.skipRun + 1) then .halt else .skip) else .commit := by
  rw [← reportsDiffer_iff, Bool.not_eq_false] at k
  unfold State.chooseDecision
  dsimp only
  rw [h, k]
  rfl

theorem chooseDecision_stop (h : s.step.rejoined = false) (k : ¬ ReportsDiffer s.step.reports) (bad : Nonfinite s) (stop : HaltsBad s) :
    s.chooseDecision = .halt := by
  rw [chooseDecision_agree h k, if_pos ((nonfinite_iff s).mpr bad), if_pos ((haltsBad_iff s).mpr stop)]

theorem chooseDecision_skip (h : s.step.rejoined = false) (k : ¬ ReportsDiffer s.step.reports) (bad : Nonfinite s) (stop : ¬ HaltsBad s) :
    s.chooseDecision = .skip := by
  rw [chooseDecision_agree h k, if_pos ((nonfinite_iff s).mpr bad), if_neg (mt (haltsBad_iff s).mp stop)]

theorem chooseDecision_commit (h : s.step.rejoined = false) (k : ¬ ReportsDiffer s.step.reports) (good : ¬ Nonfinite s) :
    s.chooseDecision = .commit := by
  rw [chooseDecision_agree h k, if_neg (mt (nonfinite_iff s).mp good)]

section
variable {dg : Word} (hm : m.body = .stepReport dg) (h : Current none m s) (own : s.leader = s.devId) (hd : s.step.decision = none)
  (hh : s.step.halted = none) (hc : s.cairn.st = 0) (ha : s.step.att < 65535) (fresh : ∀ r ∈ s.step.reports, r.1 ≠ m.src)
include hm h own hd hh hc ha fresh

/-- The leader decides with a report that it takes (R268). -/
theorem stepReport_decides {d : Decision} (ready : s.step.rejoined = true ∨ (AllReported (withReport s m dg) ∧ CleanStep s))
    (choice : (withReport s m dg).chooseDecision = d) :
    Completes (.stepReport m) s (DecisionStands s.step.no s.step.att d s) :=
  ⟨_, exec_stepReport hm h own fresh, choice ▸ leaderDecide_stands (s := withReport s m dg) own hd hh hc ha ready⟩

omit hh hc ha in
/-- The leader waits with a report that it takes. -/
theorem stepReport_waits (hr : s.step.rejoined = false) (k : ¬ (AllReported (withReport s m dg) ∧ CleanStep s)) :
    Completes (.stepReport m) s (fun u => u = withReport s m dg) :=
  ⟨_, exec_stepReport hm h own fresh, leaderDecide_waits (s := withReport s m dg) hd hr k⟩

end

/-! ### A decision at a member (R269) -/

theorem exec_stepDecision {d : Decision} (hm : m.body = .stepDecision d) (h : Current none m s) :
    exec (.stepDecision m) s = .next ((taken s m).takeDecision d m.att) := by
  show execStepDecision m s = _
  rw [execStepDecision, hm]
  dsimp only
  rw [atHub_current h, takeMsg_eq h.2.2.2.2, ite_self]

theorem stepDecision_copy {d : Decision} (hm : m.body = .stepDecision d) (h : Current none m s) (hd : s.step.decision ≠ none) :
    Completes (.stepDecision m) s (fun u => u = taken s m) := by
  refine ⟨_, exec_stepDecision hm h, ?_⟩
  have held : (taken s m).step.decision.isSome = true := Option.isSome_iff_ne_none.mpr hd
  rw [State.takeDecision, held]
  rfl

/-- A device that takes part in the attempt that a decision names (R272, R376). -/
def answered (s : State) (a : Nat) : State := { s with step := { s.step with att := a, queried := false } }

theorem stepDecision_taken {d : Decision} (hm : m.body = .stepDecision d) (h : Current none m s) (hh : s.step.halted = none)
    (hd : s.step.decision = none) : Completes (.stepDecision m) s (DecisionStands s.step.no s.step.att d s) := by
  refine ⟨_, exec_stepDecision hm h, ?_⟩
  obtain ⟨-, att⟩ := pair_of_current h hd
  rw [State.takeDecision]
  have go : ((taken s m).step.decision.isSome || (taken s m).step.halted.isSome) = false := by
    show (s.step.decision.isSome || s.step.halted.isSome) = false
    rw [hd, hh]
    rfl
  rw [go, if_neg Bool.false_ne_true, curStep_of_undecided (s := taken s m) hd, att]
  have stands : DecisionStands s.step.no s.step.att d s ((answered (taken s m) s.step.att).recordDecision d s.step.no s.step.att) :=
    recordDecision_stands (answered (taken s m) s.step.att) d s.step.att hd
  have applied := stands.kept (stepKept_applyDecision _ d)
  exact applied.kept (stepKept_ite (fun _ => (netOnly_comeBack ..).stepKept) fun _ => stepKept_refl _)

end

end Sys2Proof.Proofs
end

section
/-! Readiness: the commit set and the report (R265, R267). -/
namespace Sys2Proof.Proofs

open Sys2Proof Sys2Proof.Machine Sys2Proof.Laws

section
variable {s : State}

/-! ### The commit inputs (R265) -/

theorem readRanges_clean (h : NoUpsets s) (rs : List (Nat × Nat × Nat)) :
    readRanges s rs = (s, none, rs.map (fun r => (r.1, r.2.1, s.bytes (r.1 * 0x800000 + r.2.1) r.2.2))) := by
  have clean : ∀ a n, CleanT0 s a n := fun a n w _ => by
    rw [h.1, h.2]
    exact ⟨rfl, rfl⟩
  induction rs with
  | nil => rfl
  | cons r rs ih =>
    rw [readRanges, readT0_clean s _ _ (clean _ _)]
    dsimp only
    rw [ih]
    rfl

/-! ### The book's record of the commit set (R415) -/

/-- With the leader asked before, a check of the book's share changes the book alone. -/
theorem bookCheck_asked (h : s.book.asked = true) : ∃ b : RouteBook, s.bookCheck = { s with book := b } := by
  unfold State.bookCheck
  extract_lets used share src w src'
  have set : ∃ b : RouteBook, w = { s with book := b } ∧ b.asked = true := by
    show ∃ b : RouteBook, (if share ≤ used then { s with book := { s.book with full := true } } else s) = { s with book := b } ∧ b.asked = true
    split
    · exact ⟨{ s.book with full := true }, rfl, h⟩
    · exact ⟨s.book, rfl, h⟩
  clear_value w
  obtain ⟨b, rfl, asked⟩ := set
  have no : (decide (7 * share ≤ 8 * used ∧ s.job.st = .running) && !b.asked) = false := by rw [asked, Bool.not_true, Bool.and_false]
  split
  · exact ⟨s.book, rfl⟩
  · exact ⟨b, if_neg (ne_true_of_eq_false no)⟩

/-- A record of a type that is not mirrored changes the book alone, with the leader asked before (R413). -/
theorem record_asked {type : Nat} (tile ctx step att : Nat) (body : List Nat) (h : s.book.asked = true) (own : 7 < type) :
    ∃ b : RouteBook, s.record type tile ctx step att body = { s with book := b } := by
  unfold State.record
  extract_lets r src t u src' v
  split
  · exact ⟨s.book, rfl⟩
  · have local_u : u = t := if_neg (by omega)
    have local_v : v = u := if_neg (by omega)
    obtain ⟨b, hb⟩ := bookCheck_asked (s := t) h
    rw [local_v, local_u, hb]
    exact ⟨b, rfl⟩

/-! ### The report -/

theorem recordDecision_commit (s : State) (d : Decision) (n a : Nat) :
    (s.recordDecision d n a).step.reported = s.step.reported ∧ (s.recordDecision d n a).step.commit = s.step.commit := by
  rw [recordDecision_eq]
  have view := (decided_view s d n a).1
  generalize decisionTold _ d n a = u at view
  have reported : u.step.reported = s.step.reported := congrArg (·.2.2.2.2.1) view
  have commit : u.step.commit = s.step.commit := congrArg (·.2.2.2.2.2) view
  split
  · by_cases hs : u.job.stopReq = none
    · rw [finishStop_of_none hs]
      exact ⟨reported, commit⟩
    · have ended := (finishStop_view hs).1
      exact ⟨(congrArg (·.2.2.2.2.1) ended).trans reported, (congrArg (·.2.2.2.2.2) ended).trans commit⟩
  · exact ⟨reported, commit⟩

/-- The leader's decision leaves what the device itself has reported. -/
theorem leaderDecide_commit (s : State) : s.leaderDecide.step.reported = s.step.reported ∧ s.leaderDecide.step.commit = s.step.commit := by
  unfold State.leaderDecide
  extract_lets all clean n a d u
  split
  · exact ⟨rfl, rfl⟩
  · split
    · exact ⟨rfl, rfl⟩
    · have kept := stepKept_trans (netOnly_sendAll u u.others n a (.stepDecision d)).stepKept (stepKept_applyDecision _ d)
      obtain ⟨reported, commit⟩ := recordDecision_commit s d n a
      exact ⟨kept.reported.trans reported, kept.commit.trans commit⟩

theorem takeReport_commit (s : State) (d : Nat) (dg : Word) :
    (s.takeReport d dg).step.reported = s.step.reported ∧ (s.takeReport d dg).step.commit = s.step.commit := by
  unfold State.takeReport
  split
  · exact leaderDecide_commit s
  · exact leaderDecide_commit { s with step := { s.step with reports := s.step.reports ++ [(d, dg)] } }

/-- The device as it reports. -/
def reporting (s : State) : State := { s with step := { s.step with reported := true, phase := 2 } }

theorem report_eq (s : State) : s.report = if s.leader = s.devId then (reporting s).takeReport s.devId (s.switchDigest s.curStep)
    else (reporting s).send s.leader s.curStep s.step.att (.stepReport (s.switchDigest s.curStep)) := rfl

theorem report_commit (s : State) : s.report.step.reported = true ∧ s.report.step.commit = s.step.commit := by
  rw [report_eq]
  split
  · exact takeReport_commit (reporting s) _ _
  · have kept := (netOnly_send (reporting s) s.leader s.curStep s.step.att (.stepReport (s.switchDigest s.curStep))).stepKept
    exact ⟨kept.reported, kept.commit⟩

theorem switchDigest_none {n : Nat} (h : ∀ w ∈ s.emb.switches, w.2.2 ≠ n) : s.switchDigest n = 0 := by
  have none : s.switchesOf n = [] := by
    rw [State.switchesOf, List.filterMap_eq_nil_iff]
    intro t _
    rw [Option.map_eq_none_iff, List.find?_eq_none]
    exact fun w hw => by simp [h w hw]
  simp [State.switchDigest, none]

/-! ### DEVICE_READY -/

/-- The commit set of a ready device. -/
def setAside (s : State) (job : JobRec) : CommitSet :=
  s.commitSet (s.commitRanges.map (fun r => (r.1, r.2.1, s.bytes (r.1 * 0x800000 + r.2.1) r.2.2))) job

/-- A device with a commit set set aside, and a record of it in the book. -/
def withCommit (s : State) (b : RouteBook) (k : CommitSet) : State := { s with book := b, step := { s.step with commit := some k } }

theorem exec_deviceReady {job : JobRec} (hj : s.step.jobRec = some job) (clean : NoUpsets s) (can : s.canReport = true)
    (base : s.job.baseRun = false) (asked : s.book.asked = true) :
    ∃ b, exec .deviceReady s = .next (withCommit s b (setAside s job)).report := by
  obtain ⟨b, hb⟩ := record_asked 0 0 s.curStep s.step.att (setAside s job).words asked (show 7 < 9 by omega)
  refine ⟨b, ?_⟩
  show execDeviceReady s = _
  unfold execDeviceReady
  rw [hj]
  dsimp only
  rw [can, base, readRanges_clean clean]
  simp only [Bool.not_true, Bool.false_eq_true, if_false]
  rw [State.writeCommit, show s.commitSet _ job = setAside s job from rfl, hb]
  rfl

theorem canReport_of (hst : s.job.st = .running) (hd : s.step.decision = none) (hs : s.step.stopped = false) (hh : s.step.halted = none)
    (hr : s.step.reported = false) (hp : s.step.spoilt = false) (hb : (s.step.no, s.step.att) ∉ s.step.barred)
    (hj : s.step.jobRec.isSome = true) (ha : ∀ t ∈ s.stepTiles, (s.tile t).arrived = true)
    (hl : s.learning s.step.no = true → s.reductionsDone = true) : s.canReport = true := by
  have arrived : s.everyStepTile (·.arrived) = true := by
    rw [State.everyStepTile, List.all_eq_true]
    exact ha
  have reduced : (!s.learning s.step.no || s.reductionsDone) = true := by
    cases h : s.learning s.step.no
    · rfl
    · rw [hl h]
      rfl
  rw [State.canReport, curStep_of_undecided hd, hst, hd, hs, hh, hr, hp, hj, arrived, reduced]
  simpa using hb

theorem deviceReady_completes {job : JobRec} (hj : s.step.jobRec = some job) (clean : NoUpsets s) (can : s.canReport = true)
    (base : s.job.baseRun = false) (hd : s.step.decision = none) (asked : s.book.asked = true) :
    Completes .deviceReady s (fun u =>
      (∃ k : CommitSet, u.step.commit = some k ∧ k.step = s.step.no ∧ k.grads = s.emb.grads ∧ k.arrivals = s.step.arrivals ∧ k.job = job ∧
        k.inputs = s.commitRanges.map (fun r => (r.1, r.2.1, s.bytes (r.1 * 0x800000 + r.2.1) r.2.2))) ∧
      u.step.reported = true ∧
      (s.leader ≠ s.devId → ∃ dg : Word, Sends s.leader s.step.no s.step.att (.stepReport dg) s u ∧
        ((∀ w ∈ s.emb.switches, w.2.2 ≠ s.step.no) → dg = 0))) := by
  obtain ⟨b, he⟩ := exec_deviceReady hj clean can base asked
  obtain ⟨reported, commit⟩ := report_commit (withCommit s b (setAside s job))
  refine ⟨_, he, ⟨setAside s job, commit, curStep_of_undecided hd, rfl, rfl, rfl, rfl⟩, reported, fun far => ?_⟩
  refine ⟨s.switchDigest s.curStep, ?_, fun h => ?_⟩
  · rw [report_eq, if_neg (show ¬ (withCommit s b (setAside s job)).leader = (withCommit s b (setAside s job)).devId from far),
      ← curStep_of_undecided hd]
    exact sends_send (body := .stepReport (s.switchDigest s.curStep)) rfl (reporting (withCommit s b (setAside s job))) s.leader s.curStep s.step.att
  · rw [curStep_of_undecided hd]
    exact switchDigest_none h

end

end Sys2Proof.Proofs
end

section
/-! The arrival of a tile: its buffers close, and what the reductions then do (R149, R201, R251 to R260). -/
namespace Sys2Proof.Proofs

open Sys2Proof Sys2Proof.Machine Sys2Proof.Laws

/-- The tiles and the job stay, and a closed buffer stays closed. -/
structure StaysClosed (s u : State) : Prop where
  tiles : u.tiles = s.tiles
  job : u.job = s.job
  closed : ∀ i, (s.buf i).closed = true → (u.buf i).closed = true

section
variable {s t u : State}

theorem staysClosed_of_eq (ht : u.tiles = s.tiles) (hj : u.job = s.job) (hb : u.bufs = s.bufs) : StaysClosed s u :=
  ⟨ht, hj, fun i h => by rwa [State.buf, hb]⟩

theorem NetOnly.staysClosed (h : NetOnly s u) : StaysClosed s u := staysClosed_of_eq h.tiles h.job h.bufs

theorem staysClosed_refl (s : State) : StaysClosed s s := ⟨rfl, rfl, fun _ => id⟩

theorem staysClosed_trans (h : StaysClosed s t) (k : StaysClosed t u) : StaysClosed s u :=
  ⟨k.tiles.trans h.tiles, k.job.trans h.job, fun i hi => k.closed i (h.closed i hi)⟩

theorem staysClosed_ite {c : Prop} [Decidable c] (h : c → StaysClosed s t) (k : ¬ c → StaysClosed s u) : StaysClosed s (if c then t else u) := by
  split
  · next hc => exact h hc
  · next hc => exact k hc

theorem staysClosed_foldl {α : Type} (f : State → α → State) (h : ∀ s x, StaysClosed s (f s x)) (xs : List α) (s : State) :
    StaysClosed s (xs.foldl f s) := by
  induction xs generalizing s with
  | nil => exact staysClosed_refl s
  | cons x xs ih => exact staysClosed_trans (h s x) (ih _)

theorem StaysClosed.bufDesc (h : StaysClosed s u) (i : Nat) : u.bufDesc i = s.bufDesc i := by
  rw [State.bufDesc, State.buffers, h.job, State.bufDesc, State.buffers]

end

/-! ### Buffers, and what the hub writes -/

theorem buf_updBuf (s : State) (n : Nat) (f : BufState → BufState) (i : Nat) : (s.updBuf n f).buf i = if i = n then f (s.buf n) else s.buf i :=
  smap_get_put _ _ _ _ _

theorem staysClosed_updBuf (s : State) (n : Nat) {f : BufState → BufState} (h : ∀ k, k.closed = true → (f k).closed = true) :
    StaysClosed s (s.updBuf n f) := by
  refine ⟨rfl, rfl, fun i hi => ?_⟩
  rw [buf_updBuf]
  split
  · next hn => exact h _ (hn ▸ hi)
  · exact hi

theorem staysClosed_complete (s : State) (n : Nat) : StaysClosed s (s.updBuf n (fun k => { k with complete := true })) :=
  staysClosed_updBuf s n fun _ h => h
theorem staysClosed_shardDone (s : State) (n : Nat) (d : Bool) : StaysClosed s (s.updBuf n (fun k => { k with shardDone := d })) :=
  staysClosed_updBuf s n fun _ h => h
theorem staysClosed_vals (s : State) (n : Nat) (vals : List Nat) : StaysClosed s (s.updBuf n (fun k => { k with vals := vals })) :=
  staysClosed_updBuf s n fun _ h => h

theorem logOnly_hubWrite (s : State) (t off : Nat) (bs : List Byte) : LogOnly s (s.hubWrite t off bs) := by
  unfold State.hubWrite
  extract_lets x
  have h : LogOnly s x.1 := logOnly_writeT0 ..
  exact logOnly_ite (fun _ => h) fun _ => logOnly_trans h (logOnly_tmemError ..)

theorem logOnly_sumsRead (s : State) (b : BufDesc) (first n : Nat) : LogOnly s (s.sumsRead b first n).1 := by
  have h := logOnly_readT0 s (b.elemAt first) (16 * n)
  unfold State.sumsRead
  extract_lets y
  split
  · exact h
  · exact logOnly_trans h (logOnly_trans (logOnly_barCommit ..) (logOnly_tmemError ..))

theorem staysClosed_emb (s : State) (e : EmbState) : StaysClosed s { s with emb := e } := staysClosed_of_eq rfl rfl rfl
theorem staysClosed_step (s : State) (p : StepState) : StaysClosed s { s with step := p } := staysClosed_of_eq rfl rfl rfl

theorem staysClosed_addSquare (s : State) (v : Val) : StaysClosed s (s.addSquare v) := staysClosed_emb ..

/-! ### The job record (R258) -/

theorem staysClosed_setJobRec (s : State) (r : JobRec) : StaysClosed s (s.setJobRec r) :=
  staysClosed_trans (staysClosed_step s _) (logOnly_foldl _ (fun _ _ => logOnly_hubWrite ..) _ _).netOnly.staysClosed

theorem staysClosed_formJobRec (s : State) : StaysClosed s s.formJobRec :=
  staysClosed_ite (fun _ => staysClosed_refl s) fun _ => staysClosed_setJobRec ..

theorem staysClosed_maybePartial (s : State) : StaysClosed s s.maybePartial := by
  unfold State.maybePartial
  extract_lets r sent
  have h : StaysClosed s sent := (netOnly_sendAll ..).staysClosed
  exact staysClosed_ite (fun _ => staysClosed_refl s) fun _ =>
    staysClosed_trans h (staysClosed_trans (staysClosed_step sent _) (staysClosed_formJobRec _))

/-! ### A buffer's completion (R255) -/

theorem logOnly_writeRecord (s : State) (n : Nat) (b : BufDesc) : LogOnly s (s.writeRecord n b) := logOnly_hubWrite ..

theorem staysClosed_finishBuffer (s : State) (n : Nat) (b : BufDesc) : StaysClosed s (s.finishBuffer n b) := by
  unfold State.finishBuffer
  extract_lets k ready
  refine staysClosed_ite (fun _ => ?_) fun _ => staysClosed_refl s
  exact staysClosed_trans (staysClosed_complete s n)
    (staysClosed_trans (logOnly_writeRecord ..).netOnly.staysClosed (staysClosed_maybePartial _))

theorem staysClosed_writeResults (s : State) (n : Nat) (b : BufDesc) (src first : Nat) (vals : List Nat) :
    StaysClosed s (s.writeResults n b src first vals) := by
  unfold State.writeResults
  extract_lets u
  have h : StaysClosed s u := (logOnly_hubWrite ..).netOnly.staysClosed
  exact staysClosed_trans h (staysClosed_updBuf u n fun _ h => h)

theorem staysClosed_completeShard (s : State) (n : Nat) (b : BufDesc) : StaysClosed s (s.completeShard n b) := by
  unfold State.completeShard
  extract_lets sh y r vals w infs x sq last
  have read : StaysClosed s y.1 := (logOnly_sumsRead ..).netOnly.staysClosed
  refine staysClosed_ite (fun _ => staysClosed_refl s) fun _ => staysClosed_ite (fun _ => read) fun _ => ?_
  have hw : StaysClosed y.1 w := staysClosed_writeResults ..
  have hx : StaysClosed w x := staysClosed_updBuf w n fun _ h => h
  have hsq : StaysClosed x sq := staysClosed_ite (fun _ => staysClosed_foldl _ (fun _ _ => staysClosed_addSquare ..) _ _) fun _ => staysClosed_refl x
  have hlast : StaysClosed sq last :=
    staysClosed_ite (fun _ => (netOnly_foldl _ (fun _ _ => netOnly_sendAll ..) _ _).staysClosed) fun _ => staysClosed_refl sq
  exact staysClosed_trans read (staysClosed_trans hw (staysClosed_trans hx (staysClosed_trans hsq (staysClosed_trans hlast
    (staysClosed_finishBuffer ..)))))

/-! ### The fixed tree (R259) -/

theorem netOnly_sendTree (s : State) (n dst dist : Nat) (vals : List Nat) : NetOnly s (s.sendTree n dst dist vals) :=
  netOnly_foldl _ (fun _ _ => netOnly_send ..) _ _

theorem staysClosed_treeResult (s : State) (n : Nat) (b : BufDesc) (first : Nat) (vals : List Nat) : StaysClosed s (s.treeResult n b first vals) := by
  unfold State.treeResult
  extract_lets cov fresh w low bad x sq full
  have hw : StaysClosed s w := staysClosed_writeResults ..
  have hx : StaysClosed w x := staysClosed_ite (fun _ => staysClosed_updBuf w n fun _ h => h) fun _ => staysClosed_refl w
  have hsq : StaysClosed x sq := staysClosed_ite (fun _ => staysClosed_foldl _ (fun _ _ => staysClosed_addSquare ..) _ _) fun _ => staysClosed_refl x
  exact staysClosed_trans hw (staysClosed_trans hx (staysClosed_trans hsq (staysClosed_trans (staysClosed_shardDone sq n full)
    (staysClosed_finishBuffer ..))))

theorem staysClosed_climb (n : Nat) (b : BufDesc) (fuel : Nat) (s : State) : StaysClosed s (State.climb n b fuel s) := by
  induction fuel generalizing s with
  | zero => exact staysClosed_refl s
  | succ fuel ih =>
    unfold State.climb
    extract_lets k r p d sent
    have hs : StaysClosed s sent :=
      staysClosed_foldl _ (fun s q => staysClosed_ite (fun _ => staysClosed_refl s) fun _ => (netOnly_sendTree ..).staysClosed) _ _
    have up : ∀ f : BufState → BufState, (∀ k, k.closed = true → (f k).closed = true) → StaysClosed s (State.climb n b fuel (s.updBuf n f)) :=
      fun f h => staysClosed_trans (staysClosed_updBuf s n h) (ih _)
    refine staysClosed_ite (fun _ => staysClosed_trans hs (staysClosed_treeResult ..)) fun _ =>
      staysClosed_ite (fun _ => (netOnly_sendTree ..).staysClosed) fun _ => staysClosed_ite (fun _ => ?_) fun _ => up _ fun _ h => h
    split
    · exact up _ fun _ h => h
    · exact staysClosed_refl s

/-! ### Closing (R251, R253) -/

theorem staysClosed_close (s : State) (n : Nat) : StaysClosed s (s.updBuf n (fun k => { k with closed := true })) := staysClosed_updBuf s n fun _ _ => rfl

theorem close_closed (s : State) (n : Nat) : ((s.updBuf n (fun k => { k with closed := true })).buf n).closed = true := by
  rw [buf_updBuf, if_pos rfl]

/-- What follows in a buffer's closing: the shards go out, or the tree starts. -/
theorem staysClosed_afterClose (s : State) (n : Nat) (b : BufDesc) :
    StaysClosed (s.updBuf n (fun k => { k with closed := true })) (s.closeBuffer n b) := by
  unfold State.closeBuffer
  extract_lets u rs p v y vals
  refine staysClosed_ite (fun _ => ?_) fun _ => ?_
  · have hv : StaysClosed u v := by
      refine staysClosed_foldl _ (fun s j => ?_) _ _
      have read := (logOnly_sumsRead s b (shardOf b.nelem p j).1 (shardOf b.nelem p j).2).netOnly
      exact staysClosed_ite (fun _ => staysClosed_refl s) fun _ => staysClosed_ite (fun _ => read.staysClosed) fun _ =>
        (netOnly_trans read (netOnly_foldl _ (fun _ _ => netOnly_send ..) _ _)).staysClosed
    exact staysClosed_trans hv (staysClosed_completeShard ..)
  · have hy : StaysClosed u y.1 := (logOnly_sumsRead ..).netOnly.staysClosed
    exact staysClosed_ite (fun _ => staysClosed_trans hy (staysClosed_trans (staysClosed_vals y.1 n vals) (staysClosed_climb ..)))
      fun _ => hy

/-- What one buffer does when the buffers of a tile close. -/
def closeOne (t : Nat) (s : State) (n : Nat) : State :=
  match s.bufDesc n with
  | some b =>
    if b.tile ≠ t then s
    else if s.step.decision.isSome then s.updBuf n (fun k => { k with closed := true })
    else s.closeBuffer n b
  | none => s

theorem staysClosed_closeOne (t : Nat) (s : State) (n : Nat) : StaysClosed s (closeOne t s n) := by
  unfold closeOne
  split
  · exact staysClosed_ite (fun _ => staysClosed_refl s) fun _ => staysClosed_ite (fun _ => staysClosed_close s n) fun _ =>
      staysClosed_trans (staysClosed_close s n) (staysClosed_afterClose s n _)
  · exact staysClosed_refl s

theorem closeOne_closed {s : State} {n t : Nat} {b : BufDesc} (hb : s.bufDesc n = some b) (ht : b.tile = t) : ((closeOne t s n).buf n).closed = true := by
  rw [closeOne, hb]
  dsimp only
  rw [if_neg (not_not.mpr ht)]
  split
  · exact close_closed s n
  · exact (staysClosed_afterClose s n b).closed n (close_closed s n)

theorem staysClosed_closeBuffers (s : State) (t : Nat) : StaysClosed s (s.closeBuffers t) :=
  staysClosed_foldl _ (staysClosed_closeOne t) _ _

theorem closeOnes_closed {t n : Nat} {b : BufDesc} (ht : b.tile = t) (ns : List Nat) (s : State) (hb : s.bufDesc n = some b) (hn : n ∈ ns) :
    ((ns.foldl (closeOne t) s).buf n).closed = true := by
  induction ns generalizing s with
  | nil => exact absurd hn List.not_mem_nil
  | cons m ns ih =>
    have one := staysClosed_closeOne t s m
    by_cases hm : n = m
    · subst hm
      exact (staysClosed_foldl _ (staysClosed_closeOne t) ns _).closed n (closeOne_closed hb ht)
    · exact ih _ ((one.bufDesc n).trans hb) ((List.mem_cons.mp hn).resolve_left hm)

/-- Every buffer of the tile is closed then. -/
theorem closeBuffers_closed {s : State} {t n : Nat} {b : BufDesc} (hb : s.bufDesc n = some b) (ht : b.tile = t) :
    ((s.closeBuffers t).buf n).closed = true := by
  refine closeOnes_closed ht _ s hb (List.mem_range.mpr ?_)
  exact (List.getElem?_eq_some_iff.mp hb).1

/-! ### Every tile has arrived (R201, R214) -/

theorem staysClosed_sendTallies (s : State) : StaysClosed s s.sendTallies := by
  unfold State.sendTallies
  extract_lets e u
  refine staysClosed_ite (fun _ => staysClosed_refl s) fun _ => staysClosed_trans (t := u) (staysClosed_emb s _) ?_
  refine (netOnly_foldl _ (fun s t => ?_) _ u).staysClosed
  split
  · exact netOnly_refl s
  · exact netOnly_foldl _ (fun _ _ => netOnly_send ..) _ _

theorem staysClosed_allArrived (s : State) : StaysClosed s s.allArrived := by
  unfold State.allArrived
  extract_lets p u
  have hu : StaysClosed s u := staysClosed_step ..
  exact staysClosed_ite (fun _ => staysClosed_refl s) fun _ => staysClosed_ite
    (fun _ => staysClosed_trans hu (staysClosed_trans (staysClosed_sendTallies u) (staysClosed_maybePartial _)))
    fun _ => staysClosed_ite (fun _ => hu) fun _ => staysClosed_trans hu (staysClosed_setJobRec ..)

end Sys2Proof.Proofs
end

section
/-! The steps of O37: arrival, readiness, and the decision. -/
namespace Sys2Proof.Proofs

open Sys2Proof Sys2Proof.Machine Sys2Proof.Laws

section
variable {s : State} {t : TileId}

theorem any_engine {α : Type} (v : Vector (List α) 6) (p : α → Bool) :
    (v.toList.any fun q => q.any p) = true ↔ ∃ e : Fin 6, ∃ k ∈ v[e], p k = true := by
  rw [List.any_eq_true]
  constructor
  · rintro ⟨q, hq, h⟩
    obtain ⟨i, hi, rfl⟩ := List.mem_iff_getElem.mp hq
    have hi' : i < 6 := by simpa using hi
    exact ⟨⟨i, hi'⟩, by simpa using h⟩
  · rintro ⟨e, h⟩
    exact ⟨v[e], by simp, List.any_eq_true.mpr h⟩

/-- A context's work before its arrive is left: it has not arrived, or a command without a gate that it issued before waits or runs. -/
def WorkLeft (x : Tile) (c : CtxId) : Prop :=
  (x.ctxs[c]).step ≠ .arrived ∨ ∃ e : Fin 6,
    (∃ k ∈ x.queues[e], k.ctx = c ∧ k.serial ≤ (x.ctxs[c]).arrSerial ∧ cmdCmt k.word = false) ∨
    (∃ k ∈ x.active[e], k.cmd.ctx = c ∧ k.cmd.serial ≤ (x.ctxs[c]).arrSerial ∧ cmdCmt k.cmd.word = false)

theorem workLeft_iff (x : Tile) (c : CtxId) : (decide (x.ctxs[c].step = .arrived) && x.arrivedWork c) = true ↔ ¬ WorkLeft x c := by
  unfold Tile.arrivedWork
  extract_lets n feeds
  rw [Bool.and_eq_true, decide_eq_true_eq, Bool.and_eq_true, Bool.not_eq_true', Bool.not_eq_true', Bool.eq_false_iff, Bool.eq_false_iff, ne_eq, ne_eq,
    any_engine, any_engine, WorkLeft, not_or, not_not, exists_or, not_or]
  have one : ∀ k : EngCmd, feeds k = true ↔ k.ctx = c ∧ k.serial ≤ (x.ctxs[c]).arrSerial ∧ cmdCmt k.word = false := fun k => by
    simp [feeds, n, and_assoc]
  simp only [one]

theorem canArrive_iff (s : State) (t : TileId) : s.canArrive t = true ↔
    s.stepCtxs t ≠ [] ∧ (s.tile t).arrived = false ∧ (s.tile t).decision = none ∧ (s.step.stopped = true → (s.tile t).passed = true) ∧
      ∀ c ∈ s.stepCtxs t, ¬ WorkLeft (s.tile t) c := by
  unfold State.canArrive
  extract_lets x
  rw [Bool.and_eq_true, Bool.and_eq_true, Bool.and_eq_true, Bool.and_eq_true, List.all_eq_true]
  simp only [workLeft_iff]
  simp [and_assoc, x]
  intro _ _ _ _
  cases s.step.stopped <;> simp

theorem tileArrival_waits {c : CtxId} (hc : c ∈ s.stepCtxs t) (left : WorkLeft (s.tile t) c) : exec (.tileArrival t) s = .next s := by
  have no : s.canArrive t = false := by
    rw [Bool.eq_false_iff, ne_eq, canArrive_iff]
    exact fun h => h.2.2.2.2 c hc left
  show execTileArrival t s = _
  rw [execTileArrival, no]
  rfl

theorem arrived_ctx (s : State) (t : TileId) (l : Loc) : (s.updTile t (fun x => { x with arrived := true })).ctx l = s.ctx l := by
  rw [State.ctx, tile_updTile]
  split
  · next h => exact congrArg (fun n => (s.tile n).ctxs[l.ctx]) h.symm
  · rfl

theorem tileArrival_completes (ready : s.canArrive t = true) :
    Completes (.tileArrival t) s (fun u => (u.tile t).arrived = true ∧ (∀ l, u.ctx l = s.ctx l) ∧
      (s.learning (s.stepAt t) = true → ∀ i b, s.bufDesc i = some b → b.tile = t.val → (u.buf i).closed = true)) := by
  have run : exec (.tileArrival t) s = .next (if s.learning (s.stepAt t) then (s.updTile t (fun x => { x with arrived := true })).closeBuffers t
      else s.updTile t (fun x => { x with arrived := true })).allArrived := by
    show execTileArrival t s = _
    rw [execTileArrival, ready]
    rfl
  have ctxs := arrived_ctx s t
  have arr : ((s.updTile t (fun x => { x with arrived := true })).tile t).arrived = true := by rw [tile_updTile, if_pos rfl]
  have desc : ∀ i, (s.updTile t (fun x => { x with arrived := true })).bufDesc i = s.bufDesc i := fun _ => rfl
  generalize s.updTile t (fun x => { x with arrived := true }) = a at run ctxs arr desc
  have closing : StaysClosed a (if s.learning (s.stepAt t) then a.closeBuffers t else a) :=
    staysClosed_ite (fun _ => staysClosed_closeBuffers a t) fun _ => staysClosed_refl a
  have all := staysClosed_trans closing (staysClosed_allArrived _)
  refine ⟨_, run, ?_, fun l => ?_, fun learn i b hb ht => ?_⟩
  · rw [State.tile, all.tiles]
    exact arr
  · rw [State.ctx, State.tile, all.tiles]
    exact ctxs l
  · refine (staysClosed_allArrived _).closed i ?_
    rw [if_pos learn]
    exact closeBuffers_closed ((desc i).trans hb) ht

end

/-- Settles O37, a step at a time: a tile arrives, the device reports, the leader decides, a member records. -/
theorem stepReports : Obligations.StepReports := by
  intro s
  dsimp only
  refine ⟨fun t => ⟨?_, ?_⟩, ?_, ?_, ?_⟩
  · rintro ⟨c, hc, left⟩
    exact tileArrival_waits hc left
  · intro left some fresh undecided going
    refine tileArrival_completes ((canArrive_iff s t).mpr ⟨some, fresh, undecided, fun h => ?_, fun c hc hl => left ⟨c, hc, hl⟩⟩)
    rw [going] at h
    exact absurd h Bool.false_ne_true
  · intro job hj clean hst hb hd hs hh hr hp hbar asked ha hl
    exact deviceReady_completes hj clean (canReport_of hst hd hs hh hr hp hbar (by rw [hj]; rfl) ha hl) hb hd asked
  · intro m dg hm h own hd hh hc ha fresh
    have decides := @stepReport_decides s m dg hm h own hd hh hc ha fresh
    have waits := stepReport_waits hm h own hd fresh
    refine ⟨fun hr => decides (.inl hr) (chooseDecision_rejoined hr), fun hr dirty => waits hr fun k => dirty k.2, fun hr clean => ⟨?_, ?_, ?_, ?_, ?_⟩⟩
    · exact fun few => waits hr fun k => few k.1
    · exact fun all differ => decides (.inr ⟨all, clean⟩) (chooseDecision_differ hr differ)
    · exact fun all agree bad stop => decides (.inr ⟨all, clean⟩) (chooseDecision_stop hr agree bad stop)
    · exact fun all agree bad go => decides (.inr ⟨all, clean⟩) (chooseDecision_skip hr agree bad go)
    · exact fun all agree good => decides (.inr ⟨all, clean⟩) (chooseDecision_commit hr agree good)
  · intro m d hm h hh
    exact ⟨stepDecision_taken hm h hh, stepDecision_copy hm h⟩

end Sys2Proof.Proofs
end

section
/-! A context that sits a step out and whose own gated command a decision removes: the token of the command increments (R143, R214, R269). -/
namespace Sys2Proof.Proofs

open Sys2Proof Sys2Proof.Machine Sys2Proof.Laws

/-- Context 0 of tile 0 serves generation steps alone, in a job of one generation step and one learning step in turn. -/
def phaseJob : JobImage :=
  { digestAt := 0, headerLen := 0, sectionsInside := true, baseCamp := false,
    sections := [{ tile := 0, entries := [(0, 0)], stepSet := [0], chunks := [], committed := [], commitInputs := [], genCtxs := [0], learnCtxs := [] }],
    queues := [], tables := [], tiers := [], buffers := [], redHeader := [], committedMem := [], outputs := [], inputRanges := [],
    phase := some (1, 1), mcUpdates := false, regWrites := [], marks := [] }

/-- A commit-gated command of context 0, with token 0. -/
def gatedCmd : EngCmd :=
  { word := BitVec.ofNat 128 (2 ^ 10), ctx := 0, addr := 0, serial := 0, ops := Vector.replicate 4 0, sregs := Vector.replicate 16 0,
    tags := Vector.replicate 16 0, epoch := 0 }

/-- Learning step 1 is discarded; context 0 sits it out, and its gated command is queued. -/
def sittingOut : State :=
  { State.reset with
    tiles := [(0, { Tile.reset.setCtx 0 { Ctx.reset with mode := .wait, wait := .decision 0, step := .arrived } with
      queues := Tile.reset.queues.set 0 [gatedCmd] })],
    job := { Job.reset with st := .running, img := some phaseJob },
    step := { StepState.reset with no := 1, decision := some (.discard, 1, 0) } }

/-- The delivery removes the command and increments its token. -/
theorem sittingOut_token : ((sittingOut.deliverTo 0 .discard).ctx ⟨0, 0⟩).t[0] = 1 ∧ (sittingOut.ctx ⟨0, 0⟩).t[0] = 0 := by decide

theorem sittingOut_delivered : exec (.stepDecisionDelivery 0) sittingOut = .next (sittingOut.deliverTo 0 .discard) := rfl

/-- Refutes O38: the statement has a context that sits the step out change in its epoch alone, but a decision other than COMMIT increments
the token of each gated command that it removes, and nothing in the statement keeps such a command of this context out of the queues. -/
theorem not_tileBoundaries : ¬ Obligations.TileBoundaries := by
  unfold Obligations.TileBoundaries
  intro h
  have delivery := ((h sittingOut .discard 1 0).1 rfl).1 0 (by decide) rfl
  obtain ⟨-, delivered, -⟩ := delivery
  obtain ⟨u, run, -, waiting, -⟩ := delivered (by decide) rfl
  have out := (waiting 0 (by decide) 0 rfl rfl (by decide)).1 (by decide)
  obtain rfl : sittingOut.deliverTo 0 .discard = u := by
    rw [sittingOut_delivered] at run
    exact Host.Outcome.next.inj run
  have token := congrArg (fun c => c.t[0]) out
  have kept : ({ sittingOut.ctx ⟨0, 0⟩ with epoch := (sittingOut.ctx ⟨0, 0⟩).epoch + 1 } : Ctx).t[0] = 0 := sittingOut_token.2
  exact absurd (sittingOut_token.1.symm.trans (token.trans kept)) (by decide)

end Sys2Proof.Proofs
end

section
/-! A host command whose completion event is written over the descriptor of its own queue (R325, R328, R335). -/
namespace Sys2Proof.Proofs

open Sys2Proof Sys2Proof.Machine Sys2Proof.Laws

/-- Where the descriptor of HOSTCMD queue 1 lies. -/
def descOne : Nat := State.reset.descAt 1

/-- The hub runs; HOSTCMD queue 1 holds one entry, of operation code 0, and has EVENT queue 2, whose ring lies over queue 1's descriptor. -/
def selfTelling : State :=
  (({ State.reset with sec := { Security.reset with boot := .running, tilesOn := true } } : State).poke descOne
    ([2 ^ 63 + 4 * 2 ^ 55 + 2 * 2 ^ 13, 0x40000002000, 1].flatMap (leBytes 8))).poke (descOne + 64)
    ([2 ^ 63 + 6 * 2 ^ 60 + 4 * 2 ^ 55, descOne].flatMap (leBytes 8))

theorem selfTelling_turn : HostTurn selfTelling 1 0 0 [] :=
  ⟨by decide +kernel, by decide +kernel, by decide +kernel, fun h => absurd h (by decide +kernel), ⟨rfl, rfl⟩, by unfold NoEventQueue; decide +kernel,
    by decide, by decide, by decide +kernel, by decide +kernel⟩

/-- HEAD of queue 1, in the bytes of its descriptor, after a command. -/
def headAfter (c : Instr) (s : State) : Nat := match exec c s with
  | .next u => u.peek (s.descAt 1 + 20) 4
  | _ => 1

/-- The event's third word, the aon count 0, stands where the consumed entry was counted. -/
theorem selfTelling_head : headAfter .unload selfTelling = 0 ∧ (selfTelling.desc 1).head = 0 := by decide +kernel

/-- Refutes O57: a completed command is said to leave HEAD + 1 in its queue's descriptor whatever the event queue is, but the completion's
event is written after it, and nothing in the statement keeps the event queue's ring off the descriptor table. -/
theorem not_hostCommands : ¬ Obligations.HostCommands := by
  unfold Obligations.HostCommands
  intro h
  obtain ⟨-, invalid, -⟩ := h selfTelling .malformed
  obtain ⟨u, run, ⟨consumed, -⟩, -⟩ := invalid 1 0 0 [] selfTelling_turn (by decide) (.inl rfl) .unload (by decide)
  have head : headAfter .unload selfTelling = u.peek (selfTelling.descAt 1 + 20) 4 := by rw [headAfter, run]
  rw [← head, selfTelling_head.1, selfTelling_head.2] at consumed
  exact absurd consumed (by decide)

end Sys2Proof.Proofs
end
